-- ==== Sys2Proof/Word.lean ====
section
/-! DEFINITION. The word types of the module and the plainest helpers on them. -/

namespace Sys2Proof

/-- One byte. -/
abbrev Byte := BitVec 8

/-- A control-space register, an instruction's upper or lower half, a vector lane. -/
abbrev Word := BitVec 32

/-- A scalar register (R133), a timecode (R49). -/
abbrev DWord := BitVec 64

end Sys2Proof
end

