-- ==== Sys2Proof/Machine/Types.lean ====
section
/-! DEFINITION. The small data types that commands and state share: names of inputs, requests, packets. -/

namespace Sys2Proof

/-- The time inputs whose loss is held under R65. -/
inductive TimeInput where
  | ref | pulse | ptp | links
  deriving DecidableEq, Repr

/-- The dataset of a PTP Announce, in the order the best master clock algorithm compares it (R377). -/
structure Announce where
  domain : Byte
  ptpTimescale : Bool
  priority1 : Nat
  clockClass : Nat
  accuracy : Nat
  variance : Nat
  priority2 : Nat
  identity : Nat
  stepsRemoved : Nat
  sender : Nat
  deriving DecidableEq, Repr

/-- A network source: address, whether it is IPv4, UDP port. -/
structure Peer where
  addr : BitVec 128
  ipv4 : Bool
  port : BitVec 16
  deriving DecidableEq, Repr

/-- The head of a management request (R566): session, request number, the sequence number of its datagram, and
whether its tag verified (R563). -/
structure Req where
  sid : BitVec 32
  num : BitVec 32
  seq : BitVec 64
  verified : Bool
  deriving DecidableEq, Repr

/-- A peer's answer to the oldest RDMA request of a queue pair that has none (R381, R383): ACK or READ response with its
data, NAK by syndrome, RNR NAK. -/
inductive RdmaAck where
  | ok (data : List Byte)
  | nak (syndrome : Fin 3)
  | rnr
  deriving DecidableEq, Repr

/-- How a splice item arrives (R547): in a management session, or over Ethernet. -/
inductive Via where
  | port (req : Req)
  | eth (peer : Peer)
  deriving DecidableEq, Repr

/-- An error that comes to stand in memory: wrong symbols of a codeword of LPDDR5X, or wrong bits of a word of SRAM (R254, R283); wrong bits
on the link at the next read of a line (R285); tags of a bonded SRAM unit that can no longer be read (R270). -/
inductive MemError where
  | cells (addr : BitVec 48) (n : Fin 5)
  | link (addr : BitVec 48) (bits : Fin 3)
  | tags (unit : Fin 256)
  deriving DecidableEq, Repr

/-- A Wilef packet as its header, payload and trailer spell it (R304), and whether its CRC, LEN, TYPE and reserved bits
are good (R305, R306). -/
structure Pkt where
  dst : Nat
  src : Nat
  slice : Nat
  tc : Nat
  typ : Nat
  len : Nat
  opn : Bool
  last : Bool
  ecn : Bool
  echo : Bool
  msgId : Nat
  seq : Nat
  gen : Nat
  entropy : Nat
  addr : Nat
  arg : Nat
  payload : List Byte
  deriving DecidableEq, Repr

/-- Where a collective packet comes from: source physical ID, slice, generation (R304). The spec lays out no more of it. -/
structure CollSrc where
  src : Nat
  slice : Nat
  gen : Nat
  deriving DecidableEq, Repr

/-- A COLL packet brings data of an operation: reduction data, results, or a clapper's contribution or release (R348,
R354, R361, with the line producer's table of R434; or a member's record for
the line producer, R432). It waits in the receive buffer for its operation and its sender's signature. -/
inductive CollData where
  | part (unit : Nat) (val : List Byte)
  | result (unit : Nat) (val : List Byte)
  | arrive (t w : Nat) (table : List Byte)
  | release (r : Nat) (table : List Byte)
  | record (bytes : List Byte)
  deriving DecidableEq, Repr

/-- What the payload of a configuration or repair record holds (R525). The spec gives the payload no layout: a command
that loads a record brings its bytes and this reading of them. -/
structure RecContent where
  /-- 0 for NZ40-1600-768, 1 for NZ40-1200-768. -/
  ordering : Nat
  ceiling : Nat
  orphan : Nat
  mask : Nat
  minEpoch : Nat
  wideTol : Nat
  /-- Over-current limit of each V-die's rail in A. -/
  railLimits : List Nat
  /-- Physical row of logical group 6k + g, by index; 7 where the die runs without that group. -/
  rows : List Nat
  /-- Link slots (8 × C-die + slot) a repair record excludes. -/
  links : List Nat
  deriving DecidableEq, Repr

/-- Which take, or copy of one, a message between modules is about (R33, R38, R118): the logical ID of the module it
began on, 0xFFFF for this one; reel; take number; the generation at acceptance; the cell it is for in this module's
numbering. -/
structure TakeRef where
  origin : BitVec 16
  reel : BitVec 12
  num : BitVec 64
  gen : BitVec 16
  cell : BitVec 32
  deriving DecidableEq, Repr

/-- The module a composite message came from and the generation its packets carried (R44, R113, R118). -/
structure Sender where
  module : BitVec 16
  gen : BitVec 16
  deriving DecidableEq, Repr

/-- A take as a message of another module names it (R118). -/
structure SentRef where
  sender : Sender
  ref : TakeRef
  deriving DecidableEq, Repr

/-- Who holds a lease (R115, R118): the submitter of a reel, or the lead module of composite takes. -/
inductive Holder where
  | reel (r : Fin 4096)
  | lead (module : BitVec 16)
  deriving DecidableEq, Repr

/-- A power sample of the gaffer (R395): input, rail and model estimates, the overhead in the model, the input voltage in
10 mV, the current of each V-die's rail in A; whether the input was sampled anew. -/
structure Power where
  pIn : Nat
  pRail : Nat
  pMod : Nat
  overhead : Nat
  vIn : Nat
  amps : List Nat
  fresh : Bool
  deriving DecidableEq, Repr

/-- What the boot ROM finds and the bring-up gives (R530, R586 to R592): findings no rule computes. -/
structure Boot where
  /-- The crystal is judged stable; REFCLK is qualified. -/
  crystal : Bool
  refclk : Bool
  romTest : Bool
  identity : Bool
  counters : Bool
  /-- Both management units, the port PHY and the NOR flash (R494): the management set is whole. -/
  mgmtSet : Bool
  cfgOk : Bool
  repairOk : Bool
  /-- Straps: BOOT_HOLD, XO_JUDGE, SLOT_ID. -/
  hold : Bool
  xoJudge : Bool
  slotId : Nat
  /-- The header of slot A, of slot B verifies with a key not revoked (R531), and its firmware image hashes right. -/
  slotA : Bool
  slotB : Bool
  /-- The slots one of whose other images is found not to hash right at its first use (R532). -/
  badImages : List Nat
  /-- LPDDR5X devices that train, as a bitmap, the bin of each as MEM_SPEED codes it, the ID and the temperature in °C of each (R278),
  and the duration of the training in ms. -/
  devices : Nat
  bins : Nat
  deviceIds : List Nat
  temps : List Int
  trainMs : Nat
  /-- Outputs of the core and memory PLLs in MHz; no rule states them (R441). -/
  coreMhz : Nat
  memMhz : Nat
  /-- What fails its test: tiles; C-, F-, M-, S-, V-dies; N-die; management units. -/
  badTiles : List Nat
  badC : List Nat
  badF : List Nat
  badM : List Nat
  badS : List Nat
  badV : List Nat
  badN : Bool
  badUnits : List Nat
  /-- Journal slots that cannot be read (R112), and the time of the replay in ms. -/
  lostSlots : List Nat
  replayMs : Nat
  /-- MRAM errors corrected in the journal, reels with one copy of their record to be repaired from the other, and the highest slot
  wear in percent (R112, R126). -/
  corrected : Nat
  reelCopies : List Nat
  wear : Nat
  /-- The measured draw in W when the rails are up, from which T starts (R590). -/
  draw : Nat
  /-- When stages 0 to 9 end, in ms from t0 for 0 to 3, from t_s for the others (R586). -/
  ms : List Nat
  deriving DecidableEq, Repr, Inhabited

end Sys2Proof
end

