-- ==== Sys2Proof/Syntax.lean ====
section
/-! DEFINITION. The commands of the block: one constructor for each row of the opcode table, with the operands the row's
rule gives it. A tile instruction names its tile and the 56 bits below its opcode; a packet, datagram or request brings its
bytes. -/

namespace Sys2Proof

/-- A command; each constructor names its rule. Requests of the management port, which can wait in State (R575), come first. -/
inductive Instr where
  /-- R31. -/
  | cellWrite (req : Req) (bytes : List Byte)
  /-- R60. -/
  | gridPhase (req : Req) (bytes : List Byte)
  /-- R166. -/
  | imageLoad (req : Req) (bytes : List Byte)
  /-- R169. -/
  | imageFree (req : Req) (bytes : List Byte)
  /-- R326. -/
  | fenceSet (req : Req) (bytes : List Byte)
  /-- R326. -/
  | fenceClear (req : Req) (bytes : List Byte)
  /-- R309. -/
  | remap (req : Req) (bytes : List Byte)
  /-- R400. -/
  | contractCapSet (req : Req) (bytes : List Byte)
  /-- R399. -/
  | capLimitsSet (req : Req) (bytes : List Byte)
  /-- R403. -/
  | protectiveCapSet (req : Req) (bytes : List Byte)
  /-- R405. -/
  | protectiveCapClear (req : Req) (bytes : List Byte)
  /-- R400. -/
  | capstepValueSet (req : Req) (bytes : List Byte)
  /-- R413. -/
  | slopeSet (req : Req) (bytes : List Byte)
  /-- R412. -/
  | callSheet (req : Req) (bytes : List Byte)
  /-- R475. -/
  | domainReset (cell : BitVec 32) (error : Bool) (ask : Option Req) (dark : List Nat) (us : BitVec 16) (failed : List Nat)
  /-- R488. -/
  | moduleWarmReset (ask : Option Req) (error : Bool) (boot : Boot)
  /-- R486. -/
  | moduleColdReset (ask : Option Req) (boot : Boot)
  /-- R569. -/
  | dailiesRead (req : Req) (bytes : List Byte)
  /-- R572. -/
  | profile (answer : Option Req)
  /-- R572. -/
  | alert (answer : Option Req)
  /-- R526. -/
  | recordLoad (req : Req) (bytes : List Byte) (content : RecContent) (sigOk : Bool)
  /-- R541. -/
  | debugToken (req : Req) (bytes : List Byte) (sigOk : Bool)
  /-- R537. -/
  | sliceKeyGenerate (req : Req) (bytes : List Byte)
  /-- R538. -/
  | sliceKeyImportOpen (req : Req) (bytes : List Byte)
  /-- R538. -/
  | sliceKeyImport (req : Req) (bytes : List Byte) (sealOk : Bool)
  /-- R536. -/
  | attest (req : Req) (bytes : List Byte)
  /-- R545. -/
  | manifestPiece (via : Via) (bytes : List Byte) (sigOk : Bool)
  /-- R546. -/
  | dataChunk (via : Via) (bytes : List Byte)
  /-- R550. -/
  | activateAt (req : Req) (bytes : List Byte)
  /-- R550. -/
  | activateCancel (req : Req) (bytes : List Byte)
  /-- R555. -/
  | recovery (req : Req) (bytes : List Byte) (sigOk : Bool)
  /-- R562. -/
  | hello (num : BitVec 32) (bytes : List Byte)
  /-- R562. -/
  | key (num : BitVec 32) (bytes : List Byte)
  /-- R564. -/
  | bye (req : Req) (bytes : List Byte)
  /-- R565. -/
  | traySecret (req : Req) (bytes : List Byte)
  /-- R582. -/
  | inventoryGet (req : Req) (bytes : List Byte)
  /-- R569. -/
  | sensorGet (req : Req) (bytes : List Byte)
  /-- R569. -/
  | stateGet (req : Req) (bytes : List Byte)
  /-- R569. -/
  | regRead (req : Req) (bytes : List Byte)
  /-- R569. -/
  | regWrite (req : Req) (bytes : List Byte)
  /-- R579. -/
  | lease (req : Req) (bytes : List Byte)
  /-- R571. -/
  | sliceAssign (req : Req) (bytes : List Byte)
  /-- R11. -/
  | registerWrite (epoch : BitVec 16) (addr : BitVec 48) (value : BitVec 32)
  /-- R13. -/
  | unmappedAccess (addr : BitVec 48) (write : Bool)
  /-- R52. -/
  | latchingRead (addr : BitVec 48)
  /-- R516. -/
  | peakRead (port : Fin 179) (inward : Bool)
  /-- R21. -/
  | packageLinkFail (die : Fin 8) (slot : Fin 8)
  /-- R51. -/
  | framePulse
  /-- R57. -/
  | timeExchange (port : Fin 18) (t1 t2 t3 t4 : DWord) (partnerValid : Bool)
  /-- R55. -/
  | tbRefQualify (hz : BitVec 32)
  /-- R55. -/
  | tbRefLost
  /-- R61. -/
  | timecodePllLock
  /-- R56. -/
  | tbPulseEdge (spacing : BitVec 40)
  /-- R56. -/
  | tbPulseLost
  /-- R54. -/
  | ptpSync (domain : Byte) (sender : Nat) (t1 t2 : DWord)
  /-- R377. -/
  | announce (a : Announce)
  /-- R377. -/
  | announceTimeout
  /-- R377. -/
  | delayReq
  /-- R65. -/
  | holdoverExpiry (input : TimeInput)
  /-- R67. -/
  | tcStep
  /-- R67. -/
  | tcStepApply
  /-- R69. -/
  | cueChannelWrite (chan : Fin 64) (reg : Fin 5) (value : BitVec 32)
  /-- R92. -/
  | startTake (key : BitVec 32)
  /-- R152. -/
  | releaseClapper (between : Bool) (key : Nat)
  /-- R445. -/
  | switchClockSource (chan : Fin 64)
  /-- R551. -/
  | activateFirmwareSlot (boot : Boot)
  /-- R409. -/
  | rampStep
  /-- R510. -/
  | sampleCounters (chan : Fin 64)
  /-- R84. -/
  | submit (peer : Peer) (bytes : List Byte)
  /-- R104. -/
  | ack (peer : Peer) (bytes : List Byte)
  /-- R82. -/
  | attach (peer : Peer) (bytes : List Byte)
  /-- R115. -/
  | echo (peer : Peer) (bytes : List Byte)
  /-- R114. -/
  | heartbeat (reel : Fin 4096)
  /-- R115. -/
  | leaseExpiry (who : Holder)
  /-- R104. -/
  | outcomeResend
  /-- R82. -/
  | reelOpen
  /-- R82. -/
  | reelClose
  /-- R82. -/
  | reelForceClose
  /-- R96. -/
  | wrap (key : BitVec 32) (cycles : BitVec 64)
  /-- R95. -/
  | budgetOverrun (key : BitVec 32) (cycles : BitVec 64)
  /-- R97. -/
  | deadlineMissed (key : BitVec 32)
  /-- R93. -/
  | replan
  /-- R118. -/
  | prepare (lead : Sender) (origin : BitVec 16) (slate : List Byte)
  /-- R118. -/
  | admitAnswer (take : TakeRef) (member : Fin 64) (module : Sender) (code : BitVec 16)
  /-- R29. -/
  | admissionTimeout (take : TakeRef) (member : Fin 64) (module : BitVec 16)
  /-- R118. -/
  | commit (lead : Sender) (take : TakeRef)
  /-- R119. -/
  | abort (take : SentRef)
  /-- R119. -/
  | preparedCopyDrop (take : TakeRef)
  /-- R35. -/
  | memberOutcome (take : TakeRef) (member : Fin 64) (module : BitVec 16) (bytes : List Byte)
  /-- R121. -/
  | remoteMemberLost (module : BitVec 16)
  /-- R121. -/
  | leadGenerationChange (lead : BitVec 16) (gen : BitVec 16)
  /-- R143. -/
  | sAlu (imm : Bool) (tile : Fin 192) (body : BitVec 56)
  /-- R144. -/
  | sLih (tile : Fin 192) (body : BitVec 56)
  /-- R145. -/
  | sLd (tile : Fin 192) (body : BitVec 56)
  /-- R145. -/
  | sSt (tile : Fin 192) (body : BitVec 56)
  /-- R145. -/
  | sAmo (tile : Fin 192) (body : BitVec 56)
  /-- R146. -/
  | bCond (tile : Fin 192) (body : BitVec 56)
  /-- R146. -/
  | bLink (tile : Fin 192) (body : BitVec 56)
  /-- R146. -/
  | bReg (tile : Fin 192) (body : BitVec 56)
  /-- R147. -/
  | endTile (tile : Fin 192) (body : BitVec 56)
  /-- R148. -/
  | pCmp (tile : Fin 192) (body : BitVec 56)
  /-- R148. -/
  | pCmpi (tile : Fin 192) (body : BitVec 56)
  /-- R148. -/
  | pLog (tile : Fin 192) (body : BitVec 56)
  /-- R149. -/
  | semPost (tile : Fin 192) (body : BitVec 56)
  /-- R149. -/
  | semWait (tile : Fin 192) (body : BitVec 56)
  /-- R149. -/
  | semRd (tile : Fin 192) (body : BitVec 56)
  /-- R152. -/
  | clap (tile : Fin 192) (body : BitVec 56)
  /-- R154. -/
  | cueWait (tile : Fin 192) (body : BitVec 56)
  /-- R154. -/
  | cueWaitRelease (tile : Fin 192) (unit : Fin 6)
  /-- R155. -/
  | memFence (tile : Fin 192) (body : BitVec 56)
  /-- R264. -/
  | memFenceFlush (tile : Fin 192) (body : BitVec 56)
  /-- R157. -/
  | msgPost (tile : Fin 192) (body : BitVec 56)
  /-- R158. -/
  | msgSend (tile : Fin 192) (body : BitVec 56)
  /-- R318. -/
  | messageComplete (port : Fin 18) (bytes : List Byte)
  /-- R159. -/
  | notificationExpiry (entry : Fin 256)
  /-- R162. -/
  | cntRd (tile : Fin 192) (body : BitVec 56)
  /-- R163. -/
  | csRd (tile : Fin 192) (body : BitVec 56)
  /-- R163. -/
  | csWr (tile : Fin 192) (body : BitVec 56)
  /-- R175. -/
  | icInvalidate (tile : Fin 192)
  /-- R470. -/
  | tileHang (tile : Fin 192) (since : BitVec 64)
  /-- R197. -/
  | vFp (tile : Fin 192) (body : BitVec 56)
  /-- R197. -/
  | vInt (tile : Fin 192) (body : BitVec 56)
  /-- R198. -/
  | vSfu (tile : Fin 192) (body : BitVec 56)
  /-- R197. -/
  | vCmp (tile : Fin 192) (body : BitVec 56)
  /-- R197. -/
  | vSel (tile : Fin 192) (body : BitVec 56)
  /-- R199. -/
  | vRed (tile : Fin 192) (body : BitVec 56)
  /-- R200. -/
  | vTopk (tile : Fin 192) (body : BitVec 56)
  /-- R197. -/
  | vPerm (tile : Fin 192) (body : BitVec 56)
  /-- R197. -/
  | vCvt (tile : Fin 192) (body : BitVec 56)
  /-- R201. -/
  | vLd (tile : Fin 192) (body : BitVec 56)
  /-- R201. -/
  | vSt (tile : Fin 192) (body : BitVec 56)
  /-- R201. -/
  | vBcast (tile : Fin 192) (body : BitVec 56)
  /-- R202. -/
  | vqQuant (tile : Fin 192) (body : BitVec 56)
  /-- R202. -/
  | vqDequant (tile : Fin 192) (body : BitVec 56)
  /-- R186. -/
  | mxWload (tile : Fin 192) (body : BitVec 56)
  /-- R187. -/
  | mxSwap (tile : Fin 192) (body : BitVec 56)
  /-- R188. -/
  | mxStream (tile : Fin 192) (body : BitVec 56)
  /-- R189. -/
  | mxDrain (tile : Fin 192) (body : BitVec 56)
  /-- R190. -/
  | mxZero (tile : Fin 192) (body : BitVec 56)
  /-- R204. -/
  | dlyMove (tile : Fin 192) (body : BitVec 56)
  /-- R206. -/
  | dlyGather (tile : Fin 192) (body : BitVec 56)
  /-- R181. -/
  | dlyDsc (tile : Fin 192) (body : BitVec 56)
  /-- R243. -/
  | checkService (id : BitVec 32) (mismatch : Bool) (third : Fin 3)
  /-- R211. -/
  | spadClear (tile : Fin 192)
  /-- R268. -/
  | memCfgApply
  /-- R267. -/
  | memFlushWriteBack
  /-- R267. -/
  | memFlushInvalidate
  /-- R267. -/
  | flushDone
  /-- R291. -/
  | sliceRelease (ms : BitVec 16)
  /-- R274. -/
  | trackerFree (index : Fin 256)
  /-- R278. -/
  | driftAdjustment (mdie : Fin 4)
  /-- R280. -/
  | refresh (device : Fin 12) (rate : Fin 3) (rfm : BitVec 16)
  /-- R287. -/
  | patrolScrub (addr : BitVec 48) (errors : List MemError) (last : Bool)
  /-- R279. -/
  | devOut (device : Fin 12)
  /-- R299. -/
  | portBringUp (port : Fin 18) (failed : Fin 6) (domain : BitVec 3) (ms : BitVec 16)
  /-- R299. -/
  | portRetry (port : Fin 18)
  /-- R300. -/
  | portDown (port : Fin 18)
  /-- R300. -/
  | portDisable (port : Fin 18)
  /-- R317. -/
  | data (port : Fin 18) (bytes : List Byte)
  /-- R159. -/
  | notify (port : Fin 18) (bytes : List Byte)
  /-- R318. -/
  | wilefAck (port : Fin 18) (bytes : List Byte)
  /-- R319. -/
  | nak (port : Fin 18) (bytes : List Byte)
  /-- R161. -/
  | refuse (port : Fin 18) (bytes : List Byte)
  /-- R316. -/
  | gapTimer (src : BitVec 12) (cls : Fin 3)
  /-- R318. -/
  | ackTimer (src : BitVec 12) (cls : Fin 3)
  /-- R319. -/
  | retransmitTimeout (dst : BitVec 12) (cls : Fin 3) (seq : BitVec 32)
  /-- R313. -/
  | contextClose (dst : BitVec 12) (cls : Fin 3)
  /-- R313. -/
  | contextFree (src : BitVec 12) (cls : Fin 3)
  /-- R324. -/
  | congestionUpdate (dst : BitVec 12) (thresh : Bool)
  /-- R309. -/
  | routeTableWrite (value : BitVec 32)
  /-- R311. -/
  | rtHashRecompute
  /-- R328. -/
  | depart (port : Fin 18) (bytes : List Byte)
  /-- R323. -/
  | fdieOut (fdie : Fin 6)
  /-- R338. -/
  | create (tile : Fin 192) (body : BitVec 56)
  /-- R341. -/
  | destroy (byRegister : Bool) (slot : Fin 256) (tile : Fin 192) (body : BitVec 56)
  /-- R344. -/
  | allReduce (tile : Fin 192) (body : BitVec 56)
  /-- R344. -/
  | reduceScatter (tile : Fin 192) (body : BitVec 56)
  /-- R344. -/
  | allGather (tile : Fin 192) (body : BitVec 56)
  /-- R344. -/
  | broadcast (tile : Fin 192) (body : BitVec 56)
  /-- R344. -/
  | reduce (tile : Fin 192) (body : BitVec 56)
  /-- R344. -/
  | allToAll (tile : Fin 192) (body : BitVec 56)
  /-- R361. -/
  | clapper (tile : Fin 192) (body : BitVec 56)
  /-- R353. -/
  | send (tile : Fin 192) (body : BitVec 56)
  /-- R353. -/
  | receive (tile : Fin 192) (body : BitVec 56)
  /-- R360. -/
  | fused (tile : Fin 192) (body : BitVec 56)
  /-- R346. -/
  | collWait (tile : Fin 192) (body : BitVec 56)
  /-- R338. -/
  | join (src : CollSrc) (gid : BitVec 32) (member slot : Nat) (status : Fin 8) (hash : BitVec 64)
  /-- R338. -/
  | joinTimeout (gid : BitVec 32)
  /-- R338. -/
  | createResult (src : CollSrc) (slot : Fin 256) (gid : BitVec 32) (status : Fin 8) (table : List Byte)
  /-- R351. -/
  | sig (src : CollSrc) (slot : Fin 256) (gid : BitVec 32) (seq sig : BitVec 64)
  /-- R348. -/
  | coll (src : CollSrc) (slot : Fin 256) (gid : BitVec 32) (seq : BitVec 64) (data : CollData)
  /-- R353. -/
  | done (src : CollSrc) (slot : Fin 256) (gid : BitVec 32) (seq : BitVec 64)
  /-- R364. -/
  | fail (src : CollSrc) (slot : Fin 256) (gid : BitVec 32) (seq : BitVec 64) (reason : BitVec 16) (member : Nat) (detail : BitVec 16)
  /-- R336. -/
  | poolChange (size : Bool) (value : BitVec 32)
  /-- R370. -/
  | ethLinkBringUp (fast slow : Bool) (ms : BitVec 16)
  /-- R370. -/
  | fallbackRetry (fast : Bool)
  /-- R371. -/
  | ethLinkDown
  /-- R373. -/
  | pfcFrame (prio : Fin 8) (quanta : BitVec 16)
  /-- R374. -/
  | pfcWatchdog (prio : Fin 8) (dropped : BitVec 32)
  /-- R373. -/
  | ethPrioWrite (value : BitVec 32)
  /-- R376. -/
  | neighbourSolicitation (peer : Peer)
  /-- R379. -/
  | keyExchange (bytes : List Byte)
  /-- R380. -/
  | rekey (pn : BitVec 64)
  /-- R383. -/
  | rdmaWrite (qp : Fin 4096) (key : BitVec 32) (off : BitVec 64) (bytes : List Byte)
  /-- R383. -/
  | rdmaRead (qp : Fin 4096) (key : BitVec 32) (off : BitVec 64) (len : BitVec 32)
  /-- R389. -/
  | rdmaSend (qp : Fin 4096) (bytes : List Byte)
  /-- R386. -/
  | doorbell (qp : Fin 4096)
  /-- R381. -/
  | roceAckTimeout (qp : Fin 4096)
  /-- R388. -/
  | cePacket (qp : Fin 4096) (reel : Bool)
  /-- R388. -/
  | cnp (qp : Fin 4096)
  /-- R388. -/
  | roceRateUpdate
  /-- R393. -/
  | qpCreate
  /-- R393. -/
  | qpDestroy
  /-- R387. -/
  | qpReset
  /-- R382. -/
  | windowRegister (value : BitVec 32)
  /-- R397. -/
  | modelDiverge
  /-- R398. -/
  | sensorFault
  /-- R412. -/
  | callSheetActivate
  /-- R404. -/
  | capstepAssert
  /-- R404. -/
  | capstepRelease
  /-- R416. -/
  | toneUpdate (p : Power) (held : Fin 193)
  /-- R420. -/
  | throttleUpdate (p : Power) (steps : Fin 64)
  /-- R420. -/
  | clockSet (best : BitVec 16)
  /-- R421. -/
  | overCurrent (rail : Fin 4) (amps : BitVec 16)
  /-- R421. -/
  | overCurrentRelease (rail : Fin 4) (amps : BitVec 16)
  /-- R425. -/
  | minimumStateEntry
  /-- R425. -/
  | minimumStateExit
  /-- R433. -/
  | lpAllocation
  /-- R434. -/
  | allocationApply
  /-- R440. -/
  | crystalJudged
  /-- R440. -/
  | crystalTimeout
  /-- R449. -/
  | refclkLost
  /-- R449. -/
  | refclkBack
  /-- R450. -/
  | xoLost
  /-- R446. -/
  | switchRequest (value : BitVec 32)
  /-- R451. -/
  | clkObsWrite (value : BitVec 32)
  /-- R452. -/
  | fcountStart (value : BitVec 32)
  /-- R452. -/
  | fcountDone (khz : BitVec 24)
  /-- R466. -/
  | clkTripClear
  /-- R453. -/
  | ladderAdmission (group : Fin 48) (cycle : BitVec 64)
  /-- R455. -/
  | droop (die : Fin 8) (sensor : Fin 16) (mv : BitVec 8) (cycles : BitVec 32)
  /-- R456. -/
  | sensorRead (die : Fin 40) (temps : List (BitVec 12)) (power : BitVec 16)
  /-- R457. -/
  | thermalCeilingUpdate (die : Fin 8)
  /-- R460. -/
  | overTemperatureTrip (die : Fin 40) (sensor : Fin 32)
  /-- R463. -/
  | coolantRead (ohms : BitVec 32) (temp : BitVec 12)
  /-- R464. -/
  | leakLoopRead (ohms : BitVec 32) (draw : BitVec 16)
  /-- R484. -/
  | cut (port : Fin 18) (bytes : List Byte)
  /-- R468. -/
  | escalation (cell : BitVec 32) (boot : Boot)
  /-- R469. -/
  | fatal (die : Fin 40) (code : BitVec 16)
  /-- R584. -/
  | resetN (boot : Boot)
  /-- R490. -/
  | inputPowerLoss
  /-- R491. -/
  | powerReturn (boot : Boot)
  /-- R614. -/
  | overvoltage
  /-- R493. -/
  | repair (die : Fin 8) (group : Fin 8)
  /-- R493. -/
  | repairExecute (failed : List Nat)
  /-- R480. -/
  | dailiesRelease
  /-- R496. -/
  | profileAck (seq : BitVec 16)
  /-- R572. -/
  | noticeResend
  /-- R514. -/
  | censusClearEntry (tile : Fin 192) (entry : Fin 64)
  /-- R514. -/
  | censusClearAll (tile : Fin 192)
  /-- R512. -/
  | windowEnd (port : Fin 179) (outUnits inUnits : BitVec 32)
  /-- R541. -/
  | debugTokenExpiry
  /-- R538. -/
  | importTimeout
  /-- R520. -/
  | trngFail
  /-- R546. -/
  | localChunkBuild (index : BitVec 16)
  /-- R549. -/
  | slotVerify (sigOk : Bool)
  /-- R559. -/
  | spliceAbandon
  /-- R552. -/
  | acceptanceTake (wraps : Bool)
  /-- R552. -/
  | healthWindowEnd (boot : Boot)
  /-- R562. -/
  | keyTimeout (sid : BitVec 32)
  /-- R564. -/
  | sessionTimeout (sid : BitVec 32)
  /-- R561. -/
  | reassemblyTimeout
  /-- R579. -/
  | capLeaseLapse
  /-- R573. -/
  | leaseRenewal
  /-- R573. -/
  | unitLeaseExpiry
  /-- R576. -/
  | tokenClaim (unit : Fin 2)
  /-- R577. -/
  | takeback
  /-- R578. -/
  | noUnitTimeout (boot : Boot)
  /-- R583. -/
  | poweredHoursUpdate
  /-- R584. -/
  | startOk
  /-- R586. -/
  | powerOn (boot : Boot)
  /-- R588. -/
  | ready
  /-- R598. -/
  | pwrRun
  /-- R597. -/
  | pwrSleep
  /-- R597. -/
  | pwrDeepSleep
  /-- R599. -/
  | pwrPowerDown
  /-- R597. -/
  | drainLimit
  /-- R597. -/
  | modeApply (draw : BitVec 16)
  /-- R60. -/
  | gridStale
  /-- R54. -/
  | delayResponse (t4 : DWord)
  /-- R386. -/
  | rdmaAcknowledgement (qp : Fin 4096) (ack : RdmaAck)
  /-- R373. -/
  | pauseExpiry (prio : Fin 8)
  /-- R374. -/
  | pfcWatchdogEnd (prio : Fin 8)
  /-- R380. -/
  | oldAssociationTimeout
  /-- R398. -/
  | sensorFaultClear
  /-- R396. -/
  | warmingEnd
  /-- R396. -/
  | measuredEnd
  /-- R520. -/
  | trngHealthy
  /-- R301. -/
  | portUp10S (port : Fin 18)
  /-- R539. -/
  | jtagInstruction (instr : Fin 7)
  /-- R577. -/
  | unitOut (unit : Fin 2)
  deriving DecidableEq, Repr

end Sys2Proof
end

