-- ==== Sys2Proof/Decode.lean ====
section
/-! DEFINITION. The opcode table gives no row any bits: a command reaches this block as a command, so no word spells
one. -/

namespace Sys2Proof

/-- The command a word of the table's bits spells: none, since no row has bits. -/
def decodeTableWord (_nbits _w : Nat) : Option Instr := none

end Sys2Proof
end

