-- ==== Sys2Proof/Machine/Maps.lean ====
section
/-! DEFINITION. Sparse data by key: a list of (key, value) pairs with strictly rising keys. Memory, the register
store, the journal, the tables of contexts and messages are all held in this one form. -/

namespace Sys2Proof.Machine

/-- The value stored at a key, if one is listed. -/
def Map.get? {α : Type} : List (Nat × α) → Nat → Option α
  | [], _ => none
  | (k, v) :: m, x => if k = x then some v else Map.get? m x

/-- The value at a key, or the value an unlisted key reads as. -/
def Map.getD {α : Type} (d : α) (m : List (Nat × α)) (x : Nat) : α := (Map.get? m x).getD d

/-- List a value at a key, in place of what was listed there. -/
def Map.put {α : Type} : List (Nat × α) → Nat → α → List (Nat × α)
  | [], x, v => [(x, v)]
  | (k, w) :: m, x, v =>
    if x < k then (x, v) :: (k, w) :: m
    else if x = k then (x, v) :: m
    else (k, w) :: Map.put m x v

/-- List nothing at a key. -/
def Map.del {α : Type} (m : List (Nat × α)) (x : Nat) : List (Nat × α) := m.filter (fun e => e.1 != x)

/-- Write a value where unlisted keys read as `d`: the value `d` itself is never listed. -/
def Map.setD {α : Type} [DecidableEq α] (d : α) (m : List (Nat × α)) (x : Nat) (v : α) : List (Nat × α) :=
  if v = d then Map.del m x else Map.put m x v

/-- Every key is above a bound and the keys rise strictly. -/
def Map.above {α : Type} : Nat → List (Nat × α) → Bool
  | _, [] => true
  | b, (k, _) :: m => decide (b ≤ k) && Map.above (k + 1) m

/-- The canonical form: strictly rising keys and no entry equal to what an unlisted key reads as. -/
def Map.wf {α : Type} [DecidableEq α] (d : α) (m : List (Nat × α)) : Bool :=
  Map.above 0 m && m.all (fun e => decide (e.2 ≠ d))

/-- Change the value at a key, where one is listed. -/
def Map.modify {α : Type} (m : List (Nat × α)) (x : Nat) (f : α → α) : List (Nat × α) :=
  m.map (fun e => if e.1 = x then (e.1, f e.2) else e)

/-- Change every listed value. -/
def Map.mapVals {α : Type} (m : List (Nat × α)) (f : Nat → α → α) : List (Nat × α) :=
  m.map (fun e => (e.1, f e.1 e.2))

/-- Drop every entry whose key does not pass. -/
def Map.keep {α : Type} (m : List (Nat × α)) (p : Nat → α → Bool) : List (Nat × α) :=
  m.filter (fun e => p e.1 e.2)

/-- The first key at or above `k` that is not listed. -/
def Map.firstFree {α : Type} : List (Nat × α) → Nat → Nat
  | [], k => k
  | (x, _) :: m, k => if x = k then Map.firstFree m (k + 1) else if k < x then k else Map.firstFree m k

end Sys2Proof.Machine
end

