-- ==== Sys2Proof/Machine/Bytes.lean ====
section
/-! DEFINITION. Bytes and bit fields: little-endian and big-endian numbers, slices of byte strings, bit fields of a
number, sign extension, saturation. -/

namespace Sys2Proof.Machine

/-- The number a little-endian byte string spells. -/
def leNat : List Byte → Nat
  | [] => 0
  | b :: bs => b.toNat + 256 * leNat bs

/-- The low `n` bytes of a number, least significant first. -/
def leBytes : Nat → Nat → List Byte
  | 0, _ => []
  | n + 1, v => BitVec.ofNat 8 v :: leBytes n (v / 256)

/-- The low `n` bytes of a number, most significant first (network order). -/
def beBytes (n v : Nat) : List Byte := (leBytes n v).reverse

/-- The number a big-endian byte string spells. -/
def beNat (bs : List Byte) : Nat := leNat bs.reverse

/-- `len` bytes of a string from offset `off` (shorter where the string ends). -/
def sub (bs : List Byte) (off len : Nat) : List Byte := (bs.drop off).take len

/-- The little-endian number in `len` bytes at offset `off`. -/
def leAt (bs : List Byte) (off len : Nat) : Nat := leNat (sub bs off len)

/-- Bits [lo + len − 1 : lo] of a number. -/
def bits (v lo len : Nat) : Nat := (v / 2 ^ lo) % 2 ^ len

/-- Bit `k` of a number. -/
def bit (v k : Nat) : Bool := bits v k 1 == 1

/-- 1 for true, 0 for false. -/
def b2n (b : Bool) : Nat := if b then 1 else 0

/-- A byte string padded with zeros, or cut, to `n` bytes. -/
def padTo (n : Nat) (bs : List Byte) : List Byte := (bs ++ List.replicate (n - bs.length) 0).take n

/-- The two's complement reading of the low `n` bits. -/
def sext (n v : Nat) : Int :=
  let u := v % 2 ^ n
  if u < 2 ^ (n - 1) then (u : Int) else (u : Int) - (2 ^ n : Nat)

/-- An integer as `n` bits of two's complement. -/
def ofInt (n : Nat) (z : Int) : Nat := (z % ((2 ^ n : Nat) : Int)).toNat

/-- An integer held within the signed range of `n` bits. -/
def satSigned (n : Nat) (z : Int) : Int :=
  let hi : Int := ((2 ^ (n - 1) : Nat) : Int) - 1
  let lo : Int := -((2 ^ (n - 1) : Nat) : Int)
  if z > hi then hi else if z < lo then lo else z

/-- The least integer not below a quotient. -/
def ceilDiv (a b : Nat) : Nat := if b = 0 then 0 else (a + b - 1) / b

/-- A multiple of `m` not below `v`. -/
def roundUp (v m : Nat) : Nat := ceilDiv v m * m

/-- A number held within a range. -/
def clampNat (lo hi v : Nat) : Nat := if v < lo then lo else if v > hi then hi else v

/-- A number from its bits, bit 0 first. -/
def ofBits (p : Nat → Bool) : Nat → Nat
  | 0 => 0
  | n + 1 => ofBits p n + (if p n then 2 ^ n else 0)

/-- The number of set bits among the low `n`. -/
def popCount (v n : Nat) : Nat := (List.range n).foldl (fun a k => a + bits v k 1) 0

/-- Sum of a list. -/
def sumNat (l : List Nat) : Nat := l.foldl (· + ·) 0

/-- The greatest of a list, 0 when empty. -/
def maxNat (l : List Nat) : Nat := l.foldl Nat.max 0

/-- The position of the first element that passes, from a start. -/
def findFrom {α : Type} (p : α → Bool) : List α → Nat → Option Nat
  | [], _ => none
  | a :: l, i => if p a then some i else findFrom p l (i + 1)

/-- The median of a list of integers: the middle of the sorted list, the lower of two middles. -/
def insertInt (z : Int) : List Int → List Int
  | [] => [z]
  | x :: l => if z ≤ x then z :: x :: l else x :: insertInt z l

/-- A list of integers in rising order. -/
def sortInt (l : List Int) : List Int := l.foldr insertInt []

def asciiBytes (t : String) : List Byte := t.toList.map (fun ch => BitVec.ofNat 8 ch.toNat)

end Sys2Proof.Machine
end

