-- ==== Sys2Proof/Machine/Field.lean ====
section
/-! DEFINITION. A field of a control-space register: where it stands, how wide it is, how it is accessed (R11), what
it reads after reset and how an out-of-range value is held (R14). Also the reset values that a rule computes from an
index (R443, R502, R504). -/

namespace Sys2Proof.Machine

/-- The access codes of R11. -/
inductive Acc where
  | ro | rw | w1c | wo | rc
  deriving DecidableEq, Repr

/-- How a written value is held (R14): as written; within a range; zero or within a range; or the slew row's own treatment. -/
inductive Clamp where
  | free
  | range (lo hi : Nat)
  | zeroOr (lo hi : Nat)
  | slew
  deriving DecidableEq, Repr

/-- A register field. `key` is 32 × byte address + lowest bit; a field shown through a select register adds the
key of its window instance, so that every instance has a place of its own in the register store. -/
structure Fld where
  key : Nat
  len : Nat
  acc : Acc
  reset : Nat
  clamp : Clamp
  deriving DecidableEq, Repr

/-- The part of a key that names the instance shown through a select register. -/
def windowKey (n : Nat) : Nat := 2 ^ 64 * (n + 1)

/-- The select windows of control space: which select register chooses the instance shown. -/
inductive Window where
  | none | reel | group | qp | rwin | route | energyReel | domain | sensor | dailies
  deriving DecidableEq, Repr

/-- One row of a window's register table: `count` registers from `off` at `stride`, or one register per instance of
a select window. `fld` gives the field from the tile index and the repeat index or instance. -/
structure RegRow where
  off : Nat
  stride : Nat
  count : Nat
  win : Window
  fld : Nat → Nat → Fld

/-- The configuration record the model comes with (DESIGN CHOICE, log entry 3): ceiling of NZ40-1600-768. -/
def cfgCeilingReset : Nat := 1600

/-- The orphan cap of the record the model comes with (R579's default; log entry 3). -/
def orphanCapReset : Nat := 1000

/-- EN_SLEEP at reset (R443, R466): the Fabric, Ethernet, Management and Timecode domains. -/
def domSleepReset (d : Nat) : Nat := if d = 9 ∨ d = 11 ∨ d = 12 ∨ d = 13 then 1 else 0

/-- EN_DEEP at reset (R466): 1 for domains 12 and 13. -/
def domDeepReset (d : Nat) : Nat := if d = 12 ∨ d = 13 then 1 else 0

/-- The low words of the high pairs of the tile counters (R508). -/
def tlPairLow (n : Nat) : Bool := [0, 2, 4, 6, 20, 22].contains n

/-- CHAIN of a tile counter at reset (R504, R508). -/
def tlChainReset (n : Nat) : Nat := b2n (tlPairLow n)

/-- Tile events that are quantities (R502), by the words of R508. -/
def tlQuantity (n : Nat) : Bool :=
  [6, 20, 22, 26, 27, 44, 48, 49, 50, 51, 52, 53, 54, 80, 81, 83].contains n

/-- Tile events that count cycles (R502, R508). -/
def tlCycles (n : Nat) : Bool :=
  [0, 2, 8, 9, 11, 17, 24, 28, 32, 33, 34, 35, 36, 37, 38, 39, 40, 41, 42, 66, 87, 88, 89, 90, 91, 92, 94].contains n

/-- MODE of a tile counter at reset (R502): 1 for a condition that does not count cycles. High words and
quantities read 0 (DESIGN CHOICE, log entry 4: MODE has no effect on them). -/
def tlModeReset (n : Nat) : Nat :=
  b2n (!tlQuantity n && !tlCycles n && !(n != 0 && tlPairLow (n - 1)))

/-- The index of a module event within its block of 16, for the C-, F- and M-die blocks (R509). -/
def modBlock (n : Nat) : Nat × Nat :=
  if n < 64 then (0, n)
  else if n < 192 then (1, (n - 64) % 16)
  else if n < 288 then (2, (n - 192) % 16)
  else if n < 352 then (3, (n - 288) % 16)
  else if n < 512 then (4, n)
  else if n < 608 then (5, n - 512)
  else if n < 640 then (6, n)
  else (7, (n - 640) % 8)

/-- The low words of the high pairs of the module counters (R509). -/
def modPairLow (n : Nat) : Bool :=
  match modBlock n with
  | (0, i) => i == 0
  | (1, i) => [0, 10, 12].contains i
  | (2, i) => [0, 2].contains i
  | (3, i) => [0, 2].contains i
  | (4, i) => [352, 354, 356, 358].contains i
  | (5, i) => tlPairLow i
  | _ => false

/-- CHAIN of a module counter at reset (R504, R509, R515). -/
def modChainReset (n : Nat) : Nat := b2n (modPairLow n)

/-- Module events that are quantities (R502, R509). -/
def modQuantity (n : Nat) : Bool :=
  match modBlock n with
  | (1, i) => [10, 12].contains i
  | (2, i) => [9, 10].contains i
  | (3, i) => [0, 2].contains i
  | (4, i) => [356, 358].contains i
  | (5, _) => true
  | _ => false

/-- Module events that count cycles or tile-cycles (R502, R509). -/
def modCycles (n : Nat) : Bool :=
  match modBlock n with
  | (1, i) => [0, 2, 3, 4, 7, 9].contains i
  | (2, i) => i == 7
  | (3, i) => i == 11
  | (7, i) => [0, 1, 2].contains i
  | _ => false

/-- The indices R509 reserves. -/
def modReserved (n : Nat) : Bool :=
  (370 ≤ n && n ≤ 383) || (400 ≤ n && n ≤ 447) || (462 ≤ n && n ≤ 511) || (616 ≤ n && n ≤ 639)

/-- MODE of a module counter at reset (R502, R515). -/
def modModeReset (n : Nat) : Nat :=
  b2n (!modQuantity n && !modCycles n && !modReserved n && !(n != 0 && modPairLow (n - 1)))

end Sys2Proof.Machine
end

