-- ==== Sys2Proof/Machine/RegDefs.lean ====
section
/-! DEFINITION. Every field of every control-space register, one definition a field, named REGISTER_FIELD and
written out from the register tables of the spec (the rule of each window is named in its heading). A field of a
tile's window takes the tile index `i`; a field repeated at a stride, or shown through a select register, takes
the index `n`. -/

namespace Sys2Proof.Machine


/-! ### TC_ window (timecode, R78) -/

def Reg.TC_NOW_LO_NOW : Fld := ⟨527765581332480, 32, .ro, 0, .free⟩
def Reg.TC_NOW_HI_NOW : Fld := ⟨527765581332608, 32, .ro, 0, .free⟩
def Reg.TC_STATE_LOCK : Fld := ⟨527765581332736, 3, .ro, 0, .free⟩
def Reg.TC_STATE_HOLDOVER : Fld := ⟨527765581332739, 1, .ro, 0, .free⟩
def Reg.TC_STATE_REF_OK : Fld := ⟨527765581332740, 1, .ro, 0, .free⟩
def Reg.TC_STATE_PULSE_OK : Fld := ⟨527765581332741, 1, .ro, 0, .free⟩
def Reg.TC_STATE_PTP_OK : Fld := ⟨527765581332742, 1, .ro, 0, .free⟩
def Reg.TC_STATE_GRID_OK : Fld := ⟨527765581332743, 1, .ro, 0, .free⟩
def Reg.TC_STATE_LINKS : Fld := ⟨527765581332744, 5, .ro, 0, .free⟩
def Reg.TC_CTRL_REF_EN : Fld := ⟨527765581332864, 1, .rw, 1, .free⟩
def Reg.TC_CTRL_PULSE_EN : Fld := ⟨527765581332865, 1, .rw, 1, .free⟩
def Reg.TC_CTRL_PTP_EN : Fld := ⟨527765581332866, 1, .rw, 1, .free⟩
def Reg.TC_CTRL_WILEF_EN : Fld := ⟨527765581332867, 1, .rw, 1, .free⟩
def Reg.TC_CTRL_DOMAIN_ROOT : Fld := ⟨527765581332868, 1, .rw, 0, .free⟩
def Reg.TC_CTRL_PTP_DOMAIN : Fld := ⟨527765581332872, 8, .rw, 0, .free⟩
def Reg.TC_HOLD_HOLD_S : Fld := ⟨527765581332992, 16, .rw, 10, (.range 1 600)⟩
def Reg.TC_HOLD_HOLD_PTP_S : Fld := ⟨527765581333008, 16, .rw, 300, (.range 1 3600)⟩
def Reg.TC_SLEW_PPM_SLEW : Fld := ⟨527765581333120, 8, .rw, 100, .slew⟩
def Reg.TC_ERR_EST_ERR : Fld := ⟨527765581333248, 32, .ro, 0xFFFFFFFF, .free⟩
def Reg.TC_STEP_STEP : Fld := ⟨527765581333376, 1, .wo, 0, .free⟩
def Reg.TC_STEP_PENDING : Fld := ⟨527765581333377, 1, .ro, 0, .free⟩
def Reg.TC_STEP_REFUSED : Fld := ⟨527765581333378, 1, .w1c, 0, .free⟩
def Reg.TC_PTP_OFFSET_OFFSET : Fld := ⟨527765581333504, 32, .ro, 0, .free⟩
def Reg.TC_PULSE_OFFSET_OFFSET : Fld := ⟨527765581333632, 32, .ro, 0, .free⟩
def Reg.TC_DOMAIN_OFFSET_OFFSET : Fld := ⟨527765581333760, 32, .ro, 0, .free⟩
def Reg.TC_EVENTS_STATE_DROP : Fld := ⟨527765581333888, 1, .w1c, 0, .free⟩
def Reg.TC_EVENTS_HOLDOVER_EV : Fld := ⟨527765581333889, 1, .w1c, 0, .free⟩
def Reg.TC_EVENTS_STEPPED : Fld := ⟨527765581333890, 1, .w1c, 0, .free⟩
def Reg.TC_EVENTS_LABEL_CONFLICT : Fld := ⟨527765581333891, 1, .w1c, 0, .free⟩
def Reg.TC_EVENTS_DOMAIN_CONFLICT : Fld := ⟨527765581333892, 1, .w1c, 0, .free⟩
def Reg.TC_EVENTS_PULSE_SPACING : Fld := ⟨527765581333893, 1, .w1c, 0, .free⟩
def Reg.TC_EVENTS_REF_RANGE : Fld := ⟨527765581333894, 1, .w1c, 0, .free⟩
def Reg.TC_EVENTS_GRID_STALE : Fld := ⟨527765581333895, 1, .w1c, 0, .free⟩
def Reg.TC_EVENTS_LATE_CUES : Fld := ⟨527765581333904, 16, .rc, 0, .free⟩
def Reg.TC_GRID_PERIOD_VALUE : Fld := ⟨527765581334016, 32, .ro, 0, .free⟩
def Reg.TC_GRID_LAST_LO_VALUE : Fld := ⟨527765581334144, 32, .ro, 0, .free⟩
def Reg.TC_GRID_LAST_HI_VALUE : Fld := ⟨527765581334272, 32, .ro, 0, .free⟩
def Reg.TC_LINK_OFFSET (n : Nat) : Fld := ⟨32 * (0xF0000001000 + 16 * n) + 0, 32, .ro, 0, .free⟩
def Reg.TC_LINK_DELAY (n : Nat) : Fld := ⟨32 * (0xF0000001004 + 16 * n) + 0, 32, .ro, 0, .free⟩
def Reg.TC_LINK_ASYM (n : Nat) : Fld := ⟨32 * (0xF0000001008 + 16 * n) + 0, 32, .rw, 0, .free⟩
def Reg.TC_LINK_IN_SERVICE (n : Nat) : Fld := ⟨32 * (0xF000000100C + 16 * n) + 0, 1, .ro, 0, .free⟩
def Reg.TC_LINK_EXCLUDED (n : Nat) : Fld := ⟨32 * (0xF000000100C + 16 * n) + 1, 1, .ro, 0, .free⟩
def Reg.TC_LINK_PARTNER_VALID (n : Nat) : Fld := ⟨32 * (0xF000000100C + 16 * n) + 2, 1, .ro, 0, .free⟩
def Reg.TC_LINK_RUN (n : Nat) : Fld := ⟨32 * (0xF000000100C + 16 * n) + 8, 8, .ro, 0, .free⟩
def Reg.TC_CUE_TIME_LO (n : Nat) : Fld := ⟨32 * (0xF0000002000 + 32 * n) + 0, 32, .rw, 0, .free⟩
def Reg.TC_CUE_TIME_HI (n : Nat) : Fld := ⟨32 * (0xF0000002004 + 32 * n) + 0, 32, .rw, 0, .free⟩
def Reg.TC_CUE_CTRL_ARM (n : Nat) : Fld := ⟨32 * (0xF0000002008 + 32 * n) + 0, 1, .rw, 0, .free⟩
def Reg.TC_CUE_CTRL_FIRED (n : Nat) : Fld := ⟨32 * (0xF0000002008 + 32 * n) + 1, 1, .w1c, 0, .free⟩
def Reg.TC_CUE_CTRL_LATE (n : Nat) : Fld := ⟨32 * (0xF0000002008 + 32 * n) + 2, 1, .w1c, 0, .free⟩
def Reg.TC_CUE_CTRL_PHASE_MODE (n : Nat) : Fld := ⟨32 * (0xF0000002008 + 32 * n) + 3, 1, .rw, 0, .free⟩
def Reg.TC_CUE_CTRL_GRID_MISS (n : Nat) : Fld := ⟨32 * (0xF0000002008 + 32 * n) + 4, 1, .w1c, 0, .free⟩
def Reg.TC_CUE_CTRL_ACTION (n : Nat) : Fld := ⟨32 * (0xF0000002008 + 32 * n) + 8, 4, .rw, 0, .free⟩
def Reg.TC_CUE_CTRL_PERIOD_LOG2 (n : Nat) : Fld := ⟨32 * (0xF0000002008 + 32 * n) + 12, 6, .rw, 0, .free⟩
def Reg.TC_CUE_ARG (n : Nat) : Fld := ⟨32 * (0xF000000200C + 32 * n) + 0, 32, .rw, 0, .free⟩
def Reg.TC_CUE_PHASE (n : Nat) : Fld := ⟨32 * (0xF0000002010 + 32 * n) + 0, 16, .rw, 0, .free⟩
def Reg.TC_CS_UNMAPPED_COUNT : Fld := ⟨527766118203264, 32, .rc, 0, .free⟩

/-! ### AD_ window (admission and scheduling, R124) -/

def Reg.AD_CTRL_PAUSE : Fld := ⟨527766118203392, 1, .rw, 0, .free⟩
def Reg.AD_STATUS_ADMITTING : Fld := ⟨527766118203520, 1, .ro, 0, .free⟩
def Reg.AD_STATUS_REPLAYING : Fld := ⟨527766118203521, 1, .ro, 1, .free⟩
def Reg.AD_STATUS_CAP_UNREACHABLE : Fld := ⟨527766118203522, 1, .ro, 0, .free⟩
def Reg.AD_STATUS_ACTIVATION_HOLD : Fld := ⟨527766118203523, 1, .ro, 0, .free⟩
def Reg.AD_STATUS_GENERATION : Fld := ⟨527766118203536, 16, .ro, 0, .free⟩
def Reg.AD_FLOOR_CLOCK_F : Fld := ⟨527766118203648, 16, .ro, 600, .free⟩
def Reg.AD_LIMIT_LIMIT : Fld := ⟨527766118203776, 17, .rw, 65536, (.range 0 65536)⟩
def Reg.AD_OUTSTANDING_COUNT : Fld := ⟨527766118203904, 17, .ro, 0, .free⟩
def Reg.AD_TRANSPORT_UDP_PORT : Fld := ⟨527766118204032, 16, .rw, 6620, .free⟩
def Reg.AD_TRANSPORT_IPV6_EN : Fld := ⟨527766118204048, 1, .rw, 1, .free⟩
def Reg.AD_TRANSPORT_IPV4_EN : Fld := ⟨527766118204049, 1, .rw, 0, .free⟩
def Reg.AD_ACCEPTS_COUNT : Fld := ⟨527766118204160, 32, .rc, 0, .free⟩
def Reg.AD_REJECTS_COUNT : Fld := ⟨527766118204288, 32, .rc, 0, .free⟩
def Reg.AD_NGS_COUNT : Fld := ⟨527766118204416, 32, .rc, 0, .free⟩
def Reg.AD_DROPS_COUNT : Fld := ⟨527766118204544, 32, .rc, 0, .free⟩
def Reg.AD_LAST_REJECT_CODE : Fld := ⟨527766118204672, 16, .ro, 0, .free⟩
def Reg.AD_LAST_REJECT_REEL : Fld := ⟨527766118204688, 12, .ro, 0, .free⟩
def Reg.AD_EVENTS_LEASE_LAPSE : Fld := ⟨527766118204800, 1, .w1c, 0, .free⟩
def Reg.AD_EVENTS_LIMIT_HIT : Fld := ⟨527766118204801, 1, .w1c, 0, .free⟩
def Reg.AD_EVENTS_REPLAN_NG : Fld := ⟨527766118204802, 1, .w1c, 0, .free⟩
def Reg.AD_EVENTS_DEADLINE_NG : Fld := ⟨527766118204803, 1, .w1c, 0, .free⟩
def Reg.AD_EVENTS_OVERLAP : Fld := ⟨527766118204804, 1, .w1c, 0, .free⟩
def Reg.AD_REEL_SEL_REEL : Fld := ⟨527766118211584, 12, .rw, 0, .free⟩
def Reg.AD_REEL_CMD_CMD (n : Nat) : Fld := ⟨527766118211712 + windowKey n, 3, .wo, 0, .free⟩
def Reg.AD_REEL_STATE_STATE (n : Nat) : Fld := ⟨527766118211840 + windowKey n, 2, .ro, 0, .free⟩
def Reg.AD_REEL_STATE_ATTACHED (n : Nat) : Fld := ⟨527766118211842 + windowKey n, 1, .ro, 0, .free⟩
def Reg.AD_REEL_CFG_SLICE (n : Nat) : Fld := ⟨527766118211968 + windowKey n, 12, .rw, 0, .free⟩
def Reg.AD_REEL_CFG_LOCAL_TIME (n : Nat) : Fld := ⟨527766118211980 + windowKey n, 1, .rw, 0, .free⟩
def Reg.AD_REEL_CFG_COUNTERS_READ (n : Nat) : Fld := ⟨527766118211981 + windowKey n, 1, .rw, 0, .free⟩
def Reg.AD_REEL_CFG_CHECK_NG (n : Nat) : Fld := ⟨527766118211982 + windowKey n, 1, .rw, 0, .free⟩
def Reg.AD_REEL_CFG_HALT_ON_NG (n : Nat) : Fld := ⟨527766118211983 + windowKey n, 1, .rw, 0, .free⟩
def Reg.AD_REEL_CFG_IPV4 (n : Nat) : Fld := ⟨527766118211984 + windowKey n, 1, .rw, 0, .free⟩
def Reg.AD_REEL_TARGET_CELL (n : Nat) : Fld := ⟨527766118212096 + windowKey n, 32, .rw, 0, .free⟩
def Reg.AD_REEL_ADDR_0 (n : Nat) : Fld := ⟨527766118212224 + windowKey n, 32, .rw, 0, .free⟩
def Reg.AD_REEL_ADDR_1 (n : Nat) : Fld := ⟨527766118212352 + windowKey n, 32, .rw, 0, .free⟩
def Reg.AD_REEL_ADDR_2 (n : Nat) : Fld := ⟨527766118212480 + windowKey n, 32, .rw, 0, .free⟩
def Reg.AD_REEL_ADDR_3 (n : Nat) : Fld := ⟨527766118212608 + windowKey n, 32, .rw, 0, .free⟩
def Reg.AD_REEL_PORT_PORT (n : Nat) : Fld := ⟨527766118212736 + windowKey n, 16, .rw, 0, .free⟩
def Reg.AD_REEL_NEXT_LO_NEXT (n : Nat) : Fld := ⟨527766118212864 + windowKey n, 32, .rw, 1, .free⟩
def Reg.AD_REEL_NEXT_HI_NEXT (n : Nat) : Fld := ⟨527766118212992 + windowKey n, 32, .rw, 0, .free⟩
def Reg.AD_REEL_ACKED_LO_ACKED (n : Nat) : Fld := ⟨527766118213120 + windowKey n, 32, .ro, 0, .free⟩
def Reg.AD_REEL_ACKED_HI_ACKED (n : Nat) : Fld := ⟨527766118213248 + windowKey n, 32, .ro, 0, .free⟩
def Reg.AD_REEL_OPEN_COUNT (n : Nat) : Fld := ⟨527766118213376 + windowKey n, 17, .ro, 0, .free⟩
def Reg.AD_REEL_HELD_COUNT (n : Nat) : Fld := ⟨527766118213504 + windowKey n, 17, .ro, 0, .free⟩
def Reg.AD_CS_UNMAPPED_COUNT : Fld := ⟨527766655074176, 32, .rc, 0, .free⟩

/-! ### CJ_ window (continuity journal, R126) -/

def Reg.CJ_STATUS_REPLAY_DONE : Fld := ⟨527766655074304, 1, .ro, 0, .free⟩
def Reg.CJ_CAPACITY_SLOTS : Fld := ⟨527766655074432, 17, .ro, 65536, .free⟩
def Reg.CJ_IN_USE_SLOTS : Fld := ⟨527766655074560, 17, .ro, 0, .free⟩
def Reg.CJ_WRITES_LO_COUNT : Fld := ⟨527766655074688, 32, .ro, 0, .free⟩
def Reg.CJ_WRITES_HI_COUNT : Fld := ⟨527766655074816, 32, .ro, 0, .free⟩
def Reg.CJ_WEAR_PERCENT : Fld := ⟨527766655074944, 8, .ro, 0, .free⟩
def Reg.CJ_REPLAY_NG_COUNT : Fld := ⟨527766655075072, 17, .ro, 0, .free⟩
def Reg.CJ_REPLAY_TIME_MS : Fld := ⟨527766655075089, 15, .ro, 0, .free⟩
def Reg.CJ_ERRORS_CORRECTED : Fld := ⟨527766655075200, 16, .rc, 0, .free⟩
def Reg.CJ_ERRORS_LOST : Fld := ⟨527766655075216, 16, .rc, 0, .free⟩
def Reg.CJ_EVENTS_REPLAYED : Fld := ⟨527766655075328, 1, .w1c, 0, .free⟩
def Reg.CJ_EVENTS_SLOT_LOST : Fld := ⟨527766655075329, 1, .w1c, 0, .free⟩
def Reg.CJ_EVENTS_REEL_COPY : Fld := ⟨527766655075330, 1, .w1c, 0, .free⟩
def Reg.CJ_EVENTS_WEAR_WARN : Fld := ⟨527766655075331, 1, .w1c, 0, .free⟩
def Reg.CJ_CS_UNMAPPED_COUNT : Fld := ⟨527767191945088, 32, .rc, 0, .free⟩

/-! ### GAF_ window (gaffer, R437) -/

def Reg.GAF_STATUS_MODE : Fld := ⟨527767191945216, 3, .ro, 0, .free⟩
def Reg.GAF_STATUS_ESTIMATE : Fld := ⟨527767191945219, 2, .ro, 0, .free⟩
def Reg.GAF_STATUS_SENSOR_FAULT : Fld := ⟨527767191945221, 1, .ro, 0, .free⟩
def Reg.GAF_STATUS_CAPSTEP : Fld := ⟨527767191945222, 1, .ro, 0, .free⟩
def Reg.GAF_STATUS_PRESSED : Fld := ⟨527767191945223, 1, .ro, 0, .free⟩
def Reg.GAF_STATUS_FLOOR_HOLD : Fld := ⟨527767191945224, 1, .ro, 0, .free⟩
def Reg.GAF_STATUS_UNIFORM : Fld := ⟨527767191945225, 1, .ro, 0, .free⟩
def Reg.GAF_LIMITS_FLOOR : Fld := ⟨527767191945344, 16, .rw, 600, .free⟩
def Reg.GAF_LIMITS_CEIL : Fld := ⟨527767191945360, 16, .rw, cfgCeilingReset, .free⟩
def Reg.GAF_CFG_CFG_CEIL : Fld := ⟨527767191945472, 16, .ro, cfgCeilingReset, .free⟩
def Reg.GAF_CFG_ORPHAN : Fld := ⟨527767191945488, 16, .ro, orphanCapReset, .free⟩
def Reg.GAF_CAP_CAP : Fld := ⟨527767191945600, 16, .rw, orphanCapReset, .free⟩
def Reg.GAF_PROT_CAP_VALUE : Fld := ⟨527767191945728, 16, .rw, 0, .free⟩
def Reg.GAF_PROT_CAP_VALID : Fld := ⟨527767191945744, 1, .rw, 0, .free⟩
def Reg.GAF_CAPSTEP_VALUE : Fld := ⟨527767191945856, 16, .rw, 800, .free⟩
def Reg.GAF_SLOPE_UP : Fld := ⟨527767191945984, 16, .rw, 64, (.range 1 2000)⟩
def Reg.GAF_SLOPE_DN : Fld := ⟨527767191946000, 16, .rw, 64, (.range 1 2000)⟩
def Reg.GAF_PROT_SLOPE_RATE : Fld := ⟨527767191946112, 16, .rw, 500, (.range 100 2000)⟩
def Reg.GAF_CS_ACTIVE_SLOT : Fld := ⟨527767191946240, 8, .ro, 0, .free⟩
def Reg.GAF_CS_ACTIVE_BAND : Fld := ⟨527767191946248, 8, .ro, 20, .free⟩
def Reg.GAF_CS_ACTIVE_FRAC : Fld := ⟨527767191946256, 8, .ro, 80, .free⟩
def Reg.GAF_CS_ACTIVE_PENDING : Fld := ⟨527767191946264, 1, .ro, 0, .free⟩
def Reg.GAF_CS_NEXT_SLOT : Fld := ⟨527767191946368, 8, .rw, 0, .free⟩
def Reg.GAF_CS_NEXT_BAND : Fld := ⟨527767191946376, 8, .rw, 20, (.range 10 100)⟩
def Reg.GAF_CS_NEXT_FRAC : Fld := ⟨527767191946384, 8, .rw, 80, (.range 0 95)⟩
def Reg.GAF_CS_FLOOR_NEXT_FLOOR_W : Fld := ⟨527767191946496, 16, .rw, 0, .free⟩
def Reg.GAF_CS_FLOOR_FLOOR_W : Fld := ⟨527767191946512, 16, .ro, 0, .free⟩
def Reg.GAF_CS_FRAME_LO_FRAME : Fld := ⟨527767191946624, 32, .rw, 0, .free⟩
def Reg.GAF_CS_FRAME_HI_FRAME : Fld := ⟨527767191946752, 10, .rw, 0, .free⟩
def Reg.GAF_LEVEL_T : Fld := ⟨527767191947264, 16, .ro, 0, .free⟩
def Reg.GAF_LEVEL_E : Fld := ⟨527767191947280, 16, .ro, 0, .free⟩
def Reg.GAF_LEVEL2_Q : Fld := ⟨527767191947392, 16, .ro, 0xFFFF, .free⟩
def Reg.GAF_LEVEL2_H : Fld := ⟨527767191947408, 16, .ro, 0, .free⟩
def Reg.GAF_P_IN_P_IN : Fld := ⟨527767191947520, 16, .ro, 0, .free⟩
def Reg.GAF_P_IN_V_IN : Fld := ⟨527767191947536, 16, .ro, 0, .free⟩
def Reg.GAF_P_EST_P_MOD : Fld := ⟨527767191947648, 16, .ro, 0, .free⟩
def Reg.GAF_P_EST_P_RAIL : Fld := ⟨527767191947664, 16, .ro, 0, .free⟩
def Reg.GAF_P_CTL_P_CTL : Fld := ⟨527767191947776, 16, .ro, 0, .free⟩
def Reg.GAF_P_CTL_AVG_1S : Fld := ⟨527767191947792, 16, .ro, 0, .free⟩
def Reg.GAF_TONE_LEVEL : Fld := ⟨527767191947904, 16, .ro, 0, .free⟩
def Reg.GAF_TONE_MAX : Fld := ⟨527767191947920, 16, .ro, 0, .free⟩
def Reg.GAF_CLOCK_ACTUAL : Fld := ⟨527767191948032, 16, .ro, 0, .free⟩
def Reg.GAF_CLOCK_ASSURED : Fld := ⟨527767191948048, 16, .ro, 0, .free⟩
def Reg.GAF_THROTTLE_ISSUE : Fld := ⟨527767191948160, 7, .ro, 64, .free⟩
def Reg.GAF_LAG_FRAMES : Fld := ⟨527767191948288, 16, .ro, 0, .free⟩
def Reg.GAF_CORR_RATIO : Fld := ⟨527767191948416, 16, .ro, 0, .free⟩
def Reg.GAF_CORR_CORR_MS : Fld := ⟨527767191948432, 16, .ro, 0, .free⟩
def Reg.GAF_RAIL_CURRENT (n : Nat) : Fld := ⟨32 * (0xF0003000070 + 4 * n) + 0, 16, .ro, 0, .free⟩
def Reg.GAF_RAIL_LIMIT (n : Nat) : Fld := ⟨32 * (0xF0003000070 + 4 * n) + 16, 16, .ro, 0, .free⟩
def Reg.GAF_E_IN_LO_ENERGY : Fld := ⟨527767191949312, 32, .ro, 0, .free⟩
def Reg.GAF_E_IN_HI_ENERGY : Fld := ⟨527767191949440, 32, .ro, 0, .free⟩
def Reg.GAF_E_TONE_LO_ENERGY : Fld := ⟨527767191949568, 32, .ro, 0, .free⟩
def Reg.GAF_E_TONE_HI_ENERGY : Fld := ⟨527767191949696, 32, .ro, 0, .free⟩
def Reg.GAF_E_OVERHEAD_LO_ENERGY : Fld := ⟨527767191949824, 32, .ro, 0, .free⟩
def Reg.GAF_E_OVERHEAD_HI_ENERGY : Fld := ⟨527767191949952, 32, .ro, 0, .free⟩
def Reg.GAF_E_SLICE_LO_ENERGY : Fld := ⟨527767191950080, 32, .ro, 0, .free⟩
def Reg.GAF_E_SLICE_HI_ENERGY : Fld := ⟨527767191950208, 32, .ro, 0, .free⟩
def Reg.GAF_E_REEL_SEL_REEL : Fld := ⟨527767191950336, 12, .rw, 0, .free⟩
def Reg.GAF_E_REEL_LO_ENERGY (n : Nat) : Fld := ⟨527767191950464 + windowKey n, 32, .ro, 0, .free⟩
def Reg.GAF_E_REEL_HI_ENERGY (n : Nat) : Fld := ⟨527767191950592 + windowKey n, 32, .ro, 0, .free⟩
def Reg.GAF_LAGS_COUNT : Fld := ⟨527767191950848, 32, .rc, 0, .free⟩
def Reg.GAF_PROTECTIVE_COUNT : Fld := ⟨527767191950976, 32, .rc, 0, .free⟩
def Reg.GAF_TONE_SHORT_COUNT : Fld := ⟨527767191951104, 32, .rc, 0, .free⟩
def Reg.GAF_OVER_CURRENT_COUNT : Fld := ⟨527767191951232, 32, .rc, 0, .free⟩
def Reg.GAF_STEP_SKIPS_COUNT : Fld := ⟨527767191951360, 32, .rc, 0, .free⟩
def Reg.GAF_UNBOUNDED_FALLS_COUNT : Fld := ⟨527767191951488, 32, .rc, 0, .free⟩
def Reg.GAF_EVENTS_CAP_LAG : Fld := ⟨527767191951872, 1, .w1c, 0, .free⟩
def Reg.GAF_EVENTS_CAP_UNREACHABLE : Fld := ⟨527767191951873, 1, .w1c, 0, .free⟩
def Reg.GAF_EVENTS_PROTECTIVE : Fld := ⟨527767191951874, 1, .w1c, 0, .free⟩
def Reg.GAF_EVENTS_MODEL_DIVERGE : Fld := ⟨527767191951875, 1, .w1c, 0, .free⟩
def Reg.GAF_EVENTS_SENSOR_FAULT : Fld := ⟨527767191951876, 1, .w1c, 0, .free⟩
def Reg.GAF_EVENTS_TONE_SHORT : Fld := ⟨527767191951877, 1, .w1c, 0, .free⟩
def Reg.GAF_EVENTS_OVER_CURRENT : Fld := ⟨527767191951878, 1, .w1c, 0, .free⟩
def Reg.GAF_EVENTS_CEILING_CLAMP : Fld := ⟨527767191951879, 1, .w1c, 0, .free⟩
def Reg.GAF_EVENTS_SHUTDOWN : Fld := ⟨527767191951880, 1, .w1c, 0, .free⟩
def Reg.GAF_EVENTS_LP_SHORT : Fld := ⟨527767191951881, 1, .w1c, 0, .free⟩
def Reg.GAF_EVENTS_UNIFORM_BREAK : Fld := ⟨527767191951882, 1, .w1c, 0, .free⟩
def Reg.GAF_LP_CTRL_ROLE : Fld := ⟨527767191953408, 1, .rw, 0, .free⟩
def Reg.GAF_LP_CTRL_UNIFORM : Fld := ⟨527767191953409, 1, .rw, 0, .free⟩
def Reg.GAF_LP_CTRL_ENABLE : Fld := ⟨527767191953410, 1, .rw, 0, .free⟩
def Reg.GAF_LP_CTRL_LP : Fld := ⟨527767191953424, 16, .rw, 0, .free⟩
def Reg.GAF_LP_TOTAL_TOTAL : Fld := ⟨527767191953536, 23, .rw, 0, .free⟩
def Reg.GAF_LP_SHIFT_MAX_SHIFT : Fld := ⟨527767191953664, 16, .rw, 100, (.range 0 800)⟩
def Reg.GAF_LP_ALLOC_ALLOC : Fld := ⟨527767191953792, 16, .ro, 0, .free⟩
def Reg.GAF_LP_ALLOC_CLOCK : Fld := ⟨527767191953808, 16, .ro, 0, .free⟩
def Reg.GAF_LP_STATUS_MEMBERS : Fld := ⟨527767191953920, 13, .ro, 0, .free⟩
def Reg.GAF_LP_STATUS_RECORDS : Fld := ⟨527767191953936, 13, .ro, 0, .free⟩
def Reg.GAF_LOG_SEL_ENTRY : Fld := ⟨527767191954432, 4, .rw, 0, .free⟩
def Reg.GAF_LOG_KIND_KIND : Fld := ⟨527767191954560, 4, .ro, 0, .free⟩
def Reg.GAF_LOG_KIND_VALUE : Fld := ⟨527767191954576, 16, .ro, 0, .free⟩
def Reg.GAF_LOG_TIME_LO_TIME : Fld := ⟨527767191954688, 32, .ro, 0, .free⟩
def Reg.GAF_LOG_TIME_HI_TIME : Fld := ⟨527767191954816, 32, .ro, 0, .free⟩
def Reg.GAF_CS_UNMAPPED_COUNT : Fld := ⟨527767728816000, 32, .rc, 0, .free⟩

/-! ### CLK_ window (clocks and thermal, R466) -/

def Reg.CLK_STATUS_XO_OK : Fld := ⟨527767728816128, 1, .ro, 0, .free⟩
def Reg.CLK_STATUS_JUDGE : Fld := ⟨527767728816129, 1, .ro, 0, .free⟩
def Reg.CLK_STATUS_REFCLK_OK : Fld := ⟨527767728816130, 1, .ro, 0, .free⟩
def Reg.CLK_STATUS_HOLDOVER : Fld := ⟨527767728816131, 1, .ro, 0, .free⟩
def Reg.CLK_DOM_SEL_DOM : Fld := ⟨527767728816256, 4, .rw, 0, .free⟩
def Reg.CLK_DOM_CTRL_EN_RUN (n : Nat) : Fld := ⟨527767728816384 + windowKey n, 1, .rw, 1, .free⟩
def Reg.CLK_DOM_CTRL_EN_SLEEP (n : Nat) : Fld := ⟨527767728816385 + windowKey n, 1, .rw, (domSleepReset n), .free⟩
def Reg.CLK_DOM_CTRL_EN_DEEP (n : Nat) : Fld := ⟨527767728816386 + windowKey n, 1, .rw, (domDeepReset n), .free⟩
def Reg.CLK_DOM_CTRL_SOURCE (n : Nat) : Fld := ⟨527767728816388 + windowKey n, 2, .ro, 0, .free⟩
def Reg.CLK_DOM_CTRL_SWITCHING (n : Nat) : Fld := ⟨527767728816390 + windowKey n, 1, .ro, 0, .free⟩
def Reg.CLK_DOM_CTRL_DIV (n : Nat) : Fld := ⟨527767728816392 + windowKey n, 11, .ro, 16, .free⟩
def Reg.CLK_DOM_FREQ_MHZ (n : Nat) : Fld := ⟨527767728816512 + windowKey n, 16, .ro, 0, .free⟩
def Reg.CLK_SW_TIME_LO_TIME : Fld := ⟨527767728816640, 32, .rw, 0, .free⟩
def Reg.CLK_SW_TIME_HI_TIME : Fld := ⟨527767728816768, 32, .rw, 0, .free⟩
def Reg.CLK_SW_CMD_DOM : Fld := ⟨527767728816896, 4, .wo, 0, .free⟩
def Reg.CLK_SW_CMD_SOURCE : Fld := ⟨527767728816900, 2, .wo, 0, .free⟩
def Reg.CLK_SW_STATUS_ARMED : Fld := ⟨527767728817024, 3, .ro, 0, .free⟩
def Reg.CLK_SW_STATUS_REFUSAL : Fld := ⟨527767728817028, 3, .ro, 0, .free⟩
def Reg.CLK_OBS_SRC : Fld := ⟨527767728817152, 5, .rw, 0, .free⟩
def Reg.CLK_OBS_N : Fld := ⟨527767728817160, 4, .rw, 15, .free⟩
def Reg.CLK_OBS_EN : Fld := ⟨527767728817164, 1, .rw, 0, .free⟩
def Reg.CLK_OBS_REFUSED : Fld := ⟨527767728817165, 1, .ro, 0, .free⟩
def Reg.CLK_FCOUNT_SEL_SRC : Fld := ⟨527767728817280, 5, .rw, 0, .free⟩
def Reg.CLK_FCOUNT_SEL_START : Fld := ⟨527767728817288, 1, .wo, 0, .free⟩
def Reg.CLK_FCOUNT_KHZ : Fld := ⟨527767728817408, 24, .ro, 0, .free⟩
def Reg.CLK_FCOUNT_VALID : Fld := ⟨527767728817432, 1, .ro, 0, .free⟩
def Reg.CLK_FCOUNT_GATE_XO : Fld := ⟨527767728817433, 1, .ro, 0, .free⟩
def Reg.CLK_DROOP_EVENTS_COUNT (n : Nat) : Fld := ⟨32 * (0xF0004000100 + 16 * n) + 0, 32, .rc, 0, .free⟩
def Reg.CLK_DROOP_STRETCHED_CYCLES (n : Nat) : Fld := ⟨32 * (0xF0004000104 + 16 * n) + 0, 32, .rc, 0, .free⟩
def Reg.CLK_DROOP_WORST_MV (n : Nat) : Fld := ⟨32 * (0xF0004000108 + 16 * n) + 0, 8, .rc, 0, .free⟩
def Reg.CLK_DROOP_WORST_SENSOR (n : Nat) : Fld := ⟨32 * (0xF0004000108 + 16 * n) + 8, 4, .rc, 0, .free⟩
def Reg.CLK_LADDER_WAITS_COUNT (n : Nat) : Fld := ⟨32 * (0xF000400010C + 16 * n) + 0, 32, .rc, 0, .free⟩
def Reg.CLK_TH_STATE_TMAX (n : Nat) : Fld := ⟨32 * (0xF0004000200 + 16 * n) + 0, 12, .ro, 0xFFF, .free⟩
def Reg.CLK_TH_STATE_VALID (n : Nat) : Fld := ⟨32 * (0xF0004000200 + 16 * n) + 12, 6, .ro, 0, .free⟩
def Reg.CLK_TH_STATE_THROTTLED (n : Nat) : Fld := ⟨32 * (0xF0004000200 + 16 * n) + 18, 1, .ro, 0, .free⟩
def Reg.CLK_TH_STATE_ISSUE_LIMIT (n : Nat) : Fld := ⟨32 * (0xF0004000200 + 16 * n) + 19, 1, .ro, 0, .free⟩
def Reg.CLK_TH_STATE_PINNED (n : Nat) : Fld := ⟨32 * (0xF0004000200 + 16 * n) + 20, 1, .ro, 0, .free⟩
def Reg.CLK_TH_CEIL_MHZ (n : Nat) : Fld := ⟨32 * (0xF0004000204 + 16 * n) + 0, 16, .ro, 1650, .free⟩
def Reg.CLK_TH_EXCLUDED_SENSORS (n : Nat) : Fld := ⟨32 * (0xF0004000208 + 16 * n) + 0, 32, .ro, 0, .free⟩
def Reg.CLK_TH_THROTTLE_MS_MS (n : Nat) : Fld := ⟨32 * (0xF000400020C + 16 * n) + 0, 32, .rc, 0, .free⟩
def Reg.CLK_TH_LIMIT_THROTTLE : Fld := ⟨527767728840704, 12, .rw, 950, (.range 700 950)⟩
def Reg.CLK_TH_SENSOR_SEL_SENSOR : Fld := ⟨527767728840832, 5, .rw, 0, .free⟩
def Reg.CLK_TH_SENSOR_SEL_DIE : Fld := ⟨527767728840840, 6, .rw, 0, .free⟩
def Reg.CLK_TH_SENSOR_TEMP (n : Nat) : Fld := ⟨527767728840960 + windowKey n, 12, .ro, 0, .free⟩
def Reg.CLK_TH_SENSOR_VALID (n : Nat) : Fld := ⟨527767728840972 + windowKey n, 1, .ro, 0, .free⟩
def Reg.CLK_TH_SENSOR_EXCL_COLD (n : Nat) : Fld := ⟨527767728840973 + windowKey n, 1, .ro, 0, .free⟩
def Reg.CLK_TH_SENSOR_EXCL_FLAT (n : Nat) : Fld := ⟨527767728840974 + windowKey n, 1, .ro, 0, .free⟩
def Reg.CLK_TH_OTHER_TMAX : Fld := ⟨527767728841088, 12, .ro, 0, .free⟩
def Reg.CLK_TH_OTHER_DIE : Fld := ⟨527767728841100, 6, .ro, 0, .free⟩
def Reg.CLK_TRIP_DIE : Fld := ⟨527767728841216, 6, .ro, 0, .free⟩
def Reg.CLK_TRIP_SENSOR : Fld := ⟨527767728841222, 5, .ro, 0, .free⟩
def Reg.CLK_TRIP_VALID : Fld := ⟨527767728841227, 1, .w1c, 0, .free⟩
def Reg.CLK_LEAK_RES : Fld := ⟨527767728848896, 16, .ro, 0xFFFF, .free⟩
def Reg.CLK_LEAK_STATE : Fld := ⟨527767728848912, 3, .ro, 4, .free⟩
def Reg.CLK_COOL_TEMP : Fld := ⟨527767728849024, 12, .ro, 0, .free⟩
def Reg.CLK_COOL_VALID : Fld := ⟨527767728849036, 1, .ro, 0, .free⟩
def Reg.CLK_COOL_OPEN : Fld := ⟨527767728849037, 1, .ro, 0, .free⟩
def Reg.CLK_COOL_SHORT : Fld := ⟨527767728849038, 1, .ro, 0, .free⟩
def Reg.CLK_COOL_HIGH : Fld := ⟨527767728849039, 1, .ro, 0, .free⟩
def Reg.CLK_EVENTS_XO_LOST : Fld := ⟨527767728849152, 1, .w1c, 0, .free⟩
def Reg.CLK_EVENTS_REFCLK_LOST : Fld := ⟨527767728849153, 1, .w1c, 0, .free⟩
def Reg.CLK_EVENTS_REFCLK_BACK : Fld := ⟨527767728849154, 1, .w1c, 0, .free⟩
def Reg.CLK_EVENTS_SWITCH_DONE : Fld := ⟨527767728849155, 1, .w1c, 0, .free⟩
def Reg.CLK_EVENTS_SWITCH_REFUSED : Fld := ⟨527767728849156, 1, .w1c, 0, .free⟩
def Reg.CLK_EVENTS_THROTTLE : Fld := ⟨527767728849157, 1, .w1c, 0, .free⟩
def Reg.CLK_EVENTS_SENSOR_EXCLUDED : Fld := ⟨527767728849158, 1, .w1c, 0, .free⟩
def Reg.CLK_EVENTS_DIE_PINNED : Fld := ⟨527767728849159, 1, .w1c, 0, .free⟩
def Reg.CLK_EVENTS_OTHER_HOT : Fld := ⟨527767728849160, 1, .w1c, 0, .free⟩
def Reg.CLK_EVENTS_LEAK_WET : Fld := ⟨527767728849161, 1, .w1c, 0, .free⟩
def Reg.CLK_EVENTS_LEAK_OPEN : Fld := ⟨527767728849162, 1, .w1c, 0, .free⟩
def Reg.CLK_EVENTS_LEAK_MARGINAL : Fld := ⟨527767728849163, 1, .w1c, 0, .free⟩
def Reg.CLK_EVENTS_COOL_FAULT : Fld := ⟨527767728849164, 1, .w1c, 0, .free⟩
def Reg.CLK_EVENTS_COOL_HIGH : Fld := ⟨527767728849165, 1, .w1c, 0, .free⟩
def Reg.CLK_EVENTS_OBS_REFUSED : Fld := ⟨527767728849166, 1, .w1c, 0, .free⟩
def Reg.CLK_CS_UNMAPPED_COUNT : Fld := ⟨527768265686912, 32, .rc, 0, .free⟩

/-! ### FLT_ window (faults, R498) -/

def Reg.FLT_STATUS_LEVEL : Fld := ⟨527768265687040, 2, .ro, 0, .free⟩
def Reg.FLT_STATUS_DUMP_BUSY : Fld := ⟨527768265687042, 1, .ro, 0, .free⟩
def Reg.FLT_STATUS_RESET_BUSY : Fld := ⟨527768265687043, 1, .ro, 0, .free⟩
def Reg.FLT_STATUS_DEPARTING : Fld := ⟨527768265687044, 1, .ro, 0, .free⟩
def Reg.FLT_STATUS_FATAL : Fld := ⟨527768265687045, 1, .ro, 0, .free⟩
def Reg.FLT_COUNT_CORR_COUNT : Fld := ⟨527768265687168, 32, .rc, 0, .free⟩
def Reg.FLT_COUNT_CONT_COUNT : Fld := ⟨527768265687296, 32, .rc, 0, .free⟩
def Reg.FLT_COUNT_DOMAIN_COUNT : Fld := ⟨527768265687424, 32, .rc, 0, .free⟩
def Reg.FLT_COUNT_MODULE_COUNT : Fld := ⟨527768265687552, 32, .ro, 0, .free⟩
def Reg.FLT_COUNT_FATAL_COUNT : Fld := ⟨527768265687680, 32, .ro, 0, .free⟩
def Reg.FLT_HANGS_COUNT : Fld := ⟨527768265687808, 32, .rc, 0, .free⟩
def Reg.FLT_STALE_COUNT : Fld := ⟨527768265687936, 32, .rc, 0, .free⟩
def Reg.FLT_RESET_CELL_CELL : Fld := ⟨527768265688064, 32, .rw, 0, .free⟩
def Reg.FLT_RESET_CMD_CMD : Fld := ⟨527768265688192, 2, .wo, 0, .free⟩
def Reg.FLT_RESET_STATUS_REFUSAL : Fld := ⟨527768265688320, 3, .ro, 0, .free⟩
def Reg.FLT_GEN_SEL_CELL : Fld := ⟨527768265688448, 32, .rw, 0, .free⟩
def Reg.FLT_GEN_GEN : Fld := ⟨527768265688576, 16, .ro, 0, .free⟩
def Reg.FLT_GEN_VALID : Fld := ⟨527768265688592, 1, .ro, 0, .free⟩
def Reg.FLT_LAST_RESET_SOURCE : Fld := ⟨527768265688704, 3, .ro, 0, .free⟩
def Reg.FLT_CUT_TX_COUNT : Fld := ⟨527768265689088, 32, .rc, 0, .free⟩
def Reg.FLT_CUT_RX_COUNT : Fld := ⟨527768265689216, 32, .rc, 0, .free⟩
def Reg.FLT_CUT_SUPPRESSED_COUNT : Fld := ⟨527768265689344, 32, .rc, 0, .free⟩
def Reg.FLT_LOG_SEL_ENTRY : Fld := ⟨527768265691136, 6, .rw, 0, .free⟩
def Reg.FLT_LOG_WORD_WORD (n : Nat) : Fld := ⟨32 * (0xF0005000084 + 4 * n) + 0, 32, .ro, 0, .free⟩
def Reg.FLT_DLY_SEL_SLOT : Fld := ⟨527768265693184, 4, .rw, 0, .free⟩
def Reg.FLT_DLY_SEL_DIE : Fld := ⟨527768265693192, 3, .rw, 0, .free⟩
def Reg.FLT_DLY_STATE_VALID (n : Nat) : Fld := ⟨527768265693312 + windowKey n, 1, .ro, 0, .free⟩
def Reg.FLT_DLY_STATE_COMPLETE (n : Nat) : Fld := ⟨527768265693313 + windowKey n, 1, .ro, 0, .free⟩
def Reg.FLT_DLY_STATE_TILES (n : Nat) : Fld := ⟨527768265693320 + windowKey n, 5, .ro, 0, .free⟩
def Reg.FLT_DLY_STATE_UNCAPTURED (n : Nat) : Fld := ⟨527768265693328 + windowKey n, 16, .ro, 0, .free⟩
def Reg.FLT_DLY_TIME_US (n : Nat) : Fld := ⟨527768265693440 + windowKey n, 16, .ro, 0, .free⟩
def Reg.FLT_DLY_RELEASE_RELEASE : Fld := ⟨527768265693568, 1, .wo, 0, .free⟩
def Reg.FLT_DLY_OVERWRITTEN_COUNT : Fld := ⟨527768265693696, 32, .rc, 0, .free⟩
def Reg.FLT_PROFILE_WORD_WORD (n : Nat) : Fld := ⟨32 * (0xF0005000100 + 4 * n) + 0, 32, .ro, 0, .free⟩
def Reg.FLT_PROFILE_ACK_SEQ : Fld := ⟨527768265697280, 16, .rw, 0, .free⟩
def Reg.FLT_SUSPECT_LO_GROUPS : Fld := ⟨527768265699328, 32, .ro, 0, .free⟩
def Reg.FLT_SUSPECT_HI_GROUPS : Fld := ⟨527768265699456, 16, .ro, 0, .free⟩
def Reg.FLT_REPAIR_CMD_DIE : Fld := ⟨527768265699584, 3, .wo, 0, .free⟩
def Reg.FLT_REPAIR_CMD_GROUP : Fld := ⟨527768265699588, 3, .wo, 0, .free⟩
def Reg.FLT_REPAIR_CMD_GO : Fld := ⟨527768265699592, 1, .wo, 0, .free⟩
def Reg.FLT_REPAIR_STATUS_BUSY : Fld := ⟨527768265699712, 1, .ro, 0, .free⟩
def Reg.FLT_REPAIR_STATUS_DONE : Fld := ⟨527768265699713, 1, .w1c, 0, .free⟩
def Reg.FLT_REPAIR_STATUS_REFUSAL : Fld := ⟨527768265699714, 3, .ro, 0, .free⟩
def Reg.FLT_EVENTS_HANG : Fld := ⟨527768265699840, 1, .w1c, 0, .free⟩
def Reg.FLT_EVENTS_DOMAIN_RESET : Fld := ⟨527768265699841, 1, .w1c, 0, .free⟩
def Reg.FLT_EVENTS_MODULE_RESET : Fld := ⟨527768265699842, 1, .w1c, 0, .free⟩
def Reg.FLT_EVENTS_ESCALATED : Fld := ⟨527768265699843, 1, .w1c, 0, .free⟩
def Reg.FLT_EVENTS_CUT_SENT : Fld := ⟨527768265699844, 1, .w1c, 0, .free⟩
def Reg.FLT_EVENTS_CUT_RECEIVED : Fld := ⟨527768265699845, 1, .w1c, 0, .free⟩
def Reg.FLT_EVENTS_DUMP_TRUNCATED : Fld := ⟨527768265699846, 1, .w1c, 0, .free⟩
def Reg.FLT_EVENTS_SUSPECT : Fld := ⟨527768265699847, 1, .w1c, 0, .free⟩
def Reg.FLT_EVENTS_REPAIR_DONE : Fld := ⟨527768265699848, 1, .w1c, 0, .free⟩
def Reg.FLT_EVENTS_PROFILE_CHANGED : Fld := ⟨527768265699849, 1, .w1c, 0, .free⟩
def Reg.FLT_EVENTS_POWER_LOSS : Fld := ⟨527768265699850, 1, .w1c, 0, .free⟩
def Reg.FLT_EVENTS_FATAL : Fld := ⟨527768265699851, 1, .w1c, 0, .free⟩
def Reg.FLT_CS_UNMAPPED_COUNT : Fld := ⟨527768802557824, 32, .rc, 0, .free⟩

/-! ### CNT_ window (counters, R515) -/

def Reg.CNT_COUNT (n : Nat) : Fld := ⟨32 * (0xF0006000000 + 4 * n) + 0, 32, .rw, 0, .free⟩
def Reg.CNT_CFG_CHAIN (n : Nat) : Fld := ⟨32 * (0xF0006001000 + 4 * n) + 0, 1, .rw, (modChainReset n), .free⟩
def Reg.CNT_CFG_MODE (n : Nat) : Fld := ⟨32 * (0xF0006001000 + 4 * n) + 1, 1, .rw, (modModeReset n), .free⟩
def Reg.CNT_CFG_OVF (n : Nat) : Fld := ⟨32 * (0xF0006001000 + 4 * n) + 2, 1, .w1c, 0, .free⟩
def Reg.CNT_SAMPLE_VALUE (n : Nat) : Fld := ⟨32 * (0xF0006002000 + 4 * n) + 0, 32, .ro, 0, .free⟩
def Reg.CNT_SAMPLE_TIME_LO_TIME : Fld := ⟨527768802951168, 32, .ro, 0, .free⟩
def Reg.CNT_SAMPLE_TIME_HI_TIME : Fld := ⟨527768802951296, 32, .ro, 0, .free⟩
def Reg.CNT_SAMPLE_SEQ_SEQ : Fld := ⟨527768802951424, 16, .ro, 0, .free⟩
def Reg.CNT_UNMAPPED_COUNT : Fld := ⟨527768802951680, 32, .rc, 0, .free⟩
def Reg.CNT_PORT_CTRL_K (n : Nat) : Fld := ⟨32 * (0xF0006004000 + 32 * n) + 0, 5, .rw, 10, (.range 0 20)⟩
def Reg.CNT_PORT_CTRL_STEPPED (n : Nat) : Fld := ⟨32 * (0xF0006004000 + 32 * n) + 5, 1, .w1c, 0, .free⟩
def Reg.CNT_PORT_LAST_OUT (n : Nat) : Fld := ⟨32 * (0xF0006004004 + 32 * n) + 0, 32, .ro, 0, .free⟩
def Reg.CNT_PORT_LAST_IN (n : Nat) : Fld := ⟨32 * (0xF0006004008 + 32 * n) + 0, 32, .ro, 0, .free⟩
def Reg.CNT_PORT_PEAK_OUT (n : Nat) : Fld := ⟨32 * (0xF000600400C + 32 * n) + 0, 32, .rc, 0, .free⟩
def Reg.CNT_PORT_PEAK_IN (n : Nat) : Fld := ⟨32 * (0xF0006004010 + 32 * n) + 0, 32, .rc, 0, .free⟩
def Reg.CNT_PORT_PEAK_OUT_AT (n : Nat) : Fld := ⟨32 * (0xF0006004014 + 32 * n) + 0, 32, .ro, 0, .free⟩
def Reg.CNT_PORT_PEAK_IN_AT (n : Nat) : Fld := ⟨32 * (0xF0006004018 + 32 * n) + 0, 32, .ro, 0, .free⟩
def Reg.CNT_CS_UNMAPPED_COUNT : Fld := ⟨527769339428736, 32, .rc, 0, .free⟩

/-! ### MEM_ window (memory, R294) -/

def Reg.MEM_STATUS_DEV_IN_SERVICE : Fld := ⟨527769339428864, 12, .ro, 0, .free⟩
def Reg.MEM_STATUS_INIT_DONE : Fld := ⟨527769339428876, 1, .ro, 0, .free⟩
def Reg.MEM_STATUS_FLUSH_BUSY : Fld := ⟨527769339428877, 1, .ro, 0, .free⟩
def Reg.MEM_STATUS_RELEASE_BUSY : Fld := ⟨527769339428878, 1, .ro, 0, .free⟩
def Reg.MEM_STATUS_APPLY_BUSY : Fld := ⟨527769339428879, 1, .ro, 0, .free⟩
def Reg.MEM_STATUS_CHANNELS : Fld := ⟨527769339428888, 7, .ro, 0, .free⟩
def Reg.MEM_SIZE_GIB : Fld := ⟨527769339428992, 10, .ro, 0, .free⟩
def Reg.MEM_SPEED_TARGET : Fld := ⟨527769339429120, 2, .rw, 0, .free⟩
def Reg.MEM_SPEED_DEV_BIN : Fld := ⟨527769339429128, 24, .ro, 0, .free⟩
def Reg.MEM_TRAIN_STORED_USED : Fld := ⟨527769339429248, 1, .ro, 0, .free⟩
def Reg.MEM_TRAIN_FORCE_COLD : Fld := ⟨527769339429249, 1, .rw, 0, .free⟩
def Reg.MEM_TRAIN_LAST_MS : Fld := ⟨527769339429264, 16, .ro, 0, .free⟩
def Reg.MEM_ALLOT_LPDDR_BASE : Fld := ⟨527769339429376, 10, .rw, 0, .free⟩
def Reg.MEM_ALLOT_LPDDR_LIMIT : Fld := ⟨527769339429392, 10, .rw, 0, .free⟩
def Reg.MEM_CACHE_RANGE_BASE : Fld := ⟨527769339429504, 10, .rw, 0, .free⟩
def Reg.MEM_CACHE_RANGE_LIMIT : Fld := ⟨527769339429520, 10, .rw, 0, .free⟩
def Reg.MEM_CACHE_CFG_PLACEMENT : Fld := ⟨527769339429632, 1, .rw, 0, .free⟩
def Reg.MEM_CFG_APPLY_APPLY : Fld := ⟨527769339429760, 1, .wo, 0, .free⟩
def Reg.MEM_CFG_STATUS_REFUSAL : Fld := ⟨527769339429888, 4, .ro, 0, .free⟩
def Reg.MEM_CFG_STATUS_APPLIED : Fld := ⟨527769339429892, 1, .w1c, 0, .free⟩
def Reg.MEM_UNIT_MODE_CACHE (n : Nat) : Fld := ⟨32 * (0xF0007000040 + 4 * n) + 0, 32, .rw, 0, .free⟩
def Reg.MEM_ALLOT_SRAM_ALLOT (n : Nat) : Fld := ⟨32 * (0xF0007000060 + 4 * n) + 0, 32, .rw, 0, .free⟩
def Reg.MEM_FLUSH_CMD_CMD : Fld := ⟨527769339432960, 2, .wo, 0, .free⟩
def Reg.MEM_FLUSH_STATUS_BUSY : Fld := ⟨527769339433088, 1, .ro, 0, .free⟩
def Reg.MEM_FLUSH_STATUS_RESUMED : Fld := ⟨527769339433089, 1, .ro, 0, .free⟩
def Reg.MEM_FLUSH_STATUS_UNITS_LEFT : Fld := ⟨527769339433096, 8, .ro, 0, .free⟩
def Reg.MEM_SCRUB_CTRL_LPDDR_PERIOD_H : Fld := ⟨527769339433216, 8, .rw, 24, (.range 0 168)⟩
def Reg.MEM_SCRUB_CTRL_SRAM_PERIOD_H : Fld := ⟨527769339433224, 8, .rw, 1, (.range 0 168)⟩
def Reg.MEM_SCRUB_STATUS_POSITION_GIB : Fld := ⟨527769339433344, 10, .ro, 0, .free⟩
def Reg.MEM_SCRUB_STATUS_PASSES : Fld := ⟨527769339433360, 16, .ro, 0, .free⟩
def Reg.MEM_RELEASE_CMD_RELEASE : Fld := ⟨527769339433472, 1, .wo, 0, .free⟩
def Reg.MEM_RELEASE_STATUS_BUSY : Fld := ⟨527769339433600, 1, .ro, 0, .free⟩
def Reg.MEM_RELEASE_STATUS_DONE : Fld := ⟨527769339433601, 1, .w1c, 0, .free⟩
def Reg.MEM_RELEASE_STATUS_LAST_MS : Fld := ⟨527769339433616, 16, .ro, 0, .free⟩
def Reg.MEM_ENC_CTRL_ENABLE : Fld := ⟨527769339433728, 1, .rw, 0, .free⟩
def Reg.MEM_ENC_CTRL_ACTIVE : Fld := ⟨527769339433729, 1, .ro, 0, .free⟩
def Reg.MEM_ENC_CTRL_KEY_PRESENT : Fld := ⟨527769339433730, 1, .ro, 0, .free⟩
def Reg.MEM_ECC_CORR_COUNT : Fld := ⟨527769339433984, 32, .rc, 0, .free⟩
def Reg.MEM_ECC_UNCORR_COUNT : Fld := ⟨527769339434112, 32, .rc, 0, .free⟩
def Reg.MEM_LINK_ECC_COUNT : Fld := ⟨527769339434240, 32, .rc, 0, .free⟩
def Reg.MEM_SRAM_CORR_COUNT : Fld := ⟨527769339434368, 32, .rc, 0, .free⟩
def Reg.MEM_SRAM_UNCORR_COUNT : Fld := ⟨527769339434496, 32, .rc, 0, .free⟩
def Reg.MEM_RFM_COUNT : Fld := ⟨527769339434624, 32, .rc, 0, .free⟩
def Reg.MEM_UNMAPPED_COUNT : Fld := ⟨527769339434752, 32, .rc, 0, .free⟩
def Reg.MEM_POISON_LO_ADDR : Fld := ⟨527769339435008, 32, .ro, 0, .free⟩
def Reg.MEM_POISON_HI_ADDR : Fld := ⟨527769339435136, 32, .ro, 0, .free⟩
def Reg.MEM_REFRESH_MODE : Fld := ⟨527769339435264, 2, .ro, 0, .free⟩
def Reg.MEM_REFRESH_DEVICE : Fld := ⟨527769339435272, 4, .ro, 0, .free⟩
def Reg.MEM_EVENTS_UNCORR : Fld := ⟨527769339435392, 1, .w1c, 0, .free⟩
def Reg.MEM_EVENTS_POISON_CONSUMED : Fld := ⟨527769339435393, 1, .w1c, 0, .free⟩
def Reg.MEM_EVENTS_SCRUB_PASS : Fld := ⟨527769339435394, 1, .w1c, 0, .free⟩
def Reg.MEM_EVENTS_TRAIN_FALLBACK : Fld := ⟨527769339435395, 1, .w1c, 0, .free⟩
def Reg.MEM_EVENTS_DEV_OUT : Fld := ⟨527769339435396, 1, .w1c, 0, .free⟩
def Reg.MEM_EVENTS_REFRESH_UP : Fld := ⟨527769339435397, 1, .w1c, 0, .free⟩
def Reg.MEM_EVENTS_FLUSH_DONE : Fld := ⟨527769339435398, 1, .w1c, 0, .free⟩
def Reg.MEM_EVENTS_UNIT_RECOVERED : Fld := ⟨527769339435399, 1, .w1c, 0, .free⟩
def Reg.MEM_EVENTS_KEY_MISSING : Fld := ⟨527769339435400, 1, .w1c, 0, .free⟩
def Reg.MEM_CS_UNMAPPED_COUNT : Fld := ⟨527769876299648, 32, .rc, 0, .free⟩

/-! ### DLY_ window (dolly, R295) -/

def Reg.DLY_PF_CTRL_EN : Fld := ⟨527769876299776, 1, .rw, 1, .free⟩
def Reg.DLY_PF_CTRL_SEQ_ASSUME : Fld := ⟨527769876299777, 1, .rw, 1, .free⟩
def Reg.DLY_PF_CTRL_DEPTH : Fld := ⟨527769876299784, 7, .rw, 16, (.range 1 64)⟩
def Reg.DLY_PF_CTRL_MAX_DEPTH : Fld := ⟨527769876299792, 7, .rw, 64, (.range 1 64)⟩
def Reg.DLY_PF_THROTTLE_QUEUE_LIMIT : Fld := ⟨527769876299904, 8, .rw, 32, .free⟩
def Reg.DLY_EVENTS_PF_DROPPED : Fld := ⟨527769876300032, 1, .w1c, 0, .free⟩
def Reg.DLY_EVENTS_ENGINES_FULL : Fld := ⟨527769876300033, 1, .w1c, 0, .free⟩
def Reg.DLY_EVENTS_TRACKER_STOLEN : Fld := ⟨527769876300034, 1, .w1c, 0, .free⟩
def Reg.DLY_TRK_ACTIVE (n : Nat) : Fld := ⟨32 * (0xF0008000100 + 64 * n) + 0, 7, .ro, 0, .free⟩
def Reg.DLY_TRK_CONFIRMED (n : Nat) : Fld := ⟨32 * (0xF0008000100 + 64 * n) + 8, 7, .ro, 0, .free⟩
def Reg.DLY_TRK_ENGINES_BUSY (n : Nat) : Fld := ⟨32 * (0xF0008000100 + 64 * n) + 16, 6, .ro, 0, .free⟩
def Reg.DLY_PF_ISSUED_COUNT (n : Nat) : Fld := ⟨32 * (0xF0008000104 + 64 * n) + 0, 32, .rc, 0, .free⟩
def Reg.DLY_PF_USEFUL_COUNT (n : Nat) : Fld := ⟨32 * (0xF0008000108 + 64 * n) + 0, 32, .rc, 0, .free⟩
def Reg.DLY_PF_UNUSED_COUNT (n : Nat) : Fld := ⟨32 * (0xF000800010C + 64 * n) + 0, 32, .rc, 0, .free⟩
def Reg.DLY_PF_DROPPED_COUNT (n : Nat) : Fld := ⟨32 * (0xF0008000110 + 64 * n) + 0, 32, .rc, 0, .free⟩
def Reg.DLY_PF_LATE_COUNT (n : Nat) : Fld := ⟨32 * (0xF0008000114 + 64 * n) + 0, 32, .rc, 0, .free⟩
def Reg.DLY_DMA_MOVES_COUNT (n : Nat) : Fld := ⟨32 * (0xF0008000118 + 64 * n) + 0, 32, .rc, 0, .free⟩
def Reg.DLY_CS_UNMAPPED_COUNT : Fld := ⟨527770413170560, 32, .rc, 0, .free⟩

/-! ### FAB_ window (fabric, R332) -/

def Reg.FAB_ID_PHYS : Fld := ⟨527770413170688, 12, .rw, 0, .free⟩
def Reg.FAB_ID_VALID : Fld := ⟨527770413170700, 1, .rw, 0, .free⟩
def Reg.FAB_ID_DOMAIN : Fld := ⟨527770413170701, 3, .rw, 0, .free⟩
def Reg.FAB_SLICE_SLICE : Fld := ⟨527770413170816, 12, .ro, 0, .free⟩
def Reg.FAB_STATUS_PORTS_UP : Fld := ⟨527770413170944, 18, .ro, 0, .free⟩
def Reg.FAB_STATUS_RT_HASH_VALID : Fld := ⟨527770413170962, 1, .ro, 0, .free⟩
def Reg.FAB_STATUS_FDIES : Fld := ⟨527770413170963, 6, .ro, 0, .free⟩
def Reg.FAB_CTRL_SPRAY_ADAPT : Fld := ⟨527770413171072, 1, .rw, 1, .free⟩
def Reg.FAB_CTRL_CC_EN : Fld := ⟨527770413171073, 1, .rw, 1, .free⟩
def Reg.FAB_TC_WEIGHT_COLL : Fld := ⟨527770413171200, 4, .rw, 3, (.range 1 15)⟩
def Reg.FAB_TC_WEIGHT_BULK : Fld := ⟨527770413171204, 4, .rw, 1, (.range 1 15)⟩
def Reg.FAB_TC_WEIGHT_CTRL_SHARE : Fld := ⟨527770413171208, 8, .rw, 10, (.range 1 50)⟩
def Reg.FAB_CC_MD_EIGHTHS : Fld := ⟨527770413171328, 3, .rw, 1, (.range 1 4)⟩
def Reg.FAB_CC_AI_GBPS : Fld := ⟨527770413171336, 8, .rw, 1, (.range 1 100)⟩
def Reg.FAB_CC_PERIOD_US : Fld := ⟨527770413171344, 8, .rw, 5, (.range 1 100)⟩
def Reg.FAB_REORDER_GAP_US : Fld := ⟨527770413171456, 16, .rw, 20, (.range 5 1000)⟩
def Reg.FAB_REORDER_RETRY_LIMIT : Fld := ⟨527770413171472, 8, .rw, 8, (.range 1 32)⟩
def Reg.FAB_EGRESS_THRESH_KIB : Fld := ⟨527770413171584, 16, .rw, 64, (.range 8 1024)⟩
def Reg.FAB_RT_SEL_LOGICAL : Fld := ⟨527770413171712, 12, .rw, 0, .free⟩
def Reg.FAB_RT_ENTRY_PHYS (n : Nat) : Fld := ⟨527770413171840 + windowKey n, 12, .rw, 0, .free⟩
def Reg.FAB_RT_ENTRY_VALID (n : Nat) : Fld := ⟨527770413171852 + windowKey n, 1, .rw, 0, .free⟩
def Reg.FAB_RT_ENTRY_FENCED (n : Nat) : Fld := ⟨527770413171853 + windowKey n, 1, .rw, 0, .free⟩
def Reg.FAB_RT_CMD_STATUS_REFUSED : Fld := ⟨527770413171968, 1, .w1c, 0, .free⟩
def Reg.FAB_RT_HASH_HASH (n : Nat) : Fld := ⟨32 * (0xF0009000030 + 4 * n) + 0, 32, .ro, 0, .free⟩
def Reg.FAB_ALLOW_ALLOW (n : Nat) : Fld := ⟨32 * (0xF0009004000 + 4 * n) + 0, 32, .rw, 0, .free⟩
def Reg.FAB_DROP_SLICE_COUNT : Fld := ⟨527770413173248, 32, .rc, 0, .free⟩
def Reg.FAB_DROP_FENCED_COUNT : Fld := ⟨527770413173376, 32, .rc, 0, .free⟩
def Reg.FAB_DROP_GEN_COUNT : Fld := ⟨527770413173504, 32, .rc, 0, .free⟩
def Reg.FAB_DROP_CRC_COUNT : Fld := ⟨527770413173632, 32, .rc, 0, .free⟩
def Reg.FAB_DROP_WINDOW_COUNT : Fld := ⟨527770413173760, 32, .rc, 0, .free⟩
def Reg.FAB_DUP_COUNT : Fld := ⟨527770413173888, 32, .rc, 0, .free⟩
def Reg.FAB_RETX_COUNT : Fld := ⟨527770413174016, 32, .rc, 0, .free⟩
def Reg.FAB_UNREACH_COUNT : Fld := ⟨527770413174144, 32, .rc, 0, .free⟩
def Reg.FAB_EVENTS_PORT_DOWN : Fld := ⟨527770413174272, 1, .w1c, 0, .free⟩
def Reg.FAB_EVENTS_DOMAIN_MISMATCH : Fld := ⟨527770413174273, 1, .w1c, 0, .free⟩
def Reg.FAB_EVENTS_UNREACHABLE : Fld := ⟨527770413174274, 1, .w1c, 0, .free⟩
def Reg.FAB_EVENTS_DEPARTED : Fld := ⟨527770413174275, 1, .w1c, 0, .free⟩
def Reg.FAB_EVENTS_REFUSED : Fld := ⟨527770413174276, 1, .w1c, 0, .free⟩
def Reg.FAB_EVENTS_FDIE_OUT : Fld := ⟨527770413174277, 1, .w1c, 0, .free⟩
def Reg.FAB_REORDER_USE_KIB (n : Nat) : Fld := ⟨32 * (0xF0009000080 + 4 * n) + 0, 16, .ro, 0, .free⟩
def Reg.FAB_REORDER_USE_CONTEXTS (n : Nat) : Fld := ⟨32 * (0xF0009000080 + 4 * n) + 16, 16, .ro, 0, .free⟩
def Reg.FAB_PORT_STATE_STATE (n : Nat) : Fld := ⟨32 * (0xF0009001000 + 64 * n) + 0, 3, .ro, 0, .free⟩
def Reg.FAB_PORT_STATE_DOMAIN_MISMATCH (n : Nat) : Fld := ⟨32 * (0xF0009001000 + 64 * n) + 3, 1, .ro, 0, .free⟩
def Reg.FAB_PORT_STATE_PARTNER_DOMAIN (n : Nat) : Fld := ⟨32 * (0xF0009001000 + 64 * n) + 4, 3, .ro, 0, .free⟩
def Reg.FAB_PORT_STATE_RETRIES (n : Nat) : Fld := ⟨32 * (0xF0009001000 + 64 * n) + 8, 8, .ro, 0, .free⟩
def Reg.FAB_PORT_STATE_TRAIN_MS (n : Nat) : Fld := ⟨32 * (0xF0009001000 + 64 * n) + 16, 16, .ro, 0, .free⟩
def Reg.FAB_PORT_CTRL_ENABLE (n : Nat) : Fld := ⟨32 * (0xF0009001004 + 64 * n) + 0, 1, .rw, 1, .free⟩
def Reg.FAB_PORT_FEC_CORR_COUNT (n : Nat) : Fld := ⟨32 * (0xF0009001008 + 64 * n) + 0, 32, .rc, 0, .free⟩
def Reg.FAB_PORT_FEC_UNCORR_COUNT (n : Nat) : Fld := ⟨32 * (0xF000900100C + 64 * n) + 0, 32, .rc, 0, .free⟩
def Reg.FAB_PORT_TX_PKTS_COUNT (n : Nat) : Fld := ⟨32 * (0xF0009001010 + 64 * n) + 0, 32, .rc, 0, .free⟩
def Reg.FAB_PORT_RX_PKTS_COUNT (n : Nat) : Fld := ⟨32 * (0xF0009001014 + 64 * n) + 0, 32, .rc, 0, .free⟩
def Reg.FAB_PORT_QDEPTH_CUR (n : Nat) : Fld := ⟨32 * (0xF0009001018 + 64 * n) + 0, 16, .ro, 0, .free⟩
def Reg.FAB_PORT_QDEPTH_PEAK (n : Nat) : Fld := ⟨32 * (0xF0009001018 + 64 * n) + 16, 16, .rc, 0, .free⟩
def Reg.FAB_PORT_STALL_CYCLES (n : Nat) : Fld := ⟨32 * (0xF000900101C + 64 * n) + 0, 32, .rc, 0, .free⟩
def Reg.FAB_PORT_WEIGHT_WEIGHT (n : Nat) : Fld := ⟨32 * (0xF0009001020 + 64 * n) + 0, 8, .ro, 128, .free⟩
def Reg.FAB_PORT_ECN_RX_COUNT (n : Nat) : Fld := ⟨32 * (0xF0009001024 + 64 * n) + 0, 32, .rc, 0, .free⟩
def Reg.FAB_CS_UNMAPPED_COUNT : Fld := ⟨527770950041472, 32, .rc, 0, .free⟩

/-! ### COL_ window (collectives, R367) -/

def Reg.COL_STATUS_OPEN : Fld := ⟨527770950041600, 9, .ro, 0, .free⟩
def Reg.COL_STATUS_ENGINES : Fld := ⟨527770950041616, 6, .ro, 0, .free⟩
def Reg.COL_POOL_BASE_MIB : Fld := ⟨527770950041728, 20, .rw, 0, .free⟩
def Reg.COL_POOL_SIZE_MIB : Fld := ⟨527770950041856, 20, .rw, 0, .free⟩
def Reg.COL_POOL_FREE_KIB : Fld := ⟨527770950041984, 30, .ro, 0, .free⟩
def Reg.COL_CLAP_LEAD_TU : Fld := ⟨527770950042112, 32, .rw, 65536, (.range 16384 16777216)⟩
def Reg.COL_CREATE_TIMEOUT_FRAMES : Fld := ⟨527770950042240, 8, .rw, 16, (.range 1 255)⟩
def Reg.COL_SIG_MISMATCH_COUNT : Fld := ⟨527770950042368, 32, .rc, 0, .free⟩
def Reg.COL_DROPS_COUNT : Fld := ⟨527770950042496, 32, .rc, 0, .free⟩
def Reg.COL_CLAP_LATE_COUNT : Fld := ⟨527770950042624, 32, .rc, 0, .free⟩
def Reg.COL_EVENTS_GROUP_BROKEN : Fld := ⟨527770950042752, 1, .w1c, 0, .free⟩
def Reg.COL_EVENTS_CREATE_FAILED : Fld := ⟨527770950042753, 1, .w1c, 0, .free⟩
def Reg.COL_EVENTS_POOL_REFUSED : Fld := ⟨527770950042754, 1, .w1c, 0, .free⟩
def Reg.COL_EVENTS_JOIN_FULL : Fld := ⟨527770950042755, 1, .w1c, 0, .free⟩
def Reg.COL_GROUP_SEL_SLOT : Fld := ⟨527770950049792, 8, .rw, 0, .free⟩
def Reg.COL_GROUP_CMD_DESTROY (n : Nat) : Fld := ⟨527770950049920 + windowKey n, 1, .wo, 0, .free⟩
def Reg.COL_GROUP_STATE_STATE (n : Nat) : Fld := ⟨527770950050048 + windowKey n, 2, .ro, 0, .free⟩
def Reg.COL_GROUP_STATE_WEIGHT (n : Nat) : Fld := ⟨527770950050052 + windowKey n, 4, .ro, 0, .free⟩
def Reg.COL_GROUP_STATE_INDEX (n : Nat) : Fld := ⟨527770950050056 + windowKey n, 12, .ro, 0, .free⟩
def Reg.COL_GROUP_STATE_PENDING (n : Nat) : Fld := ⟨527770950050068 + windowKey n, 4, .ro, 0, .free⟩
def Reg.COL_GROUP_ID_ID (n : Nat) : Fld := ⟨527770950050176 + windowKey n, 32, .ro, 0, .free⟩
def Reg.COL_GROUP_MEMBERS_N (n : Nat) : Fld := ⟨527770950050304 + windowKey n, 13, .ro, 0, .free⟩
def Reg.COL_GROUP_STEP_STEP (n : Nat) : Fld := ⟨527770950050432 + windowKey n, 32, .ro, 0, .free⟩
def Reg.COL_GROUP_SLICE_SLICE (n : Nat) : Fld := ⟨527770950050560 + windowKey n, 12, .ro, 0, .free⟩
def Reg.COL_GROUP_BUF_KIB (n : Nat) : Fld := ⟨527770950050688 + windowKey n, 17, .ro, 0, .free⟩
def Reg.COL_GROUP_SEQ_LO_SEQ (n : Nat) : Fld := ⟨527770950050816 + windowKey n, 32, .ro, 0, .free⟩
def Reg.COL_GROUP_SEQ_HI_SEQ (n : Nat) : Fld := ⟨527770950050944 + windowKey n, 32, .ro, 0, .free⟩
def Reg.COL_GROUP_FAIL_CODE (n : Nat) : Fld := ⟨527770950051072 + windowKey n, 16, .ro, 0, .free⟩
def Reg.COL_GROUP_FAIL_MEMBER (n : Nat) : Fld := ⟨527770950051088 + windowKey n, 12, .ro, 0, .free⟩
def Reg.COL_GROUP_OPS_COUNT (n : Nat) : Fld := ⟨527770950051200 + windowKey n, 32, .rc, 0, .free⟩
def Reg.COL_GROUP_SAT_COUNT (n : Nat) : Fld := ⟨527770950051328 + windowKey n, 32, .rc, 0, .free⟩
def Reg.COL_GROUP_FLUSH_COUNT (n : Nat) : Fld := ⟨527770950051456 + windowKey n, 32, .rc, 0, .free⟩
def Reg.COL_GROUP_CLAMP_COUNT (n : Nat) : Fld := ⟨527770950051584 + windowKey n, 32, .rc, 0, .free⟩
def Reg.COL_CS_UNMAPPED_COUNT : Fld := ⟨527771486912384, 32, .rc, 0, .free⟩

/-! ### ETH_ window (Ethernet, R392) -/

def Reg.ETH_STATUS_LINK : Fld := ⟨527771486912512, 2, .ro, 0, .free⟩
def Reg.ETH_STATUS_MACSEC_ACTIVE : Fld := ⟨527771486912514, 1, .ro, 0, .free⟩
def Reg.ETH_STATUS_TRAIN_MS : Fld := ⟨527771486912528, 16, .ro, 0, .free⟩
def Reg.ETH_CTRL_ENABLE : Fld := ⟨527771486912640, 1, .rw, 1, .free⟩
def Reg.ETH_CTRL_ALLOW_1600 : Fld := ⟨527771486912641, 1, .rw, 1, .free⟩
def Reg.ETH_CTRL_ALLOW_800 : Fld := ⟨527771486912642, 1, .rw, 1, .free⟩
def Reg.ETH_CTRL_IPV4_EN : Fld := ⟨527771486912643, 1, .rw, 0, .free⟩
def Reg.ETH_CTRL_KR : Fld := ⟨527771486912644, 1, .rw, 0, .free⟩
def Reg.ETH_MAC_LO_MAC : Fld := ⟨527771486912768, 32, .ro, 0, .free⟩
def Reg.ETH_MAC_HI_MAC : Fld := ⟨527771486912896, 16, .ro, 0, .free⟩
def Reg.ETH_IPV4_ADDR : Fld := ⟨527771486913024, 32, .rw, 0, .free⟩
def Reg.ETH_IPV6_ADDR (n : Nat) : Fld := ⟨32 * (0xF000B000014 + 4 * n) + 0, 32, .rw, 0, .free⟩
def Reg.ETH_PRIO_ROCE_PRIO : Fld := ⟨527771486913664, 3, .rw, 3, .free⟩
def Reg.ETH_PRIO_REEL_PRIO : Fld := ⟨527771486913668, 3, .rw, 4, .free⟩
def Reg.ETH_PRIO_PTP_PRIO : Fld := ⟨527771486913672, 3, .rw, 6, .free⟩
def Reg.ETH_PRIO_VID : Fld := ⟨527771486913680, 12, .rw, 0, .free⟩
def Reg.ETH_PFC_WD_WATCHDOG_MS : Fld := ⟨527771486913792, 16, .rw, 100, (.range 10 10000)⟩
def Reg.ETH_MACSEC_CTRL_ENABLE : Fld := ⟨527771486913920, 1, .rw, 0, .free⟩
def Reg.ETH_MACSEC_CTRL_PTP_CLEAR : Fld := ⟨527771486913921, 1, .rw, 1, .free⟩
def Reg.ETH_MACSEC_CTRL_REKEY : Fld := ⟨527771486913922, 1, .wo, 0, .free⟩
def Reg.ETH_MACSEC_CTRL_REKEY_S : Fld := ⟨527771486913936, 16, .rw, 3600, (.range 60 65535)⟩
def Reg.ETH_MACSEC_STATUS_AN : Fld := ⟨527771486914048, 1, .ro, 0, .free⟩
def Reg.ETH_MACSEC_STATUS_KEY_READY : Fld := ⟨527771486914049, 1, .ro, 0, .free⟩
def Reg.ETH_MACSEC_STATUS_STALLED : Fld := ⟨527771486914050, 1, .ro, 0, .free⟩
def Reg.ETH_CC_MD_EIGHTHS : Fld := ⟨527771486914176, 3, .rw, 1, (.range 1 4)⟩
def Reg.ETH_CC_AI_GBPS : Fld := ⟨527771486914184, 8, .rw, 1, (.range 1 200)⟩
def Reg.ETH_CC_PERIOD_US : Fld := ⟨527771486914192, 8, .rw, 5, (.range 1 100)⟩
def Reg.ETH_DEPART_ADDR_ADDR (n : Nat) : Fld := ⟨32 * (0xF000B000040 + 4 * n) + 0, 32, .rw, 0, .free⟩
def Reg.ETH_DEPART_PORT_PORT : Fld := ⟨527771486915072, 16, .rw, 0, .free⟩
def Reg.ETH_TX_FRAMES_COUNT : Fld := ⟨527771486916608, 32, .rc, 0, .free⟩
def Reg.ETH_RX_FRAMES_COUNT : Fld := ⟨527771486916736, 32, .rc, 0, .free⟩
def Reg.ETH_RX_DROP_SIZE_COUNT : Fld := ⟨527771486916864, 32, .rc, 0, .free⟩
def Reg.ETH_RX_DROP_MACSEC_COUNT : Fld := ⟨527771486916992, 32, .rc, 0, .free⟩
def Reg.ETH_RX_DROP_ADDR_COUNT : Fld := ⟨527771486917120, 32, .rc, 0, .free⟩
def Reg.ETH_TX_DROP_PFC_COUNT : Fld := ⟨527771486917248, 32, .rc, 0, .free⟩
def Reg.ETH_PFC_RX_COUNT : Fld := ⟨527771486917376, 32, .rc, 0, .free⟩
def Reg.ETH_PFC_TX_COUNT : Fld := ⟨527771486917504, 32, .rc, 0, .free⟩
def Reg.ETH_ECN_CE_COUNT : Fld := ⟨527771486917632, 32, .rc, 0, .free⟩
def Reg.ETH_CNP_TX_COUNT : Fld := ⟨527771486917760, 32, .rc, 0, .free⟩
def Reg.ETH_CNP_RX_COUNT : Fld := ⟨527771486917888, 32, .rc, 0, .free⟩
def Reg.ETH_RDMA_NAK_COUNT : Fld := ⟨527771486918016, 32, .rc, 0, .free⟩
def Reg.ETH_RETX_COUNT : Fld := ⟨527771486918144, 32, .rc, 0, .free⟩
def Reg.ETH_FEC_CORR_COUNT : Fld := ⟨527771486918272, 32, .rc, 0, .free⟩
def Reg.ETH_FEC_UNCORR_COUNT : Fld := ⟨527771486918400, 32, .rc, 0, .free⟩
def Reg.ETH_EVENTS_LINK_DOWN : Fld := ⟨527771486918656, 1, .w1c, 0, .free⟩
def Reg.ETH_EVENTS_FALLBACK : Fld := ⟨527771486918657, 1, .w1c, 0, .free⟩
def Reg.ETH_EVENTS_PFC_WATCHDOG : Fld := ⟨527771486918658, 1, .w1c, 0, .free⟩
def Reg.ETH_EVENTS_MACSEC_STALL : Fld := ⟨527771486918659, 1, .w1c, 0, .free⟩
def Reg.ETH_EVENTS_QP_ERROR : Fld := ⟨527771486918660, 1, .w1c, 0, .free⟩
def Reg.ETH_EVENTS_WINDOW_REFUSED : Fld := ⟨527771486918661, 1, .w1c, 0, .free⟩
def Reg.ETH_EVENTS_PRIO_REFUSED : Fld := ⟨527771486918662, 1, .w1c, 0, .free⟩
def Reg.ETH_QP_SEL_QP : Fld := ⟨527771486920704, 12, .rw, 0, .free⟩
def Reg.ETH_QP_CMD_CMD (n : Nat) : Fld := ⟨527771486920832 + windowKey n, 2, .wo, 0, .free⟩
def Reg.ETH_QP_STATE_STATE (n : Nat) : Fld := ⟨527771486920960 + windowKey n, 2, .ro, 0, .free⟩
def Reg.ETH_QP_CFG_REEL (n : Nat) : Fld := ⟨527771486921088 + windowKey n, 12, .rw, 0, .free⟩
def Reg.ETH_QP_CFG_REEL_EN (n : Nat) : Fld := ⟨527771486921100 + windowKey n, 1, .rw, 0, .free⟩
def Reg.ETH_QP_CFG_IPV4 (n : Nat) : Fld := ⟨527771486921101 + windowKey n, 1, .rw, 0, .free⟩
def Reg.ETH_QP_CFG_RING_L (n : Nat) : Fld := ⟨527771486921102 + windowKey n, 4, .rw, 0, (.zeroOr 4 12)⟩
def Reg.ETH_QP_REMOTE_ADDR_0 (n : Nat) : Fld := ⟨527771486921216 + windowKey n, 32, .rw, 0, .free⟩
def Reg.ETH_QP_REMOTE_ADDR_1 (n : Nat) : Fld := ⟨527771486921344 + windowKey n, 32, .rw, 0, .free⟩
def Reg.ETH_QP_REMOTE_ADDR_2 (n : Nat) : Fld := ⟨527771486921472 + windowKey n, 32, .rw, 0, .free⟩
def Reg.ETH_QP_REMOTE_ADDR_3 (n : Nat) : Fld := ⟨527771486921600 + windowKey n, 32, .rw, 0, .free⟩
def Reg.ETH_QP_REMOTE_QPN_QPN (n : Nat) : Fld := ⟨527771486921728 + windowKey n, 24, .rw, 0, .free⟩
def Reg.ETH_QP_LOCAL_QPN_QPN (n : Nat) : Fld := ⟨527771486921856 + windowKey n, 24, .ro, 0, .free⟩
def Reg.ETH_QP_RING_LO_ADDR (n : Nat) : Fld := ⟨527771486921984 + windowKey n, 32, .rw, 0, .free⟩
def Reg.ETH_QP_RING_HI_ADDR (n : Nat) : Fld := ⟨527771486922112 + windowKey n, 32, .rw, 0, .free⟩
def Reg.ETH_QP_LAST_STATUS_STATUS (n : Nat) : Fld := ⟨527771486922240 + windowKey n, 16, .ro, 0, .free⟩
def Reg.ETH_WIN_SEL_WIN : Fld := ⟨527771486928896, 8, .rw, 0, .free⟩
def Reg.ETH_WIN_BASE_LO_ADDR (n : Nat) : Fld := ⟨527771486929024 + windowKey n, 32, .rw, 0, .free⟩
def Reg.ETH_WIN_BASE_HI_ADDR (n : Nat) : Fld := ⟨527771486929152 + windowKey n, 32, .rw, 0, .free⟩
def Reg.ETH_WIN_LEN_KIB (n : Nat) : Fld := ⟨527771486929280 + windowKey n, 28, .rw, 0, .free⟩
def Reg.ETH_WIN_CTRL_VALID (n : Nat) : Fld := ⟨527771486929408 + windowKey n, 1, .rw, 0, .free⟩
def Reg.ETH_WIN_CTRL_REMOTE_READ (n : Nat) : Fld := ⟨527771486929409 + windowKey n, 1, .rw, 0, .free⟩
def Reg.ETH_WIN_CTRL_REMOTE_WRITE (n : Nat) : Fld := ⟨527771486929410 + windowKey n, 1, .rw, 0, .free⟩
def Reg.ETH_WIN_CTRL_REFUSED (n : Nat) : Fld := ⟨527771486929411 + windowKey n, 1, .w1c, 0, .free⟩
def Reg.ETH_WIN_KEY_KEY (n : Nat) : Fld := ⟨527771486929536 + windowKey n, 32, .ro, 0, .free⟩
def Reg.ETH_CS_UNMAPPED_COUNT : Fld := ⟨527772023783296, 32, .rc, 0, .free⟩

/-! ### SEC_ window (security, R557) -/

def Reg.SEC_STATUS_ID_OK : Fld := ⟨527772023783424, 1, .ro, 0, .free⟩
def Reg.SEC_STATUS_CFG_OK : Fld := ⟨527772023783425, 1, .ro, 0, .free⟩
def Reg.SEC_STATUS_REPAIR_OK : Fld := ⟨527772023783426, 1, .ro, 0, .free⟩
def Reg.SEC_STATUS_REPAIR_SELF : Fld := ⟨527772023783427, 1, .ro, 0, .free⟩
def Reg.SEC_STATUS_DEBUG_ACTIVE : Fld := ⟨527772023783428, 1, .ro, 0, .free⟩
def Reg.SEC_STATUS_IMPORT_OPEN : Fld := ⟨527772023783429, 1, .ro, 0, .free⟩
def Reg.SEC_STATUS_RECOVERY : Fld := ⟨527772023783430, 1, .ro, 0, .free⟩
def Reg.SEC_STATUS_REVOKED : Fld := ⟨527772023783432, 8, .ro, 0, .free⟩
def Reg.SEC_SERIAL_LO_SERIAL : Fld := ⟨527772023783552, 32, .ro, 0, .free⟩
def Reg.SEC_SERIAL_HI_SERIAL : Fld := ⟨527772023783680, 32, .ro, 0, .free⟩
def Reg.SEC_RECORD_SEQ_CFG_SEQ : Fld := ⟨527772023783808, 16, .ro, 0, .free⟩
def Reg.SEC_RECORD_SEQ_REPAIR_SEQ : Fld := ⟨527772023783824, 16, .ro, 0, .free⟩
def Reg.SEC_ARC_VALUE (n : Nat) : Fld := ⟨32 * (0xF000C000010 + 4 * n) + 0, 9, .ro, 0, .free⟩
def Reg.SEC_ARC_EXHAUSTED (n : Nat) : Fld := ⟨32 * (0xF000C000010 + 4 * n) + 9, 1, .ro, 0, .free⟩
def Reg.SEC_DEBUG_PERMS : Fld := ⟨527772023784448, 3, .ro, 0, .free⟩
def Reg.SEC_DEBUG_EPOCH : Fld := ⟨527772023784464, 16, .ro, 0, .free⟩
def Reg.SEC_DEBUG_END_LO_TIME : Fld := ⟨527772023784576, 32, .ro, 0, .free⟩
def Reg.SEC_DEBUG_END_HI_TIME : Fld := ⟨527772023784704, 32, .ro, 0, .free⟩
def Reg.SEC_REFUSAL_CODE : Fld := ⟨527772023784832, 8, .ro, 0, .free⟩
def Reg.SEC_QUOTES_COUNT : Fld := ⟨527772023784960, 32, .rc, 0, .free⟩
def Reg.SEC_TRNG_HEALTHY : Fld := ⟨527772023785088, 1, .ro, 0, .free⟩
def Reg.SEC_JTAG_ID_IDCODE : Fld := ⟨527772023785216, 32, .ro, 0, .free⟩
def Reg.SEC_EVENTS_RECORD_LOADED : Fld := ⟨527772023785472, 1, .w1c, 0, .free⟩
def Reg.SEC_EVENTS_RECORD_REFUSED : Fld := ⟨527772023785473, 1, .w1c, 0, .free⟩
def Reg.SEC_EVENTS_SLOT_FALLBACK : Fld := ⟨527772023785474, 1, .w1c, 0, .free⟩
def Reg.SEC_EVENTS_DEBUG_ON : Fld := ⟨527772023785475, 1, .w1c, 0, .free⟩
def Reg.SEC_EVENTS_DEBUG_REFUSED : Fld := ⟨527772023785476, 1, .w1c, 0, .free⟩
def Reg.SEC_EVENTS_KEY_LOADED : Fld := ⟨527772023785477, 1, .w1c, 0, .free⟩
def Reg.SEC_EVENTS_KEY_DESTROYED : Fld := ⟨527772023785478, 1, .w1c, 0, .free⟩
def Reg.SEC_EVENTS_ARC_ADVANCED : Fld := ⟨527772023785479, 1, .w1c, 0, .free⟩
def Reg.SEC_EVENTS_TRNG_FAIL : Fld := ⟨527772023785480, 1, .w1c, 0, .free⟩
def Reg.SEC_MEAS_WORD (n : Nat) : Fld := ⟨32 * (0xF000C000100 + 4 * n) + 0, 32, .ro, 0, .free⟩
def Reg.SEC_CS_UNMAPPED_COUNT : Fld := ⟨527772560654208, 32, .rc, 0, .free⟩

/-! ### UPD_ window (update, R558) -/

def Reg.UPD_STATUS_SLOT : Fld := ⟨527772560654336, 1, .ro, 0, .free⟩
def Reg.UPD_STATUS_TRIAL : Fld := ⟨527772560654337, 1, .ro, 0, .free⟩
def Reg.UPD_STATUS_STATE_A : Fld := ⟨527772560654338, 2, .ro, 0, .free⟩
def Reg.UPD_STATUS_STATE_B : Fld := ⟨527772560654340, 2, .ro, 0, .free⟩
def Reg.UPD_STATUS_PHASE : Fld := ⟨527772560654342, 3, .ro, 0, .free⟩
def Reg.UPD_ACTIVE_VER_LO_VERSION : Fld := ⟨527772560654464, 32, .ro, 0, .free⟩
def Reg.UPD_ACTIVE_VER_HI_VERSION : Fld := ⟨527772560654592, 32, .ro, 0, .free⟩
def Reg.UPD_TARGET_VER_LO_VERSION : Fld := ⟨527772560654720, 32, .ro, 0, .free⟩
def Reg.UPD_TARGET_VER_HI_VERSION : Fld := ⟨527772560654848, 32, .ro, 0, .free⟩
def Reg.UPD_SVN_ACTIVE : Fld := ⟨527772560654976, 9, .ro, 0, .free⟩
def Reg.UPD_SVN_TARGET : Fld := ⟨527772560654992, 9, .ro, 0, .free⟩
def Reg.UPD_CHUNKS_TOTAL : Fld := ⟨527772560655104, 16, .ro, 0, .free⟩
def Reg.UPD_CHUNKS_DONE : Fld := ⟨527772560655120, 16, .ro, 0, .free⟩
def Reg.UPD_RATE_KBPS : Fld := ⟨527772560655232, 19, .rw, 10000, (.range 64 400000)⟩
def Reg.UPD_ETH_PORT : Fld := ⟨527772560655360, 16, .rw, 6622, .free⟩
def Reg.UPD_ETH_EN : Fld := ⟨527772560655376, 1, .rw, 0, .free⟩
def Reg.UPD_CUE_LO_TIME : Fld := ⟨527772560655488, 32, .ro, 0, .free⟩
def Reg.UPD_CUE_HI_TIME : Fld := ⟨527772560655616, 32, .ro, 0, .free⟩
def Reg.UPD_HEALTH_SECONDS : Fld := ⟨527772560655744, 6, .ro, 0, .free⟩
def Reg.UPD_HEALTH_BOOTED : Fld := ⟨527772560655750, 1, .ro, 0, .free⟩
def Reg.UPD_HEALTH_SELFTEST : Fld := ⟨527772560655751, 1, .ro, 0, .free⟩
def Reg.UPD_HEALTH_TAKE_WRAPPED : Fld := ⟨527772560655752, 1, .ro, 0, .free⟩
def Reg.UPD_HEALTH_ACCEPTANCE_RUN : Fld := ⟨527772560655753, 1, .ro, 0, .free⟩
def Reg.UPD_HEALTH_PASSED : Fld := ⟨527772560655754, 1, .ro, 0, .free⟩
def Reg.UPD_CMD_CMD : Fld := ⟨527772560655872, 2, .wo, 0, .free⟩
def Reg.UPD_REFUSAL_CODE : Fld := ⟨527772560656000, 8, .ro, 0, .free⟩
def Reg.UPD_CHUNKS_BAD_COUNT : Fld := ⟨527772560656128, 32, .rc, 0, .free⟩
def Reg.UPD_REVERTS_COUNT : Fld := ⟨527772560656256, 32, .ro, 0, .free⟩
def Reg.UPD_EVENTS_MANIFEST_ACCEPTED : Fld := ⟨527772560656384, 1, .w1c, 0, .free⟩
def Reg.UPD_EVENTS_SLOT_READY : Fld := ⟨527772560656385, 1, .w1c, 0, .free⟩
def Reg.UPD_EVENTS_SLOT_FAILED : Fld := ⟨527772560656386, 1, .w1c, 0, .free⟩
def Reg.UPD_EVENTS_ARMED : Fld := ⟨527772560656387, 1, .w1c, 0, .free⟩
def Reg.UPD_EVENTS_ACTIVATED : Fld := ⟨527772560656388, 1, .w1c, 0, .free⟩
def Reg.UPD_EVENTS_COMMITTED : Fld := ⟨527772560656389, 1, .w1c, 0, .free⟩
def Reg.UPD_EVENTS_REVERTED : Fld := ⟨527772560656390, 1, .w1c, 0, .free⟩
def Reg.UPD_EVENTS_RESUMED : Fld := ⟨527772560656391, 1, .w1c, 0, .free⟩
def Reg.UPD_EVENTS_RECOVERY : Fld := ⟨527772560656392, 1, .w1c, 0, .free⟩
def Reg.UPD_BITMAP_BITS (n : Nat) : Fld := ⟨32 * (0xF000D001000 + 4 * n) + 0, 32, .ro, 0, .free⟩
def Reg.UPD_CS_UNMAPPED_COUNT : Fld := ⟨527773097525120, 32, .rc, 0, .free⟩

/-! ### MGT_ window (management, R585) -/

def Reg.MGT_STATUS_HOLDER : Fld := ⟨527773097525248, 1, .ro, 0, .free⟩
def Reg.MGT_STATUS_UNHELD : Fld := ⟨527773097525249, 1, .ro, 1, .free⟩
def Reg.MGT_STATUS_FIRST_OK : Fld := ⟨527773097525250, 1, .ro, 0, .free⟩
def Reg.MGT_STATUS_SECOND_OK : Fld := ⟨527773097525251, 1, .ro, 0, .free⟩
def Reg.MGT_STATUS_SESSIONS : Fld := ⟨527773097525252, 3, .ro, 0, .free⟩
def Reg.MGT_STATUS_LINK_UP : Fld := ⟨527773097525255, 1, .ro, 0, .free⟩
def Reg.MGT_STATUS_EPOCH : Fld := ⟨527773097525264, 16, .ro, 0, .free⟩
def Reg.MGT_LEASE_REMAIN_US : Fld := ⟨527773097525376, 14, .ro, 0, .free⟩
def Reg.MGT_CAP_LEASE_REMAIN_MS : Fld := ⟨527773097525504, 13, .ro, 0, .free⟩
def Reg.MGT_CAP_LEASE_LAPSED : Fld := ⟨527773097525517, 1, .ro, 1, .free⟩
def Reg.MGT_STRAPS_SLOT_ID : Fld := ⟨527773097525632, 6, .ro, 0, .free⟩
def Reg.MGT_STRAPS_XO_JUDGE : Fld := ⟨527773097525638, 1, .ro, 0, .free⟩
def Reg.MGT_STRAPS_BOOT_HOLD : Fld := ⟨527773097525639, 1, .ro, 0, .free⟩
def Reg.MGT_LINES_START_OK : Fld := ⟨527773097525760, 1, .ro, 0, .free⟩
def Reg.MGT_LINES_RESET_N : Fld := ⟨527773097525761, 1, .ro, 1, .free⟩
def Reg.MGT_LINES_CAPSTEP_N : Fld := ⟨527773097525762, 1, .ro, 1, .free⟩
def Reg.MGT_LINES_FAULT_DRIVEN : Fld := ⟨527773097525763, 1, .ro, 0, .free⟩
def Reg.MGT_LINES_ALERT_DRIVEN : Fld := ⟨527773097525764, 1, .ro, 0, .free⟩
def Reg.MGT_HOURS_TENTHS : Fld := ⟨527773097526016, 32, .ro, 0, .free⟩
def Reg.MGT_POWER_CYCLES_COUNT : Fld := ⟨527773097526144, 32, .ro, 0, .free⟩
def Reg.MGT_ALERT_CAUSE_SENSOR_FAULT : Fld := ⟨527773097525888, 1, .ro, 0, .free⟩
def Reg.MGT_ALERT_CAUSE_REFCLK_LOST : Fld := ⟨527773097525889, 1, .ro, 0, .free⟩
def Reg.MGT_ALERT_CAUSE_XO_LOST : Fld := ⟨527773097525890, 1, .ro, 0, .free⟩
def Reg.MGT_ALERT_CAUSE_DIE_PINNED : Fld := ⟨527773097525891, 1, .ro, 0, .free⟩
def Reg.MGT_ALERT_CAUSE_OTHER_HOT : Fld := ⟨527773097525892, 1, .ro, 0, .free⟩
def Reg.MGT_ALERT_CAUSE_COOL_FAULT : Fld := ⟨527773097525893, 1, .ro, 0, .free⟩
def Reg.MGT_ALERT_CAUSE_COOL_HIGH : Fld := ⟨527773097525894, 1, .ro, 0, .free⟩
def Reg.MGT_ALERT_CAUSE_LEAK_MARGINAL : Fld := ⟨527773097525895, 1, .ro, 0, .free⟩
def Reg.MGT_ALERT_CAUSE_LEAK_OPEN : Fld := ⟨527773097525896, 1, .ro, 0, .free⟩
def Reg.MGT_ALERT_CAUSE_TRNG_FAIL : Fld := ⟨527773097525897, 1, .ro, 0, .free⟩
def Reg.MGT_ALERT_CAUSE_UNIT_OUT : Fld := ⟨527773097525898, 1, .ro, 0, .free⟩
def Reg.MGT_ALERT_CAUSE_NO_UNIT : Fld := ⟨527773097525899, 1, .ro, 0, .free⟩
def Reg.MGT_ALERT_CAUSE_CAP_LEASE_LAPSED : Fld := ⟨527773097525900, 1, .ro, 1, .free⟩
def Reg.MGT_TAKEOVERS_COUNT : Fld := ⟨527773097526272, 32, .ro, 0, .free⟩
def Reg.MGT_TAKEBACKS_COUNT : Fld := ⟨527773097526400, 32, .rc, 0, .free⟩
def Reg.MGT_STALE_WRITES_COUNT : Fld := ⟨527773097526528, 32, .rc, 0, .free⟩
def Reg.MGT_RX_DROP_AUTH_COUNT : Fld := ⟨527773097526656, 32, .rc, 0, .free⟩
def Reg.MGT_RX_DROP_REPLAY_COUNT : Fld := ⟨527773097526784, 32, .rc, 0, .free⟩
def Reg.MGT_INTERRUPTED_COUNT : Fld := ⟨527773097526912, 32, .rc, 0, .free⟩
def Reg.MGT_CAP_LAPSES_COUNT : Fld := ⟨527773097527040, 32, .rc, 0, .free⟩
def Reg.MGT_REQUESTS_COUNT : Fld := ⟨527773097527168, 32, .rc, 0, .free⟩
def Reg.MGT_EVENTS_TAKEOVER : Fld := ⟨527773097527296, 1, .w1c, 0, .free⟩
def Reg.MGT_EVENTS_TAKEBACK : Fld := ⟨527773097527297, 1, .w1c, 0, .free⟩
def Reg.MGT_EVENTS_UNIT_OUT : Fld := ⟨527773097527298, 1, .w1c, 0, .free⟩
def Reg.MGT_EVENTS_NO_UNIT : Fld := ⟨527773097527299, 1, .w1c, 0, .free⟩
def Reg.MGT_EVENTS_CAP_LEASE_LAPSED : Fld := ⟨527773097527300, 1, .w1c, 0, .free⟩
def Reg.MGT_EVENTS_CAP_LEASE_RESTORED : Fld := ⟨527773097527301, 1, .w1c, 0, .free⟩
def Reg.MGT_EVENTS_SESSION_OPENED : Fld := ⟨527773097527302, 1, .w1c, 0, .free⟩
def Reg.MGT_EVENTS_AUTH_FAIL : Fld := ⟨527773097527303, 1, .w1c, 0, .free⟩
def Reg.MGT_EVENTS_SECRET_CHANGED : Fld := ⟨527773097527304, 1, .w1c, 0, .free⟩
def Reg.MGT_CS_UNMAPPED_COUNT : Fld := ⟨527773634396032, 32, .rc, 0, .free⟩

/-! ### PWR_ window (power, R601) -/

def Reg.PWR_STATUS_STAGE : Fld := ⟨527773634396160, 4, .ro, 0, .free⟩
def Reg.PWR_STATUS_MODE : Fld := ⟨527773634396164, 2, .ro, 0, .free⟩
def Reg.PWR_STATUS_PATH : Fld := ⟨527773634396166, 1, .ro, 0, .free⟩
def Reg.PWR_STATUS_DRAINING : Fld := ⟨527773634396167, 1, .ro, 0, .free⟩
def Reg.PWR_STATUS_WAIT_START_OK : Fld := ⟨527773634396168, 1, .ro, 0, .free⟩
def Reg.PWR_STATUS_WAIT_REFCLK : Fld := ⟨527773634396169, 1, .ro, 0, .free⟩
def Reg.PWR_STATUS_WAIT_TB_REF : Fld := ⟨527773634396170, 1, .ro, 0, .free⟩
def Reg.PWR_STATUS_WAIT_PULSE : Fld := ⟨527773634396171, 1, .ro, 0, .free⟩
def Reg.PWR_STATUS_WAIT_PTP : Fld := ⟨527773634396172, 1, .ro, 0, .free⟩
def Reg.PWR_STATUS_WAIT_ETH : Fld := ⟨527773634396173, 1, .ro, 0, .free⟩
def Reg.PWR_STATUS_WAIT_WILEF : Fld := ⟨527773634396174, 1, .ro, 0, .free⟩
def Reg.PWR_CMD_CMD : Fld := ⟨527773634396288, 3, .wo, 0, .free⟩
def Reg.PWR_CTRL_LOCK_WAIT : Fld := ⟨527773634396416, 1, .rw, 1, .free⟩
def Reg.PWR_CTRL_DRAIN_S : Fld := ⟨527773634396432, 16, .rw, 60, (.range 0 3600)⟩
def Reg.PWR_REFUSAL_CODE : Fld := ⟨527773634396544, 3, .ro, 0, .free⟩
def Reg.PWR_LAST_READY_MS : Fld := ⟨527773634396672, 24, .ro, 0, .free⟩
def Reg.PWR_LAST_PATH : Fld := ⟨527773634396696, 1, .ro, 0, .free⟩
def Reg.PWR_FULL_TEST_TENTHS : Fld := ⟨527773634396800, 32, .ro, 0, .free⟩
def Reg.PWR_EVENTS_READY : Fld := ⟨527773634398208, 1, .w1c, 0, .free⟩
def Reg.PWR_EVENTS_COLD_PATH : Fld := ⟨527773634398209, 1, .w1c, 0, .free⟩
def Reg.PWR_EVENTS_MODE_CHANGED : Fld := ⟨527773634398210, 1, .w1c, 0, .free⟩
def Reg.PWR_EVENTS_DRAIN_NG : Fld := ⟨527773634398211, 1, .w1c, 0, .free⟩
def Reg.PWR_EVENTS_REFUSED : Fld := ⟨527773634398212, 1, .w1c, 0, .free⟩
def Reg.PWR_EVENTS_ORDERLY_OFF : Fld := ⟨527773634398213, 1, .w1c, 0, .free⟩
def Reg.PWR_STAGE_END_MS (n : Nat) : Fld := ⟨32 * (0xF000F000100 + 4 * n) + 0, 24, .ro, 0, .free⟩
def Reg.PWR_CS_UNMAPPED_COUNT : Fld := ⟨527774171266944, 32, .rc, 0, .free⟩

/-! ### TL_ window (tiles, R175, R210, R513) -/

def Reg.TL_ID_LEVELS (i : Nat) : Fld := ⟨32 * (0xF0010000000 + 0x100000 * i) + 0, 8, .ro, 0x01, .free⟩
def Reg.TL_ID_TILE (i : Nat) : Fld := ⟨32 * (0xF0010000000 + 0x100000 * i) + 8, 8, .ro, i, .free⟩
def Reg.TL_ID_DIE (i : Nat) : Fld := ⟨32 * (0xF0010000000 + 0x100000 * i) + 16, 4, .ro, (i / 24), .free⟩
def Reg.TL_STATE_RUN (i : Nat) : Fld := ⟨32 * (0xF0010000004 + 0x100000 * i) + 0, 2, .ro, 0, .free⟩
def Reg.TL_STATE_GANG (i : Nat) : Fld := ⟨32 * (0xF0010000004 + 0x100000 * i) + 2, 1, .ro, 0, .free⟩
def Reg.TL_STATE_LEADER (i : Nat) : Fld := ⟨32 * (0xF0010000004 + 0x100000 * i) + 3, 1, .ro, 0, .free⟩
def Reg.TL_FEATURES_LO_FEATURES (i : Nat) : Fld := ⟨32 * (0xF0010000008 + 0x100000 * i) + 0, 32, .ro, 0x00001FFF, .free⟩
def Reg.TL_FEATURES_HI_FEATURES (i : Nat) : Fld := ⟨32 * (0xF001000000C + 0x100000 * i) + 0, 32, .ro, 0, .free⟩
def Reg.TL_TAKE_REEL_REEL (i : Nat) : Fld := ⟨32 * (0xF0010000010 + 0x100000 * i) + 0, 12, .ro, 0, .free⟩
def Reg.TL_TAKE_NUM_LO_NUM (i : Nat) : Fld := ⟨32 * (0xF0010000014 + 0x100000 * i) + 0, 32, .ro, 0, .free⟩
def Reg.TL_TAKE_NUM_HI_NUM (i : Nat) : Fld := ⟨32 * (0xF0010000018 + 0x100000 * i) + 0, 32, .ro, 0, .free⟩
def Reg.TL_GANG_LEADER (i : Nat) : Fld := ⟨32 * (0xF001000001C + 0x100000 * i) + 0, 8, .ro, 0, .free⟩
def Reg.TL_GANG_WIDTH (i : Nat) : Fld := ⟨32 * (0xF001000001C + 0x100000 * i) + 8, 5, .ro, 0, .free⟩
def Reg.TL_QDEPTH_A_LOADS (i : Nat) : Fld := ⟨32 * (0xF0010000020 + 0x100000 * i) + 0, 6, .ro, 0, .free⟩
def Reg.TL_QDEPTH_A_VECTOR (i : Nat) : Fld := ⟨32 * (0xF0010000020 + 0x100000 * i) + 8, 6, .ro, 0, .free⟩
def Reg.TL_QDEPTH_A_MATRIX (i : Nat) : Fld := ⟨32 * (0xF0010000020 + 0x100000 * i) + 16, 6, .ro, 0, .free⟩
def Reg.TL_QDEPTH_A_DOLLY (i : Nat) : Fld := ⟨32 * (0xF0010000020 + 0x100000 * i) + 24, 6, .ro, 0, .free⟩
def Reg.TL_QDEPTH_B_SYNC (i : Nat) : Fld := ⟨32 * (0xF0010000024 + 0x100000 * i) + 0, 6, .ro, 0, .free⟩
def Reg.TL_QDEPTH_B_MESSAGE (i : Nat) : Fld := ⟨32 * (0xF0010000024 + 0x100000 * i) + 8, 6, .ro, 0, .free⟩
def Reg.TL_QDEPTH_B_CUE_WAITS (i : Nat) : Fld := ⟨32 * (0xF0010000024 + 0x100000 * i) + 16, 2, .ro, 0, .free⟩
def Reg.TL_QDEPTH_B_MSGS (i : Nat) : Fld := ⟨32 * (0xF0010000024 + 0x100000 * i) + 24, 7, .ro, 0, .free⟩
def Reg.TL_PC_PC (i : Nat) : Fld := ⟨32 * (0xF0010000028 + 0x100000 * i) + 0, 32, .ro, 0, .free⟩
def Reg.TL_FAULT_CODE (i : Nat) : Fld := ⟨32 * (0xF001000002C + 0x100000 * i) + 0, 16, .ro, 0, .free⟩
def Reg.TL_FAULT_VALID (i : Nat) : Fld := ⟨32 * (0xF001000002C + 0x100000 * i) + 16, 1, .w1c, 0, .free⟩
def Reg.TL_FAULT_ADDR_ADDR (i : Nat) : Fld := ⟨32 * (0xF0010000030 + 0x100000 * i) + 0, 32, .ro, 0, .free⟩
def Reg.TL_SEM_SEL_SEM (i : Nat) : Fld := ⟨32 * (0xF0010000034 + 0x100000 * i) + 0, 5, .rw, 0, .free⟩
def Reg.TL_SEM_VAL_COUNT (i : Nat) : Fld := ⟨32 * (0xF0010000038 + 0x100000 * i) + 0, 16, .ro, 0, .free⟩
def Reg.TL_EVENTS_FAULT (i : Nat) : Fld := ⟨32 * (0xF001000003C + 0x100000 * i) + 0, 1, .w1c, 0, .free⟩
def Reg.TL_EVENTS_LATE_WAIT (i : Nat) : Fld := ⟨32 * (0xF001000003C + 0x100000 * i) + 1, 1, .w1c, 0, .free⟩
def Reg.TL_EVENTS_ENCODING (i : Nat) : Fld := ⟨32 * (0xF001000003C + 0x100000 * i) + 2, 1, .w1c, 0, .free⟩
def Reg.TL_EVENTS_PRIVILEGE (i : Nat) : Fld := ⟨32 * (0xF001000003C + 0x100000 * i) + 3, 1, .w1c, 0, .free⟩
def Reg.TL_EVENTS_CREW_REFUSED (i : Nat) : Fld := ⟨32 * (0xF001000003C + 0x100000 * i) + 4, 1, .w1c, 0, .free⟩
def Reg.TL_CTRL_IC_INVALIDATE (i : Nat) : Fld := ⟨32 * (0xF0010000040 + 0x100000 * i) + 0, 1, .wo, 0, .free⟩
def Reg.TL_NOTIFY_DROPS_COUNT (i : Nat) : Fld := ⟨32 * (0xF0010000044 + 0x100000 * i) + 0, 16, .rc, 0, .free⟩
def Reg.TL_MX_STATE_ACTIVE_FMT (i : Nat) : Fld := ⟨32 * (0xF0010001000 + 0x100000 * i) + 0, 5, .ro, 0, .free⟩
def Reg.TL_MX_STATE_ACTIVE_VALID (i : Nat) : Fld := ⟨32 * (0xF0010001000 + 0x100000 * i) + 5, 1, .ro, 0, .free⟩
def Reg.TL_MX_STATE_SHADOW_FMT (i : Nat) : Fld := ⟨32 * (0xF0010001000 + 0x100000 * i) + 8, 5, .ro, 0, .free⟩
def Reg.TL_MX_STATE_SHADOW_VALID (i : Nat) : Fld := ⟨32 * (0xF0010001000 + 0x100000 * i) + 13, 1, .ro, 0, .free⟩
def Reg.TL_MX_STATE_LOADER_BUSY (i : Nat) : Fld := ⟨32 * (0xF0010001000 + 0x100000 * i) + 16, 1, .ro, 0, .free⟩
def Reg.TL_MX_STATE_ARRAY_BUSY (i : Nat) : Fld := ⟨32 * (0xF0010001000 + 0x100000 * i) + 17, 1, .ro, 0, .free⟩
def Reg.TL_MX_STATE_DRAIN_BUSY (i : Nat) : Fld := ⟨32 * (0xF0010001000 + 0x100000 * i) + 18, 1, .ro, 0, .free⟩
def Reg.TL_MX_STATE_ACC_WRITTEN (i : Nat) : Fld := ⟨32 * (0xF0010001000 + 0x100000 * i) + 24, 8, .ro, 0, .free⟩
def Reg.TL_MX_ROWBUF_LEVEL (i : Nat) : Fld := ⟨32 * (0xF0010001004 + 0x100000 * i) + 0, 6, .ro, 0, .free⟩
def Reg.TL_DSC_SEL_DSC (i : Nat) : Fld := ⟨32 * (0xF0010001008 + 0x100000 * i) + 0, 4, .rw, 0, .free⟩
def Reg.TL_DLY_STATE_INFLIGHT (i : Nat) : Fld := ⟨32 * (0xF001000100C + 0x100000 * i) + 0, 4, .ro, 0, .free⟩
def Reg.TL_TENSOR_EVENTS_WRITE_SUPPRESSED (i : Nat) : Fld := ⟨32 * (0xF0010001010 + 0x100000 * i) + 0, 1, .w1c, 0, .free⟩
def Reg.TL_TENSOR_EVENTS_SHADOW_REPLACED (i : Nat) : Fld := ⟨32 * (0xF0010001010 + 0x100000 * i) + 1, 1, .w1c, 0, .free⟩
def Reg.TL_TENSOR_EVENTS_DESCRIPTOR_FAULT (i : Nat) : Fld := ⟨32 * (0xF0010001010 + 0x100000 * i) + 2, 1, .w1c, 0, .free⟩
def Reg.TL_TENSOR_EVENTS_FORMAT_PAIR (i : Nat) : Fld := ⟨32 * (0xF0010001010 + 0x100000 * i) + 3, 1, .w1c, 0, .free⟩
def Reg.TL_TENSOR_EVENTS_INDEX_FAULT (i : Nat) : Fld := ⟨32 * (0xF0010001010 + 0x100000 * i) + 4, 1, .w1c, 0, .free⟩
def Reg.TL_TENSOR_EVENTS_RELAY_NO_OP (i : Nat) : Fld := ⟨32 * (0xF0010001010 + 0x100000 * i) + 5, 1, .w1c, 0, .free⟩
def Reg.TL_TENSOR_EVENTS_STARVE (i : Nat) : Fld := ⟨32 * (0xF0010001010 + 0x100000 * i) + 6, 1, .w1c, 0, .free⟩
def Reg.TL_SPAD_CLEAR_CLEAR (i : Nat) : Fld := ⟨32 * (0xF0010001014 + 0x100000 * i) + 0, 1, .wo, 0, .free⟩
def Reg.TL_SPAD_CLEAR_DONE (i : Nat) : Fld := ⟨32 * (0xF0010001014 + 0x100000 * i) + 1, 1, .ro, 1, .free⟩
def Reg.TL_DSC_WORD_WORD (i : Nat) (n : Nat) : Fld := ⟨32 * (0xF0010001100 + 0x100000 * i + 4 * n) + 0, 32, .ro, 0, .free⟩
def Reg.TL_CNT_COUNT (i : Nat) (n : Nat) : Fld := ⟨32 * (0xF0010008000 + 0x100000 * i + 4 * n) + 0, 32, .rw, 0, .free⟩
def Reg.TL_CNT_CFG_CHAIN (i : Nat) (n : Nat) : Fld := ⟨32 * (0xF0010008200 + 0x100000 * i + 4 * n) + 0, 1, .rw, (tlChainReset n), .free⟩
def Reg.TL_CNT_CFG_MODE (i : Nat) (n : Nat) : Fld := ⟨32 * (0xF0010008200 + 0x100000 * i + 4 * n) + 1, 1, .rw, (tlModeReset n), .free⟩
def Reg.TL_CNT_CFG_OVF (i : Nat) (n : Nat) : Fld := ⟨32 * (0xF0010008200 + 0x100000 * i + 4 * n) + 2, 1, .w1c, 0, .free⟩
def Reg.TL_CNT_SAMPLE_VALUE (i : Nat) (n : Nat) : Fld := ⟨32 * (0xF0010008400 + 0x100000 * i + 4 * n) + 0, 32, .ro, 0, .free⟩
def Reg.TL_CNT_SAMPLE_TIME_LO_TIME (i : Nat) : Fld := ⟨32 * (0xF0010008580 + 0x100000 * i) + 0, 32, .ro, 0, .free⟩
def Reg.TL_CNT_SAMPLE_TIME_HI_TIME (i : Nat) : Fld := ⟨32 * (0xF0010008584 + 0x100000 * i) + 0, 32, .ro, 0, .free⟩
def Reg.TL_CNT_SAMPLE_SEQ_SEQ (i : Nat) : Fld := ⟨32 * (0xF0010008588 + 0x100000 * i) + 0, 16, .ro, 0, .free⟩
def Reg.TL_CNT_SAMPLE_SEQ_STALE (i : Nat) : Fld := ⟨32 * (0xF0010008588 + 0x100000 * i) + 16, 1, .ro, 0, .free⟩
def Reg.TL_CENSUS_CLEAR_ENTRY (i : Nat) : Fld := ⟨32 * (0xF0010008600 + 0x100000 * i) + 0, 6, .wo, 0, .free⟩
def Reg.TL_CENSUS_CLEAR_GO (i : Nat) : Fld := ⟨32 * (0xF0010008600 + 0x100000 * i) + 6, 1, .wo, 0, .free⟩
def Reg.TL_CENSUS_CLEAR_ALL (i : Nat) : Fld := ⟨32 * (0xF0010008600 + 0x100000 * i) + 7, 1, .wo, 0, .free⟩
def Reg.TL_CENSUS_WORD (i : Nat) (n : Nat) : Fld := ⟨32 * (0xF0010008800 + 0x100000 * i + 4 * n) + 0, 32, .ro, 0, .free⟩
def Reg.TL_CS_UNMAPPED_COUNT (i : Nat) : Fld := ⟨32 * (0xF00100FFFFC + 0x100000 * i) + 0, 32, .rc, 0, .free⟩

end Sys2Proof.Machine
end

