-- ==== Sys2Proof/Config.lean ====
section
/-! DEFINITION. What the spec leaves open or fixes only by naming an outside function: free values, the results the
vector unit may choose within a bound, and the cryptographic functions of other standards. Nothing here has a body
that a proof could see (log entries 1, 2 and 40). -/

namespace Sys2Proof.Config

/-- The free value number `n`: a fresh 64-bit value the spec leaves open. The step counts them in State. -/
opaque freeBits : Nat → BitVec 64

end Sys2Proof.Config

namespace Sys2Proof.Config

/-- The bits of a special function of R198 whose value the spec gives only within an error bound, or not at all:
function number of R197, input bits. -/
opaque sfu : Nat → BitVec 32 → BitVec 32

/-- Which result within the bound of R198 the reciprocal functions take: function number, input bits. -/
opaque ulpPick : Nat → BitVec 32 → Nat

end Sys2Proof.Config

namespace Sys2Proof.Config

/-- The shape of the two complementary trees of a group, which the spec leaves open (R354, log entry 42): member count,
tree, member; the parent, none at the root. -/
opaque treeParent : Nat → Nat → Nat → Option Nat

/-- The children of a member in a tree, in increasing index. -/
opaque treeChildren : Nat → Nat → Nat → List Nat

end Sys2Proof.Config


namespace Sys2Proof.Config

/-- The bytes of M0, the digest of the ROM (R535): the spec gives the ROM no contents. -/
opaque romDigest : Nat → BitVec 8

/-- The hardware maximum of a V-die rail's current in A (R46), which the spec does not give. -/
opaque railMax : Nat → BitVec 16

/-- A mode-register value of an LPDDR5X device (R582): device, which of manufacturer, revision, density. -/
opaque deviceMode : Nat → Nat → BitVec 8

end Sys2Proof.Config

namespace Sys2Proof.Config

/-- Byte `n` of the device secret DS (R521), which no register reads. -/
opaque deviceSecret : Nat → Byte

/-- ML-DSA (R518), 44 or 87: byte `n` of the public key of a seed. -/
opaque dsaKey : Nat → List Byte → Nat → Byte

/-- ML-DSA in its hedged form: byte `n` of the signature by a seed's key over a message with 32 random bytes. -/
opaque dsaSign : Nat → List Byte → List Byte → List Byte → Nat → Byte

/-- ML-KEM-768 (R379): byte `n` of the encapsulation key of the pair made from a seed. -/
opaque kemKey : List Byte → Nat → Byte

/-- ML-KEM-768 (R379): byte `n` of the secret shared by a seed's pair and a ciphertext. -/
opaque kemSecret : List Byte → List Byte → Nat → Byte

end Sys2Proof.Config

namespace Sys2Proof.Config

/-- What the ROM and the bring-up find at a module reset whose command does not bring it (a register write): one free value
for each count of the step (log entry 1). -/
opaque freeBoot : Nat → Boot

end Sys2Proof.Config
end

