-- ==== Sys2Proof/Machine/Num.lean ====
section
/-! DEFINITION. Exact arithmetic and rounding: values as exact dyadic numbers, one rounding into a destination grid,
the binary32 operations of R195, R198 and R199. -/

namespace Sys2Proof.Machine

/-- A floating-point value: not a number, an infinity, or ±m × 2^e (the sign of a zero is kept). -/
inductive FVal where
  | nan
  | inf (neg : Bool)
  | fin (neg : Bool) (m : Nat) (e : Int)
  deriving DecidableEq, Repr

/-- How a format spells its special values (R212). -/
inductive Special where
  | ieee | e4m3 | none
  deriving DecidableEq, Repr

/-- A floating-point element format (R212). -/
structure Fmt where
  ebits : Nat
  mbits : Nat
  bias : Nat
  special : Special
  deriving DecidableEq, Repr

def Fmt.width (f : Fmt) : Nat := 1 + f.ebits + f.mbits

def fp32 : Fmt := ⟨8, 23, 127, .ieee⟩
def bf16 : Fmt := ⟨8, 7, 127, .ieee⟩
def fp16 : Fmt := ⟨5, 10, 15, .ieee⟩
def e4m3 : Fmt := ⟨4, 3, 7, .e4m3⟩
def e5m2 : Fmt := ⟨5, 2, 15, .ieee⟩
def e3m2 : Fmt := ⟨3, 2, 3, .none⟩
def e2m3 : Fmt := ⟨2, 3, 1, .none⟩
def e2m1 : Fmt := ⟨2, 1, 1, .none⟩

/-- The value of an element code (R212). -/
def Fmt.decode (f : Fmt) (code : Nat) : FVal :=
  let mant := bits code 0 f.mbits
  let ex := bits code f.mbits f.ebits
  let neg := bit code (f.mbits + f.ebits)
  let top := 2 ^ f.ebits - 1
  match f.special with
  | .ieee =>
    if ex = top then (if mant = 0 then .inf neg else .nan)
    else if ex = 0 then .fin neg mant (1 - (f.bias : Int) - f.mbits)
    else .fin neg (2 ^ f.mbits + mant) ((ex : Int) - f.bias - f.mbits)
  | .e4m3 =>
    if ex = top ∧ mant = 2 ^ f.mbits - 1 then .nan
    else if ex = 0 then .fin neg mant (1 - (f.bias : Int) - f.mbits)
    else .fin neg (2 ^ f.mbits + mant) ((ex : Int) - f.bias - f.mbits)
  | .none =>
    if ex = 0 then .fin neg mant (1 - (f.bias : Int) - f.mbits)
    else .fin neg (2 ^ f.mbits + mant) ((ex : Int) - f.bias - f.mbits)

/-- The exponent field of the largest finite value. -/
def Fmt.topExp (f : Fmt) : Nat := match f.special with | .ieee => 2 ^ f.ebits - 2 | _ => 2 ^ f.ebits - 1

/-- The mantissa field of the largest finite value. -/
def Fmt.topMant (f : Fmt) : Nat := match f.special with | .e4m3 => 2 ^ f.mbits - 2 | _ => 2 ^ f.mbits - 1

/-- The code of the largest finite magnitude. -/
def Fmt.maxCode (f : Fmt) : Nat := f.topExp * 2 ^ f.mbits + f.topMant

/-- A magnitude as an exact ratio: num / den × 2^e. -/
structure Mag where
  num : Nat
  den : Nat
  e : Int
  deriving DecidableEq, Repr

/-- The floor of log2 of a non-zero ratio. -/
def Mag.log2 (x : Mag) : Int :=
  let d : Int := (Nat.log2 x.num : Int) - (Nat.log2 x.den : Int)
  let le : Bool :=
    if d ≥ 0 then decide (x.den * 2 ^ d.toNat ≤ x.num) else decide (x.den ≤ x.num * 2 ^ (-d).toNat)
  (if le then d else d - 1) + x.e

/-- The whole part and the rest of x / 2^q: (n, r, d) with x / 2^q = n + r / d. -/
def Mag.split (x : Mag) (q : Int) : Nat × Nat × Nat :=
  let k := x.e - q
  let num := if k ≥ 0 then x.num * 2 ^ k.toNat else x.num
  let den := if k ≥ 0 then x.den else x.den * 2 ^ (-k).toNat
  (num / den, num % den, den)

/-- How a conversion rounds (R224, R236): to nearest even, toward zero, or stochastically with a draw of 16 bits. -/
inductive Rnd where
  | rne | trunc | stoch (r : Nat)
  deriving DecidableEq, Repr

/-- Round n + r / d to a whole number. -/
def roundWhole (rd : Rnd) (n r d : Nat) : Nat :=
  match rd with
  | .trunc => n
  | .rne => if 2 * r > d then n + 1 else if 2 * r = d then n + n % 2 else n
  | .stoch w => if r * 65536 / d + w ≥ 65536 then n + 1 else n

/-- The exponent of the grid spacing of a format at a magnitude (R236 step 1), the exponent range unbounded above. -/
def Fmt.quantum (f : Fmt) (x : Mag) : Int :=
  let emin : Int := 1 - (f.bias : Int)
  (if x.num = 0 then emin else max x.log2 emin) - f.mbits

/-- Round a magnitude once into a format's grid: (n, q) with the result n × 2^q. -/
def Fmt.round (f : Fmt) (rd : Rnd) (x : Mag) : Nat × Int :=
  let q := f.quantum x
  let (n, r, d) := x.split q
  let n' := roundWhole rd n r d
  if n' = 2 ^ (f.mbits + 1) then (2 ^ f.mbits, q + 1) else (n', q)

/-- A result of conversion: the code, whether it overflowed, whether a non-zero input became zero. -/
structure Conv where
  code : Nat
  sat : Bool
  flush : Bool
  deriving DecidableEq, Repr

/-- The sign bit of a format. -/
def Fmt.sign (f : Fmt) (neg : Bool) : Nat := if neg then 2 ^ (f.ebits + f.mbits) else 0

/-- The code of a rounded magnitude, or none where it lies above the largest finite value. -/
def Fmt.encode (f : Fmt) (n : Nat) (q : Int) : Option Nat :=
  if n < 2 ^ f.mbits then some n
  else
    let ex := q + f.mbits + f.bias
    let code := ex.toNat * 2 ^ f.mbits + (n - 2 ^ f.mbits)
    if code ≤ f.maxCode then some code else none

/-- What a conversion writes out of range (R225): infinities in FP32, BF16 and FP16; the largest finite elsewhere. -/
def Fmt.keepsInf (f : Fmt) : Bool := f.special == .ieee && f.width ≥ 16

/-- Convert an exact magnitude with a sign into a format (R224, R225). -/
def Fmt.convMag (f : Fmt) (rd : Rnd) (neg : Bool) (x : Mag) : Conv :=
  let (n, q) := f.round rd x
  match f.encode n q with
  | some c => { code := f.sign neg + c, sat := false, flush := decide (x.num ≠ 0 ∧ n = 0) }
  | none => { code := f.sign neg + (if f.keepsInf then f.maxCode + 1 else f.maxCode), sat := true, flush := false }

/-- The code of a NaN in a destination format (R225); elements of narrow formats without NaN write 0. -/
def Fmt.nanCode (f : Fmt) : Nat :=
  if f.width = 32 then 0x7FC00000
  else if f.width = 16 then (if f.ebits = 8 then 0x7FC0 else 0x7E00)
  else if f.width = 8 then 0x7F
  else 0

/-- Convert a value times 2^shift into a format (R224, R225). An infinite input counts as saturated where the
destination writes a finite value (R238). -/
def Fmt.conv (f : Fmt) (rd : Rnd) (shift : Int) (v : FVal) : Conv :=
  match v with
  | .nan => { code := f.nanCode, sat := false, flush := false }
  | .inf neg =>
    if f.keepsInf then { code := f.sign neg + f.maxCode + 1, sat := false, flush := false }
    else { code := f.sign neg + f.maxCode, sat := true, flush := false }
  | .fin neg m e => f.convMag rd neg ⟨m, 1, e + shift⟩

/-- Convert into a two's complement integer of `w` bits (INT8, INT4, MXINT8 elements): limits at both ends. -/
def convInt (w : Nat) (rd : Rnd) (neg : Bool) (x : Mag) : Conv :=
  let (n, r, d) := x.split 0
  let k := roundWhole rd n r d
  let lim := if neg then 2 ^ (w - 1) else 2 ^ (w - 1) - 1
  if k > lim then { code := if neg then 2 ^ (w - 1) else lim, sat := true, flush := false }
  else { code := if neg then (2 ^ w - k) % 2 ^ w else k, sat := false, flush := decide (x.num ≠ 0 ∧ k = 0) }

/-- Convert a value times 2^shift into a two's complement integer (R225). -/
def convIntV (w : Nat) (rd : Rnd) (shift : Int) (v : FVal) : Conv :=
  match v with
  | .nan => { code := 0, sat := false, flush := false }
  | .inf neg => { code := if neg then 2 ^ (w - 1) else 2 ^ (w - 1) - 1, sat := true, flush := false }
  | .fin neg m e => convInt w rd neg ⟨m, 1, e + shift⟩

/-! ### Exact sums and products -/

/-- A value as a signed multiple of 2^e. -/
def signed (neg : Bool) (m : Nat) : Int := if neg then -(m : Int) else (m : Int)

/-- The exact product of two values; infinity times zero and NaN give NaN (R222). -/
def FVal.mul (a b : FVal) : FVal :=
  match a, b with
  | .nan, _ => .nan
  | _, .nan => .nan
  | .inf s, .inf t => .inf (s != t)
  | .inf s, .fin t m _ => if m = 0 then .nan else .inf (s != t)
  | .fin t m _, .inf s => if m = 0 then .nan else .inf (s != t)
  | .fin s m e, .fin t n f => .fin (s != t) (m * n) (e + f)

/-- The exact sum of two values. A zero sum is +0 unless both are −0 (IEEE 754 under round-to-nearest-even). -/
def FVal.add (a b : FVal) : FVal :=
  match a, b with
  | .nan, _ => .nan
  | _, .nan => .nan
  | .inf s, .inf t => if s = t then .inf s else .nan
  | .inf s, .fin _ _ _ => .inf s
  | .fin _ _ _, .inf s => .inf s
  | .fin s m e, .fin t n f =>
    let q := min e f
    let z := signed s (m * 2 ^ (e - q).toNat) + signed t (n * 2 ^ (f - q).toNat)
    if z = 0 then .fin (decide (m = 0) && decide (n = 0) && s && t) 0 q
    else .fin (decide (z < 0)) z.natAbs q

/-- The value with its sign turned. -/
def FVal.negate : FVal → FVal
  | .nan => .nan
  | .inf s => .inf (!s)
  | .fin s m e => .fin (!s) m e

/-- The magnitude. -/
def FVal.magnitude : FVal → FVal
  | .nan => .nan
  | .inf _ => .inf false
  | .fin _ m e => .fin false m e

/-- The value times 2^k. -/
def FVal.scale (k : Int) : FVal → FVal
  | .fin s m e => .fin s m (e + k)
  | v => v

def FVal.isNan : FVal → Bool
  | .nan => true
  | _ => false

def FVal.isZero : FVal → Bool
  | .fin _ m _ => m == 0
  | _ => false

/-- An order on the extended reals in which −0 lies below +0 and NaN below everything. -/
def FVal.rank (a : FVal) : Nat × Int × Int :=
  match a with
  | .nan => (0, 0, 0)
  | .inf true => (1, 0, 0)
  | .inf false => (3, 0, 0)
  | .fin s m e => (2, signed s m, e)

/-- a < b as numbers (neither NaN); with `zeros`, −0 < +0. -/
def FVal.lt (zeros : Bool) (a b : FVal) : Bool :=
  match a, b with
  | .nan, _ => false
  | _, .nan => false
  | .inf s, .inf t => s && !t
  | .inf s, _ => s
  | _, .inf t => !t
  | .fin s m e, .fin t n f =>
    let q := min e f
    let x := signed s (m * 2 ^ (e - q).toNat)
    let y := signed t (n * 2 ^ (f - q).toNat)
    decide (x < y) || (zeros && decide (m = 0) && decide (n = 0) && s && !t)

/-- a = b as numbers. -/
def FVal.eqv (a b : FVal) : Bool :=
  !a.isNan && !b.isNan && !FVal.lt false a b && !FVal.lt false b a

/-! ### binary32 -/

/-- The value of a binary32 word. -/
def f32 (w : Word) : FVal := fp32.decode w.toNat

/-- Round a value once into binary32; every NaN result is 0x7FC0_0000 (R195). -/
def toF32 (v : FVal) : Word := BitVec.ofNat 32 (fp32.conv .rne 0 v).code

def f32Add (a b : Word) : Word := toF32 ((f32 a).add (f32 b))
def f32Sub (a b : Word) : Word := toF32 ((f32 a).add (f32 b).negate)
def f32Mul (a b : Word) : Word := toF32 ((f32 a).mul (f32 b))
def f32Fma (a b c : Word) : Word := toF32 (((f32 a).mul (f32 b)).add (f32 c))
def f32Fms (a b c : Word) : Word := toF32 (((f32 a).mul (f32 b)).add (f32 c).negate)

/-- min and max return the other operand when one is NaN, and treat −0 as less than +0 (R195). -/
def f32Min (a b : Word) : Word :=
  if (f32 a).isNan then (if (f32 b).isNan then 0x7FC00000 else b)
  else if (f32 b).isNan then a
  else if FVal.lt true (f32 b) (f32 a) then b else a

def f32Max (a b : Word) : Word :=
  if (f32 a).isNan then (if (f32 b).isNan then 0x7FC00000 else b)
  else if (f32 b).isNan then a
  else if FVal.lt true (f32 a) (f32 b) then b else a

/-- Absolute value and negation: every NaN result is 0x7FC0_0000. -/
def f32Abs (a : Word) : Word := if (f32 a).isNan then 0x7FC00000 else a &&& 0x7FFFFFFF
def f32Neg (a : Word) : Word := if (f32 a).isNan then 0x7FC00000 else a ^^^ 0x80000000

/-- Correctly rounded division (R197, R198), IEEE 754 on the special values. -/
def f32Div (a b : Word) : Word :=
  match f32 a, f32 b with
  | .nan, _ => 0x7FC00000
  | _, .nan => 0x7FC00000
  | .inf _, .inf _ => 0x7FC00000
  | .inf s, .fin t _ _ => toF32 (.inf (s != t))
  | .fin s _ _, .inf t => toF32 (.fin (s != t) 0 0)
  | .fin s m e, .fin t n f =>
    if n = 0 then (if m = 0 then 0x7FC00000 else toF32 (.inf (s != t)))
    else BitVec.ofNat 32 (fp32.convMag .rne (s != t) ⟨m, n, e - f⟩).code

/-- The whole square root, bit by bit from bit `k − 1`. -/
def isqrtFrom : Nat → Nat → Nat → Nat
  | 0, _, r => r
  | k + 1, v, r => isqrtFrom k v (if (r + 2 ^ k) * (r + 2 ^ k) ≤ v then r + 2 ^ k else r)

def isqrt (v : Nat) : Nat := isqrtFrom (Nat.log2 v / 2 + 1) v 0

/-- Correctly rounded square root (R198): the root is taken with 40 more bits and a sticky bit. -/
def f32Sqrt (a : Word) : Word :=
  match f32 a with
  | .nan => 0x7FC00000
  | .inf s => if s then 0x7FC00000 else 0x7F800000
  | .fin s m e =>
    if m = 0 then toF32 (.fin s 0 0)
    else if s then 0x7FC00000
    else
      let m' := if e % 2 = 0 then m else 2 * m
      let e' := if e % 2 = 0 then e else e - 1
      let v := m' * 2 ^ 80
      let r := isqrt v
      let sticky := if r * r = v then 2 * r else 2 * r + 1
      BitVec.ofNat 32 (fp32.convMag .rne false ⟨sticky, 1, e' / 2 - 41⟩).code

/-- |c − x| ≤ 1 ulp, for x given as a ratio and c a finite candidate: the ulp is the grid spacing at x. -/
def withinUlp (c : Word) (neg : Bool) (x : Mag) : Bool :=
  match f32 c with
  | .fin s m e =>
    let u := fp32.quantum x
    let q := min (min e u) x.e
    let cz := signed s (m * 2 ^ (e - q).toNat) * (x.den : Int)
    let xz := signed neg (x.num * 2 ^ (x.e - q).toNat)
    decide ((cz - xz).natAbs ≤ x.den * 2 ^ (u - q).toNat)
  | _ => false

/-- A result within 1 ulp: the nearest, or a neighbour the hardware may take, as `Config.ulpPick` says. -/
def pickUlp (fn : Nat) (a near : Word) (ok : Word → Bool) : Word :=
  let c := match Config.ulpPick fn a % 3 with
    | 0 => near
    | 1 => near + 1
    | _ => near - 1
  if ok c then c else near

/-- v.rcp: within 1 ulp of 1 / x (R198). -/
def f32Rcp (a : Word) : Word :=
  match f32 a with
  | .nan => 0x7FC00000
  | .inf s => toF32 (.fin s 0 0)
  | .fin s m e =>
    if m = 0 then toF32 (.inf s)
    else
      let x : Mag := ⟨1, m, -e⟩
      let near := BitVec.ofNat 32 (fp32.convMag .rne s x).code
      pickUlp 4 a near (fun c => withinUlp c s x)

/-- v.rsqrt: within 1 ulp of 1 / √x (R198). The candidate c passes when (c − u)² ≤ 1/x ≤ (c + u)². -/
def f32Rsqrt (a : Word) : Word :=
  match f32 a with
  | .nan => 0x7FC00000
  | .inf s => if s then 0x7FC00000 else 0
  | .fin s m e =>
    if m = 0 then toF32 (.inf s)
    else if s then 0x7FC00000
    else
      let m' := if e % 2 = 0 then m else 2 * m
      let e' := if e % 2 = 0 then e else e - 1
      -- 1/√(m' 2^e') = √(2^200 / m') 2^(−100 − e'/2)
      let r := isqrt (2 ^ 200 / m')
      let x : Mag := ⟨2 * r + 1, 1, -101 - e' / 2⟩
      let near := BitVec.ofNat 32 (fp32.convMag .rne false x).code
      pickUlp 5 a near (fun c => withinUlp c false x)

/-- FP32 to INT32, saturating, NaN to 0 (R197). -/
def f32ToInt (rd : Rnd) (a : Word) : Word := BitVec.ofNat 32 (convIntV 32 rd 0 (f32 a)).code

/-- INT32 to FP32. -/
def intToF32 (a : Word) : Word := toF32 (.fin a.msb a.toInt.natAbs 0)

/-- Floor of log2 of a finite non-zero value. -/
def FVal.log2 : FVal → Int
  | .fin _ m e => (Nat.log2 m : Int) + e
  | _ => 0

end Sys2Proof.Machine
end

