-- ==== Sys2Proof/Machine/Formats.lean ====
section
/-! DEFINITION. The narrow formats (R177, R179, R180, R212 to R219), tensor descriptors, and the conversion of a block
of values into a destination format with its scale, its flags and its census counts (R224 to R229, R238). -/

namespace Sys2Proof.Machine

/-- A 64-byte tensor descriptor as loaded (R179). -/
structure Desc where
  raw : BitVec 512
  deriving DecidableEq, Repr

/-! ### Format codes -/

/-- The operand classes of R177. -/
inductive Cls where
  | b16 | c8 | c4 | t2 | none
  deriving DecidableEq, Repr

/-- The class of a format code. -/
def clsOf (code : Nat) : Cls :=
  match code with
  | 0x01 | 0x02 => .b16
  | 0x03 | 0x04 | 0x05 | 0x06 | 0x08 | 0x0A | 0x0B | 0x0C | 0x0D | 0x0F => .c8
  | 0x07 | 0x09 | 0x0E | 0x10 => .c4
  | 0x11 => .t2
  | _ => .none

/-- The integer formats: INT8, INT4, MXINT8. -/
def isIntFmt (code : Nat) : Bool := code == 0x08 || code == 0x09 || code == 0x0F

/-- The element format of a floating-point code. -/
def elemFmt (code : Nat) : Fmt :=
  match code with
  | 0x01 => bf16
  | 0x02 => fp16
  | 0x03 | 0x0A => e4m3
  | 0x04 | 0x0B => e5m2
  | 0x05 | 0x0C => e3m2
  | 0x06 | 0x0D => e2m3
  | 0x07 | 0x0E | 0x10 => e2m1
  | _ => fp32

/-- Bits of one element; 0 for KT2, whose elements lie five to a byte. -/
def elemBits (code : Nat) : Nat :=
  match code with
  | 0x08 | 0x0F => 8
  | 0x09 => 4
  | 0x11 => 0
  | c => (elemFmt c).width

/-- The block length of a block format, 1 otherwise (R214). -/
def blockLen (code : Nat) : Nat :=
  if 0x0A ≤ code ∧ code ≤ 0x0F then 32 else if code = 0x10 then 128 else if code = 0x11 then 160 else 1

def isMx (code : Nat) : Bool := 0x0A ≤ code && code ≤ 0x0F
def isBlock (code : Nat) : Bool := 0x0A ≤ code && code ≤ 0x11

/-- The kind of statistic a block destination records: 1 amax, 2 mean magnitude, 0 none (R230, R239). -/
def statKind (code : Nat) : Nat := if code = 0x11 then 2 else if isBlock code then 1 else 0

/-- K_w for a weight and an activation class (R177); none where the pair is not listed. -/
def pairDepth (w a : Cls) : Option Nat :=
  match w, a with
  | .b16, .b16 | .b16, .c8 | .b16, .c4 => some 128
  | .c8, .b16 | .c4, .b16 | .t2, .b16 => some 128
  | .c8, .c8 | .c8, .c4 => some 128
  | .c4, .c8 | .t2, .c8 => some 128
  | .c4, .c4 => some 256
  | .t2, .c4 => some 512
  | _, _ => none

/-- Whether a stream of a weight and an activation format is allowed, and its K_w (R177). -/
def streamDepth (w a : Nat) : Option Nat :=
  if a = 0x11 then none
  else if w ≠ 0x11 ∧ isIntFmt w ≠ isIntFmt a then none
  else pairDepth (clsOf w) (clsOf a)

/-- The depth an mx.wload loads (R186). -/
def loadDepth (w : Nat) : Option Nat :=
  match clsOf w with
  | .b16 | .c8 => some 128
  | .c4 => some 256
  | .t2 => some 512
  | .none => none

/-! ### Descriptors (R179) -/

def Desc.base (d : Desc) : Nat := bits d.raw.toNat 0 64
def Desc.fmt (d : Desc) : Nat := bits d.raw.toNat 64 5
def Desc.split (d : Desc) : Bool := bit d.raw.toNat 69
def Desc.rank (d : Desc) : Nat := bits d.raw.toNat 80 8
def Desc.tid (d : Desc) : Nat := bits d.raw.toNat 96 16
def Desc.size (d : Desc) (k : Nat) : Nat := bits d.raw.toNat (128 + 32 * k) 32
/-- The byte stride of dimension k ≥ 1. -/
def Desc.stride (d : Desc) (k : Nat) : Int := sext 32 (bits d.raw.toNat (288 + 32 * (k - 1)) 32)
def Desc.scaleBase (d : Desc) : Nat := bits d.raw.toNat 416 64

/-- Dimension 0 sizes are a multiple of this (R180). -/
def dim0Multiple (code : Nat) : Nat :=
  match code with
  | 0x05 | 0x06 => 4
  | 0x07 | 0x09 => 2
  | c => blockLen c

/-- The checks of R181: the NG code of the first rule of R179 and R180 that a descriptor breaks. -/
def Desc.check (d : Desc) : Option Nat :=
  let v := d.raw.toNat
  if d.fmt ≥ 0x12 then some 0x0203
  else
    let okBase := d.base % 64 == 0 && decide (d.base < 2 ^ 48)
    let okFmt := bits v 70 10 == 0 && bits v 88 8 == 0 && bits v 112 16 == 0 && bits v 480 32 == 0
    let okRank := decide (1 ≤ d.rank ∧ d.rank ≤ 5)
    let okSizes := (List.range 5).all (fun k =>
      if k < d.rank then decide (1 ≤ d.size k ∧ d.size k ≤ 2 ^ 24) else d.size k == 1)
    let okStrides := (List.range 4).all (fun j =>
      if j + 1 < d.rank then decide (bits v (288 + 32 * j) 32 % 64 = 0) else bits v (288 + 32 * j) 32 == 0)
    let okLayout := if d.split then isBlock d.fmt else !isMx d.fmt
    let okScale := if d.split then d.scaleBase % 64 == 0 else d.scaleBase == 0
    let okDim0 := d.size 0 % dim0Multiple d.fmt == 0
    if okBase && okFmt && okRank && okSizes && okStrides && okLayout && okScale && okDim0 then none
    else some 0x0202

/-- Bytes of one packed or split row of elements per whole block or element group. -/
def rowBytes (d : Desc) : Nat :=
  let n := d.size 0
  match d.fmt with
  | 0x10 => n / 128 * (if d.split then 64 else 72)
  | 0x11 => n / 160 * (if d.split then 32 else 36)
  | c => n * elemBits c / 8

/-- Entry size of the scale plane (R180). -/
def scaleEntry (code : Nat) : Nat := if code = 0x10 then 8 else if code = 0x11 then 4 else 1

/-- Address of the start of the row at indices of dimensions 1 to 4. The sum wraps modulo 2^64, so that one below 0 lies far outside
the map (log entry 58). -/
def rowAddr (d : Desc) (i1 i2 i3 i4 : Nat) : Nat :=
  (((d.base : Int) + i1 * d.stride 1 + i2 * d.stride 2 + i3 * d.stride 3 + i4 * d.stride 4) % 2 ^ 64).toNat

/-- Address of the scale-plane entry of block `b` of the row at indices of dimensions 1 to 4: block-major, with
dimension 1 rounded up to 64, dimensions 2 to 4 following densely (R180). -/
def scaleAddr (d : Desc) (b i1 i2 i3 i4 : Nat) : Nat :=
  let p := roundUp (d.size 1) 64
  let e := scaleEntry d.fmt
  let nb := d.size 0 / blockLen d.fmt
  let plane := nb * p * e
  d.scaleBase + (b * p + i1) * e + (i2 + d.size 2 * (i3 + d.size 3 * i4)) * plane

/-- The bytes a block's elements and the address of its data entry: (element bytes address, entry address, entry
offset within the packed block is 64 for KF4 and 32 for KT2). -/
def blockAddrs (d : Desc) (b i1 : Nat) : Nat × Nat :=
  let row := rowAddr d i1 0 0 0
  match d.fmt, d.split with
  | 0x10, false => (row + 72 * b, row + 72 * b + 64)
  | 0x11, false => (row + 36 * b, row + 36 * b + 32)
  | 0x10, true => (row + 64 * b, scaleAddr d b i1 0 0 0)
  | 0x11, true => (row + 32 * b, scaleAddr d b i1 0 0 0)
  | c, _ => (row + b * (32 * elemBits c / 8), scaleAddr d b i1 0 0 0)

/-! ### Reading elements -/

/-- One element as the array takes it: its value (microexponents included), its scale factor (R221) and the block
it belongs to (segments of R178). -/
structure WElem where
  v : FVal
  f : FVal
  blk : Nat
  deriving DecidableEq, Repr

def FVal.one : FVal := .fin false 1 0
def FVal.zero : FVal := .fin false 0 0

/-- The value of an integer code. -/
def intVal (w code : Nat) : FVal :=
  let z := sext w code
  .fin (decide (z < 0)) z.natAbs 0

/-- An E8M0 scale byte (R215). -/
def e8m0 (v : Nat) : FVal := if v = 0xFF then .nan else .fin false 1 ((v : Int) - 127)

/-- The bits of packed element `i` of a row at `row` (R213). -/
def packedCode (rd : Nat → Byte) (row w i : Nat) : Nat :=
  match w with
  | 32 => leNat [rd (row + 4 * i), rd (row + 4 * i + 1), rd (row + 4 * i + 2), rd (row + 4 * i + 3)]
  | 16 => leNat [rd (row + 2 * i), rd (row + 2 * i + 1)]
  | 8 => (rd (row + i)).toNat
  | 6 =>
    let g := row + 3 * (i / 4)
    bits (leNat [rd g, rd (g + 1), rd (g + 2)]) (6 * (i % 4)) 6
  | _ => bits (rd (row + i / 2)).toNat (4 * (i % 2)) 4

/-- Element (i, r) of a rank 1 or 2 tensor (R212 to R219); beyond a size it reads as zero (R183). -/
def readElem (rd : Nat → Byte) (d : Desc) (i r : Nat) : WElem :=
  if i ≥ d.size 0 ∨ r ≥ d.size 1 then { v := .zero, f := .one, blk := if isBlock d.fmt then 1 + i / blockLen d.fmt else 0 }
  else
    let code := d.fmt
    if isBlock code then
      let len := blockLen code
      let b := i / len
      let (ea, sa) := blockAddrs d b r
      let j := i % len
      if code = 0x10 then
        let u := j / 16
        let m := bits (rd (sa + u / 2)).toNat (4 * (u % 2)) 4
        let e := (rd (sa + 4)).toNat
        { v := (e2m1.decode (packedCode rd ea 4 j)).scale (-(m : Int)), f := e8m0 e, blk := 1 + b }
      else if code = 0x11 then
        let byte := (rd (ea + j / 5)).toNat
        let t : Nat := if byte ≥ 243 then 1 else byte / 3 ^ (j % 5) % 3
        let s := fp16.decode (leNat [rd sa, rd (sa + 1)])
        let s := match s with
          | .inf _ => FVal.nan
          | x => x
        { v := if t = 0 then .fin true 1 0 else .fin false (t - 1) 0, f := s, blk := 1 + b }
      else
        let sc := e8m0 (rd sa).toNat
        if code = 0x0F then
          { v := intVal 8 (packedCode rd ea 8 j), f := sc.mul (.fin false 1 (-6)), blk := 1 + b }
        else { v := (elemFmt code).decode (packedCode rd ea (elemBits code) j), f := sc, blk := 1 + b }
    else
      let row := rowAddr d r 0 0 0
      if code = 0x08 then { v := intVal 8 (packedCode rd row 8 i), f := .one, blk := 0 }
      else if code = 0x09 then { v := intVal 4 (packedCode rd row 4 i), f := .one, blk := 0 }
      else { v := (elemFmt code).decode (packedCode rd row (elemBits code) i), f := .one, blk := 0 }

/-- The value of an element as a plain number: element times scale; a NaN scale makes it NaN. -/
def WElem.value (w : WElem) : FVal :=
  match w.f with
  | .nan => .nan
  | f => w.v.mul f

/-- Whether a KT2 element lies in an invalid byte (R219), and is the first of the byte's five in a window that starts at `i0`. -/
def kt2Invalid (rd : Nat → Byte) (d : Desc) (i0 i r : Nat) : Bool :=
  d.fmt == 0x11 && decide (i < d.size 0) && decide (r < d.size 1) && (i % 5 == 0 || i == i0) &&
    decide ((rd ((blockAddrs d (i / 160) r).1 + i % 160 / 5)).toNat ≥ 243)

/-! ### Converting -/

/-- The counts of one conversion (R238). -/
structure ConvCounts where
  sat : Nat
  flush : Nat
  clamp : Nat
  nan : Nat
  cold : Nat
  elements : Nat
  deriving DecidableEq, Repr

def ConvCounts.zero : ConvCounts := ⟨0, 0, 0, 0, 0, 0⟩

def ConvCounts.add (a b : ConvCounts) : ConvCounts :=
  ⟨a.sat + b.sat, a.flush + b.flush, a.clamp + b.clamp, a.nan + b.nan, a.cold + b.cold, a.elements + b.elements⟩

/-- A magnitude of a value, infinities counted as 2^128 (R226, R228, R231). -/
def magOf (v : FVal) : Mag :=
  match v with
  | .fin _ m e => ⟨m, 1, e⟩
  | .inf _ => ⟨1, 1, 128⟩
  | .nan => ⟨0, 1, 0⟩

/-- a < b as ratios. -/
def Mag.lt (a b : Mag) : Bool :=
  let q := min a.e b.e
  decide (a.num * 2 ^ (a.e - q).toNat * b.den < b.num * 2 ^ (b.e - q).toNat * a.den)

def Mag.maxOf (l : List Mag) : Mag := l.foldl (fun a b => if a.lt b then b else a) ⟨0, 1, 0⟩

/-- The exact sum of magnitudes. -/
def Mag.sum (l : List Mag) : Mag :=
  l.foldl (fun a b =>
    let q := min a.e b.e
    ⟨a.num * 2 ^ (a.e - q).toNat + b.num * 2 ^ (b.e - q).toNat, 1, q⟩) ⟨0, 1, 0⟩

/-- The block statistic of a destination format over a block's values after SHIFT: largest magnitude, or for KT2 the
mean of the magnitudes (R226, R228). -/
def blockStat (code : Nat) (xs : List FVal) : Mag :=
  if code = 0x11 then
    let s := Mag.sum (xs.map magOf)
    ⟨s.num, 160, s.e⟩
  else Mag.maxOf (xs.map magOf)

/-- A statistic as the history records it, in FP32 (R230). -/
def statWord (x : Mag) : Word := BitVec.ofNat 32 (fp32.convMag .rne false x).code

/-- A recorded statistic as a magnitude; an FP32 infinity stands for 2^128 (log entry 41). -/
def statMag (w : Word) : Mag := magOf (f32 w)

/-- emax of R226. -/
def emaxOf (code : Nat) : Int :=
  match code with
  | 0x0A => 8
  | 0x0B => 15
  | 0x0C => 4
  | 0x0D | 0x0E | 0x10 => 2
  | _ => 0

/-- A converted block: element codes, the bytes of its entry (scale byte; KF4's eight; KT2's four), counts. -/
structure Block where
  codes : List Nat
  entry : List Byte
  counts : ConvCounts
  deriving DecidableEq, Repr

/-- The rounding of element number `k` given the draws of a stochastic conversion. -/
def rndAt (draws : Option (List Nat)) (k : Nat) : Rnd :=
  match draws with
  | none => .rne
  | some l => .stoch (l.getD k 0)

/-- Count what a list of element conversions did. -/
def countConvs (l : List Conv) : ConvCounts :=
  { ConvCounts.zero with
    sat := (l.filter (fun c => c.sat)).length, flush := (l.filter (fun c => c.flush)).length }

/-- X of R226 and whether it was clamped. -/
def scaleExp (code : Nat) (a : Mag) : Int × Bool :=
  if a.num = 0 then (-127, false)
  else
    let x := a.log2 - emaxOf code
    if x > 127 then (127, true) else if x < -127 then (-127, true) else (x, false)

/-- Convert one block of an MX format (R226, R227). -/
def mxBlock (code : Nat) (stat : Mag) (draws : Option (List Nat)) (xs : List FVal) : Block :=
  let nans := (xs.filter FVal.isNan).length
  if nans > 0 then
    { codes := xs.map (fun _ => 0), entry := [0xFF], counts := { ConvCounts.zero with nan := nans, elements := xs.length } }
  else
    let (x, cl) := scaleExp code stat
    let convs := (List.range xs.length).map (fun k =>
      let v := xs.getD k .zero
      if code = 0x0F then convIntV 8 (rndAt draws k) (6 - x) v
      else (elemFmt code).conv (rndAt draws k) (-x) v)
    -- an element of a block format saturates an infinity as well (R225); E5M2 keeps none here
    { codes := convs.map (fun c => c.code), entry := [BitVec.ofInt 8 (x + 127)],
      counts := { countConvs convs with clamp := b2n cl, elements := xs.length } }

/-- Convert one KF4 block of 128 values (R216, R226, R227, R229). -/
def kf4Block (stat : Mag) (draws : Option (List Nat)) (xs : List FVal) : Block :=
  let nans := (xs.filter FVal.isNan).length
  if nans > 0 then
    { codes := xs.map (fun _ => 0), entry := [0, 0, 0, 0, 0xFF, 0, 0, 0],
      counts := { ConvCounts.zero with nan := nans, elements := xs.length } }
  else
    let (x, cl) := scaleExp 0x10 stat
    let ms : List (Nat × Bool) := (List.range 8).map (fun u =>
      let fin := (sub16 xs u).filter (fun v => match v with | .fin _ _ _ => true | _ => false)
      let a := Mag.maxOf (fin.map magOf)
      if a.num = 0 then (15, false)
      else
        let m := x - (a.log2 - 2)
        if m < 0 then (0, true) else if m > 15 then (15, true) else (m.toNat, false))
    let convs := (List.range xs.length).map (fun k =>
      let m : Nat := (ms.getD (k / 16) (0, false)).1
      e2m1.conv (rndAt draws k) ((m : Int) - x) (xs.getD k .zero))
    let clamps := b2n cl + (ms.filter (fun m => m.2)).length
    let cnt := countConvs convs
    let micro := (List.range 4).map (fun j =>
      BitVec.ofNat 8 ((ms.getD (2 * j) (0, false)).1 + 16 * (ms.getD (2 * j + 1) (0, false)).1))
    let flags := b2n (decide (cnt.sat > 0)) + 2 * b2n (decide (clamps > 0))
    { codes := convs.map (fun c => c.code),
      entry := micro ++ [BitVec.ofInt 8 (x + 127), BitVec.ofNat 8 flags, 0, 0],
      counts := { cnt with clamp := clamps, elements := xs.length } }
where
  /-- The sixteen values of microblock `u`. -/
  sub16 (xs : List FVal) (u : Nat) : List FVal := (xs.drop (16 * u)).take 16

/-- Convert one KT2 block of 160 values (R218, R228, R229); the codes are t + 1, in 0 to 2. -/
def kt2Block (stat : Mag) (draws : Option (List Nat)) (xs : List FVal) : Block :=
  let nans := (xs.filter FVal.isNan).length
  if nans > 0 then
    { codes := xs.map (fun _ => 1), entry := [0x00, 0x7E, 0, 0],
      counts := { ConvCounts.zero with nan := nans, elements := xs.length } }
  else
    let sc := fp16.convMag .rne false stat
    let s := if sc.sat then fp16.maxCode else sc.code
    let smag := magOf (fp16.decode s)
    let infs := (xs.filter (fun v => match v with | .inf _ => true | _ => false)).length
    if smag.num = 0 then
      { codes := xs.map (fun _ => 1), entry := [0, 0, 0, 0],
        counts := { ConvCounts.zero with
          flush := (xs.filter (fun v => !v.isZero)).length - infs, sat := infs, elements := xs.length } }
    else
      let convs : List (Nat × Bool × Bool) := (List.range xs.length).map (fun k =>
        match xs.getD k .zero with
        | .fin neg m e =>
          let (n, r, d) := Mag.split ⟨m, smag.num, e - smag.e⟩ 0
          let t := roundWhole (rndAt draws k) n r d
          (if t = 0 then 1 else if neg then 0 else 2, decide (t ≥ 2), decide (m ≠ 0 ∧ t = 0))
        | .inf neg => (if neg then 0 else 2, true, false)
        | .nan => (1, false, false))
      let sat := (convs.filter (fun c => c.2.1)).length
      let flags := b2n (decide (sat > 0)) + 2 * b2n sc.sat
      { codes := convs.map (fun c => c.1), entry := leBytes 2 s ++ [BitVec.ofNat 8 flags, 0],
        counts := { ConvCounts.zero with
          sat := sat, flush := (convs.filter (fun c => c.2.2)).length, clamp := b2n sc.sat, elements := xs.length } }

/-- Convert one block of any block format. -/
def convBlock (code : Nat) (stat : Mag) (draws : Option (List Nat)) (xs : List FVal) : Block :=
  if code = 0x10 then kf4Block stat draws xs
  else if code = 0x11 then kt2Block stat draws xs
  else mxBlock code stat draws xs

/-- Convert one value into an element format without block scales. -/
def convElem (code : Nat) (rd : Rnd) (v : FVal) : Conv :=
  if code = 0x08 then convIntV 8 rd 0 v
  else if code = 0x09 then convIntV 4 rd 0 v
  else (elemFmt code).conv rd 0 v

/-- Pack element codes of `w` bits into bytes, from the least significant bit (R213). -/
def packCodes (w : Nat) (codes : List Nat) : List Byte :=
  let v := codes.foldr (fun c a => c % 2 ^ w + 2 ^ w * a) 0
  leBytes ((w * codes.length + 7) / 8) v

/-- Pack KT2 codes five to a byte (R218). -/
def packKt2 : Nat → List Nat → List Byte
  | 0, _ => []
  | n + 1, l => BitVec.ofNat 8 ((l.take 5).foldr (fun c a => c + 3 * a) 0) :: packKt2 n (l.drop 5)

end Sys2Proof.Machine
end

