-- ==== Sys2Proof/Machine/State.lean ====
section
/-! DEFINITION. The state of the module: everything the spec gives it, as plain data. Registers stand in one store keyed
by field (Machine/Field.lean, RegDefs.lean); what a register shows of a larger structure stands in that structure. -/

namespace Sys2Proof.Machine

/-- Why a step could fault: nothing in this block does, since every command has a next state. Kept closed and empty of
causes but one: a command whose operands are not well formed. Safe: the machine stops where no real command is. -/
inductive Fault where
  /-- Raised by no meaning of the model; stands for an ill-formed command. Safe. -/
  | illFormed
  deriving DecidableEq, Repr

/-- Why a command is refused. -/
inductive Refusal where
  /-- The command has no meaning in the model yet. Safe. -/
  | notModelled (mnemonic : String)
  deriving DecidableEq, Repr

/-! ### What the block sends -/

/-- A message, answer or word the block puts out. -/
inductive Out where
  /-- The word a control-space read returns. -/
  | word (v : Nat)
  /-- A reel datagram to a submitter (R122). -/
  | reel (addr : Nat) (ipv4 : Bool) (port : Nat) (bytes : List Byte)
  /-- A Wilef packet: destination physical ID, 64-byte header and payload (R304). -/
  | packet (dst : Nat) (bytes : List Byte)
  /-- A collective packet's content (the spec gives it no layout): kind, destination logical ID, group ID, sequence
  number, two numbers and bytes. Kinds: 0 reduction data, 1 result data, 2 SIG, 3 DONE, 4 FAIL, 5 JOIN, 6 creation
  result, 7 clapper contribution, 8 clapper release, 9 a clapper record to the line producer (R432). -/
  | coll (kind dst gid seq a b : Nat) (bytes : List Byte)
  /-- A management answer or notice: session, bytes from the header of R566 on. -/
  | mgmt (sid : Nat) (bytes : List Byte)
  /-- A time-transfer frame on a Wilef port (R57, R59): the module's timecode at sending, and whether it is sent as domain time, which
  the domain's time root alone does. -/
  | time (port : Nat) (at_ : Nat) (domain : Bool)
  /-- What an Ethernet frame carries: kind, peer address or queue pair, peer port or queue pair number, bytes. Kinds: 1 PTP
  Delay_Req, 2 an RDMA request, 3 a splice answer, 4 a reel datagram as a SEND, 5 an answer of R376, 6 a RoCEv2 ACK, READ response or
  NAK, 7 a CNP, 8 a MACsec encapsulation key, 9 the departure datagram. -/
  | eth (kind : Nat) (addr : Nat) (port : Nat) (bytes : List Byte)
  deriving DecidableEq, Repr

/-! ### Time (R49 to R78) -/

/-- What the time base holds beside its registers. -/
structure TimeSt where
  /-- The timecode (R49). -/
  tc : DWord
  /-- Facility-locked has been reached since the last module reset (R50, R67). -/
  facilitySeen : Bool
  /-- The timecode PLL is locked (R61). -/
  pllLocked : Bool
  /-- Consecutive TB_PULSE edges that were spaced well, the newest included (R56). -/
  pulseRun : Nat
  /-- The PTP offsets of the last Syncs, fraction only, newest first, at most 16 (R61). -/
  ptpOffsets : List Int
  /-- Whole seconds by which the PTP label stands ahead of the timecode (R67). -/
  labelDelta : Int
  /-- Fraction of the last PTP offset in tu, the reference minus the timecode (R78). -/
  ptpFraction : Int
  /-- The last Sync's departure and arrival, and the departure of the last Delay_Req (R54). -/
  syncT1 : Nat
  syncT2 : Nat
  delayT3 : Option Nat
  /-- The measured path delay in tu (R54). -/
  pathDelay : Int
  /-- Consecutive frames in which the domain offset held within ±20 ns (R61). -/
  domStable : Nat
  /-- Consecutive frames in which domain and facility time differed by more than 1 µs (R61, R63). -/
  domConflict : Nat
  /-- The inputs lost and held under R65, and the free-running times at which inputs were lost, by the input's code. -/
  lost : List TimeInput
  lostAt : List (Nat × Nat)
  /-- The free-running time of the last Sync (R65, R78). -/
  syncAt : Nat
  /-- A TB_PULSE edge has come since its use began, so that the next one has a spacing (R56). -/
  pulseSeen : Bool
  /-- Ports whose time exchange has completed since the last frame boundary (R57, R58). -/
  exchanged : List Nat
  /-- A step accepted and awaiting its frame boundary: whether crew asked for it (R67). -/
  step : Option Bool
  /-- The newest mains crossings, newest first, at most 9 (R60). -/
  crossings : List Nat
  /-- The PTP master chosen, and the masters heard (R377). -/
  master : Option Announce
  heard : List Announce
  /-- When the last Delay_Req left, so that no more than 16 leave in a second (R377). -/
  delayAt : Option Nat
  /-- Time that has passed on the free-running counter (R410): it follows the timecode but takes no step. -/
  mono : Nat
  /-- The next instant of a periodic package channel, once it differs from its TIME (R74). -/
  nexts : List (Nat × Nat)
  /-- Channels armed in phase mode while the grid phase was invalid (R75). -/
  gridMissed : List Nat
  deriving DecidableEq, Repr

def TimeSt.reset : TimeSt :=
  { tc := 0, facilitySeen := false, pllLocked := false, pulseRun := 0, ptpOffsets := [], labelDelta := 0,
    ptpFraction := 0, syncT1 := 0, syncT2 := 0, delayT3 := none, pathDelay := 0, domStable := 0, domConflict := 0,
    lost := [], lostAt := [], syncAt := 0, pulseSeen := false, exchanged := [], step := none, crossings := [], master := none, heard := [], delayAt := none, mono := 0, nexts := [],
    gridMissed := [] }

/-! ### Takes (R80 to R127) -/

/-- The states of a journal slot (R106, R110, R118). -/
inductive TakeState where
  | prepared | accepted | started | ended
  deriving DecidableEq, Repr

/-- Where a member of a composite take stands (R33 to R35, R118). -/
structure Member where
  /-- Logical module ID; 0xFFFF for this module (R30). -/
  module : Nat
  cell : BitVec 32
  /-- The key of the local copy in the take table; none for a remote member. -/
  copy : Option Nat
  /-- The answer to the prepare: admitted (remote members, R118). -/
  admitted : Bool
  /-- Commit acknowledged (R118 step 5). -/
  committed : Bool
  /-- Ended, with kind 1 (wrap) or 2 (NG), reason, start, end, cycles, energy, checks, mismatches. -/
  kind : Nat
  reason : Nat
  startTc : Nat
  endTc : Nat
  cycles : Nat
  energy : Nat
  checks : Nat
  mismatches : Nat
  tile : Nat
  detA : Nat
  detB : Nat
  deriving DecidableEq, Repr

/-- A take: its slate, its journal record (R106) and where it stands. -/
structure Take where
  reel : Nat
  num : Nat
  /-- The generation at acceptance, which the slate carries (R83, R106). -/
  gen : Nat
  /-- The generation when the outcome was recorded (R100). -/
  outGen : Nat
  cell : BitVec 32
  handle : Nat
  entry : Nat
  deadline : Nat
  budget : Nat
  argBase : Nat
  argLen : Nat
  stepGroup : Option Nat
  /-- K of the check policy (R83, R241). -/
  checkK : Nat
  wide : Bool
  seed : DWord
  st : TakeState
  /-- Logical ID of the originating module of a composite copy; 0xFFFF for this module (R106). -/
  origin : Nat
  /-- For a copy made on this module: the key of the composite take and the member index (R33). -/
  parent : Option (Nat × Nat)
  members : List Member
  lead : Nat
  /-- The start cue the plan gives, once one is armed (R92), and the reserved end. -/
  planned : Option Nat
  reservedEnd : Nat
  startTc : Nat
  endTc : Nat
  reason : Nat
  tile : Nat
  detA : Nat
  detB : Nat
  cycles : Nat
  energy : Nat
  checks : Nat
  mismatches : Nat
  /-- The cap was below the floor, or a C-die was held under R97 item 2, at some time during the take. -/
  belowFloor : Bool
  thermal : Option (Nat × Nat)
  /-- Reservation in slots (R89). -/
  slots : Nat
  /-- The outcome has been released in take-number order (R103). -/
  released : Bool
  /-- The journal slot can be read (R112). -/
  readable : Bool
  /-- When the take was accepted (R484). -/
  acceptTc : Nat
  /-- The frame in which the copy was admitted (R119), and the generation its lead then had (R121). -/
  admitFrame : Nat
  leadGen : Nat
  /-- Write sequence number of the slot, and its CRC-32C (R106). -/
  wseq : Nat
  crc : Nat
  /-- The frame from which an NG of a composite take ended by a reset of its lead no longer waits for its members
  (R121). -/
  holdFrame : Option Nat
  deriving DecidableEq, Repr

/-- What a reel record holds beside the reel window (R81, R122). -/
structure Reel where
  /-- Sequence number of the next datagram sent on the reel (R122). -/
  seqOut : Nat
  /-- Deadline of the reel's previous take (R84 check 15). -/
  prevDeadline : Nat
  /-- The highest take number with an outcome (R114). -/
  highest : Nat
  /-- The NG that halts the reel (R81 HALT_ON_NG). -/
  haltNg : Option Nat
  /-- Frame of the last echo (R115). -/
  lastEcho : Nat
  /-- Reel sequence in the submitter's direction last seen. -/
  seqIn : Nat
  /-- The slates of a SUBMIT that stand behind a composite take still being admitted (R123). -/
  slates : List (List Byte)
  deriving DecidableEq, Repr

def Reel.reset : Reel := { seqOut := 0, prevDeadline := 0, highest := 0, haltNg := none, lastEcho := 0, seqIn := 0, slates := [] }

/-- A cell-table entry (R30): the 576 bytes as stored, and the generation the module counts. -/
structure CellEntry where
  slice : Nat
  state : Nat
  lead : Nat
  gen : Nat
  members : List (Nat × BitVec 32)
  deriving DecidableEq, Repr

def CellEntry.free : CellEntry := { slice := 0, state := 0, lead := 0, gen := 0, members := [] }

/-- A time the AD keeps free on some tiles beside takes: a clock switch, a repair (R447, R493). -/
structure Reservation where
  kind : Nat
  tiles : List Nat
  from_ : Nat
  until_ : Nat
  deriving DecidableEq, Repr

/-- What the AD holds beside its registers. -/
structure AdSt where
  /-- Takes by journal slot (keys below 65,536); copies made here for a composite stand above (R33, R106). -/
  takes : List (Nat × Take)
  /-- Where the next slot is sought (rotation, R106). -/
  rotor : Nat
  reels : List (Nat × Reel)
  cells : List (Nat × CellEntry)
  /-- Timecodes of the acceptances of the trailing 1 ms, newest first (R84 check 10). -/
  accepts : List Nat
  reservations : List Reservation
  /-- Tiles out of service. -/
  outTiles : List Nat
  /-- C-dies that run with five logical groups (R26). -/
  fiveGroups : List Nat
  /-- Groups (6 × die + group) whose cells refuse new takes because a tile of theirs is suspect (R247, R492). -/
  suspect : List Nat
  /-- Cuts to originate: step group, reason, reel, take number, kind (R481, R482). -/
  cutsDue : List (Nat × Nat × Nat × Nat × Nat)
  /-- A take ended since the plan was last made (R92). -/
  replanDue : Bool
  /-- Detail A and Detail B of the last reject (R105); an ANSWER carries neither. -/
  rejected : Nat × Nat
  /-- Messages to other modules not yet given to the fabric: kind, logical ID, bytes (R37, R118). Kinds: 1 prepare, 2 answer, 3 commit,
  4 abort, 5 commit acknowledged, 6 outcome, 7 heartbeat. -/
  ctlDue : List (Nat × Nat × List Byte)
  /-- The newest generation another module has shown, by logical ID (R113). -/
  peers : List (Nat × Nat)
  deriving DecidableEq, Repr

def AdSt.reset : AdSt :=
  { takes := [], rotor := 0, reels := [], cells := [], accepts := [], reservations := [], outTiles := [],
    fiveGroups := [], suspect := [], cutsDue := [], replanDue := false, rejected := (0, 0), ctlDue := [], peers := [] }

/-! ### Tiles (R128 to R211) -/

/-- An instruction waiting in a unit's queue, with what it captured at issue (R130, R182). -/
structure QItem where
  word : BitVec 64
  pc : Nat
  sa : DWord
  sb : DWord
  sc : DWord
  da : Desc
  db : Desc
  deriving DecidableEq, Repr

/-- A weight buffer (R186): its format, and its 128 columns as far as they were loaded. -/
structure Weights where
  valid : Bool
  used : Bool
  /-- The buffer was made active by mx.swap since it was loaded (R210). -/
  swapped : Bool
  fmt : Nat
  /-- Its layout was split (R188). -/
  split : Bool
  depth : Nat
  cols : List (List WElem)
  /-- The bytes of its window, for the captures of R242. -/
  raw : List Byte
  deriving DecidableEq, Repr

def Weights.empty : Weights := { valid := false, used := false, swapped := false, fmt := 0, split := false, depth := 0, cols := [], raw := [] }

/-- An entry of the scale history and clip census tables, which share their index (R230, R239). -/
structure HistEntry where
  tid : Nat
  kind : Nat
  /-- Recorded statistics in FP32, newest first, at most 16. -/
  vals : List Word
  sat : Nat
  flush : Nat
  clamp : Nat
  nan : Nat
  cold : Nat
  elements : Nat
  last : Word
  /-- When the entry was last used, for the replacement of the least recently used. -/
  used : Nat
  deriving DecidableEq, Repr

def HistEntry.empty (tid : Nat) : HistEntry :=
  { tid := tid, kind := 0, vals := [], sat := 0, flush := 0, clamp := 0, nan := 0, cold := 0, elements := 0, last := 0, used := 0 }

/-- A selected stream captured for a check take (R242). -/
structure Check where
  id : Nat
  take : Nat
  tile : Nat
  pc : Nat
  checker : Nat
  /-- Its place in the check area of its C-die (R242). -/
  slot : Nat
  rows : Nat
  acc : Nat
  accum : Bool
  comp : Bool
  /-- Row of the wide check (R248). -/
  wideRow : Nat
  actFmt : Nat
  weights : List (List WElem)
  acts : List (List WElem)
  prior : List (List Word)
  priorErr : List (List Word)
  result : List (List Word)
  resultErr : List (List Word)
  deriving DecidableEq, Repr

/-- A message on its way (R157 to R161, R321): the count that names it, its semaphore, its class and destination, its
source, target and length, the notification of a msg.send, and whether its packets have been given to the fabric. -/
structure OutMsg where
  id : Nat
  pc : Nat
  sem : Nat
  cls : Nat
  dst : Nat
  src : Nat
  addr : Nat
  len : Nat
  notify : Option (Nat × Nat)
  begun : Bool
  deriving DecidableEq, Repr

/-- A tile (R134) with its queues, buffers and generators. Register files list only what differs from zero. -/
structure Tile where
  /-- The take that runs here, by its key; none between takes, when crew code runs (R137). -/
  take : Option Nat
  /-- Leader of the gang and gang width, 0 for none (R170). -/
  leader : Nat
  width : Nat
  /-- Position within the target cell (R135). -/
  pos : Nat
  s : List (Nat × DWord)
  p : List (Nat × BitVec 128)
  v : List (Nat × List Word)
  d : List (Nat × Desc)
  /-- Accumulator rows: key 128 × set + row. -/
  acc : List (Nat × List Word)
  /-- Sets written since last zeroed (TL_MX_STATE). -/
  accWritten : Nat
  q : List (Nat × Nat)
  pc : Nat
  lastPc : Nat
  ended : Bool
  /-- The tile runs crew code: it has issued without a take and has not executed end (R137, R175). -/
  crew : Bool
  /-- Queues by UNIT value, oldest first; queue 0 holds only a sem.wait that holds the sequencer itself (R128, R149). -/
  queues : List (Nat × List QItem)
  /-- Clapper ID, scalar term and instruction address of a clap this tile waits on, and whether it has arrived. -/
  clap : Option (Nat × Option Nat × Nat)
  arrived : Bool
  /-- Messages issued and not complete, oldest first. -/
  msgs : List OutMsg
  active : Weights
  shadow : Weights
  /-- The four generators (R235). -/
  gens : List (Nat × DWord)
  hist : List (Nat × HistEntry)
  useClock : Nat
  /-- Slice of the last take (R135, R136). -/
  lastSlice : Nat
  /-- Image handle whose text the instruction cache holds. -/
  icache : Option Nat
  /-- Units whose held cue.wait has started (R154). -/
  cueHeld : List Nat
  /-- What coll.wait writes for the tile's last completed operation on a slot (R346): slot and value. -/
  colWait : List (Nat × Nat)
  /-- The tile is held in reset. -/
  inReset : Bool
  deriving DecidableEq, Repr

def Tile.idle : Tile :=
  { take := none, leader := 0, width := 0, pos := 0, s := [], p := [], v := [], d := [], acc := [], accWritten := 0,
    q := [], pc := 0, lastPc := 0, ended := false, crew := false, queues := [], clap := none, arrived := false, msgs := [],
    active := Weights.empty, shadow := Weights.empty, gens := [], hist := [], useClock := 0, lastSlice := 0,
    icache := none, cueHeld := [], colWait := [], inReset := false }

/-- A loaded program image (R164 to R169). -/
structure Image where
  loads : Nat
  loaded : Bool
  slice : Nat
  textBase : Nat
  textLen : Nat
  gang : Nat
  deriving DecidableEq, Repr

/-- An entry of the notification table (R159). -/
structure Notice where
  slice : Nat
  step : Nat
  tile : Nat
  sem : Nat
  frame : Nat
  deriving DecidableEq, Repr

/-- What the tiles share: semaphores of groups and gangs, open clappers, pending checks, images. -/
structure TileShared where
  /-- Shared semaphores q24–q31: key 256 × (leader or first tile of the group) + 8 × gang + n. -/
  shared : List (Nat × Nat)
  /-- Open clappers by take key: clapper ID of the first arrival, the release cue once it is set (R152). -/
  clappers : List (Nat × (Nat × Option Nat))
  checks : List Check
  nextId : Nat
  images : List (Nat × Image)
  notices : List Notice
  /-- Timecodes of charged mismatches by tile or checker index (R247). -/
  charges : List (Nat × List Nat)
  /-- C-dies whose spare row carries a logical group (R25), and checker tiles that left check service (R247). -/
  spareTaken : List Nat
  checkersOut : List Nat
  deriving DecidableEq, Repr

def TileShared.reset : TileShared :=
  { shared := [], clappers := [], checks := [], nextId := 0, images := [], notices := [], charges := [], spareTaken := [],
    checkersOut := [] }

/-! ### Memory (R251 to R296) -/

/-- A line of the bonded SRAM cache (R260): its 256 bytes and marks. -/
structure CacheLine where
  /-- C-die whose copy this is in local placement; 8 in shared placement (R262). -/
  die : Nat
  /-- L of R262. -/
  line : Nat
  dirty : Bool
  prefetched : Bool
  poisoned : Bool
  data : List Byte
  deriving DecidableEq, Repr

/-- A stream tracker (R271 to R274). -/
structure Tracker where
  mdie : Nat
  tile : Nat
  last : Nat
  diff : Option Int
  stride : Option Int
  seqAssume : Bool
  lead : Nat
  depth : Nat
  maxDepth : Nat
  limit : Nat
  confirmed : Bool
  stamp : Nat
  deriving DecidableEq, Repr

/-- The record a slice release leaves in MRAM (R291). -/
structure ReleaseRecord where
  slice : Nat
  gen : Nat
  at_ : Nat
  ranges : List Byte
  hash : List Byte
  deriving DecidableEq, Repr

/-- The memory configuration in effect (R268): LPDDR5X allotment, cached range, unit masks, placement. -/
structure MemCfg where
  base : Nat
  limit : Nat
  cacheBase : Nat
  cacheLimit : Nat
  unitMode : Nat
  allotSram : Nat
  placement : Nat
  deriving DecidableEq, Repr

/-- Stored training results of a device: its ID, its bin, its temperature in °C (R278). -/
structure Training where
  id : Nat
  bin : Nat
  temp : Int
  deriving DecidableEq, Repr

/-- What the memory system holds beside its registers and its contents. -/
structure MemSt where
  cfg : MemCfg
  cache : List CacheLine
  trackers : List Tracker
  stamp : Nat
  release : Option ReleaseRecord
  /-- A release has completed since the slice was assigned (R571). -/
  released : Bool
  /-- A flush in progress: command 1 or 2 (R267). -/
  flush : Option Nat
  /-- C-dies out of service, whose units have left the cache (R270). -/
  lostDies : List Nat
  /-- LPDDR5X devices lost at run time (R279). -/
  lostDevices : List Nat
  /-- The slice key, as its wrapped bytes (R289); no register reads it. -/
  sliceKey : Option (List Byte)
  /-- Refresh rate by device where above 1×: 1 for 2×, 2 for 4× (R280). -/
  rates : List (Nat × Nat)
  /-- Lines whose next read meets an error of the link, with its bits (R285). -/
  linkErrs : List (Nat × Nat)
  /-- Bonded SRAM units whose tags cannot be read (R270). -/
  badTags : List Nat
  /-- The stored training results of the devices, in MRAM (R278). -/
  trained : List (Nat × Training)
  /-- The temperature in °C of each device when it was last trained (R281). -/
  trainTemps : List (Nat × Int)
  deriving DecidableEq, Repr

def MemCfg.empty : MemCfg :=
  { base := 0, limit := 0, cacheBase := 0, cacheLimit := 0, unitMode := 0, allotSram := 0, placement := 0 }

def MemSt.reset : MemSt :=
  { cfg := MemCfg.empty, cache := [], trackers := [], stamp := 0, release := none, released := false, flush := none,
    lostDies := [], lostDevices := [], sliceKey := none, rates := [], linkErrs := [], badTags := [], trained := [], trainTemps := [] }

/-- The contents of memory: bytes by device address; the poisoned 16-byte words and 256-byte lines; the lines stored encrypted, with the
number of the key of each (R288); the words and lines in which errors stand that no read has met yet, with how many bits of a word, or
symbols of a codeword, are wrong (R254, R258, R283, R284). An unlisted byte reads as zero (R255, R259, R282). -/
structure Memory where
  bytes : List Host.Cell
  poison : List (Nat × Nat)
  encrypted : List (Nat × Nat)
  flaws : List (Nat × Nat)
  deriving DecidableEq, Repr

def Memory.empty : Memory := { bytes := [], poison := [], encrypted := [], flaws := [] }

/-! ### The Ethernet port (R369 to R393) -/

/-- A request a queue pair has sent and not completed (R385, R386). -/
structure RdmaReq where
  /-- Producer count of its entry. -/
  index : Nat
  op : Nat
  len : Nat
  laddr : Nat
  raddr : Nat
  key : Nat
  id : Nat
  retries : Nat
  /-- When it was last sent, on the free-running counter (R381). -/
  sentAt : Nat
  /-- Its status, once it has one (R387). -/
  result : Option Nat
  deriving DecidableEq, Repr

/-- A queue pair (R381 to R388). -/
structure QpSt where
  /-- Producer counts taken from the ring, and completions written. -/
  taken : Nat
  completed : Nat
  outstanding : List RdmaReq
  /-- Send rate in bytes per second where below the link rate; a CNP has come in this period (R388). -/
  rate : Option Nat
  cnp : Bool
  /-- When a CNP was last returned to it. -/
  cnpAt : Option Nat
  deriving DecidableEq, Repr

def QpSt.new : QpSt := { taken := 0, completed := 0, outstanding := [], rate := none, cnp := false, cnpAt := none }

structure EthSt where
  /-- Priorities paused by the partner: priority, since when, until when, on the free-running counter (R373). -/
  paused : List (Nat × Nat × Nat)
  /-- Priorities whose pauses are not honoured, and until when (R374). -/
  ignoring : List (Nat × Nat)
  /-- Messages held for a paused priority, oldest first: priority, frames, message (R373). -/
  held : List (Nat × Nat × Out)
  qps : List (Nat × QpSt)
  /-- Registrations into each window index (R382). -/
  regs : List (Nat × Nat)
  /-- Times of the answers to solicitations and echoes of the last second (R376). -/
  answers : List Nat
  /-- A key exchange sent and not answered: the association number it is for (R379). -/
  keying : Option Nat
  /-- The seed of the key pair whose exchange that is (R379). -/
  kemSeed : List Byte
  /-- The SAK and salt of the transmit association installed; its packet number. -/
  sak : Option (List Byte)
  packetNum : Nat
  /-- When the association was installed, on the free-running counter, and whether the old one is still received. -/
  saAt : Nat
  oldSa : Bool
  /-- When the send rates were last updated, on the free-running counter (R388). -/
  rateAt : Nat
  /-- When the link came up at 800 Gb/s after a fallback, and whether the retry is still to be made (R370). -/
  upAt : Nat
  fallback : Bool
  deriving DecidableEq, Repr

def EthSt.reset : EthSt :=
  { paused := [], ignoring := [], held := [], qps := [], regs := [], answers := [], keying := none, kemSeed := [], sak := none, packetNum := 0, saAt := 0,
    oldSa := false, rateAt := 0, upAt := 0, fallback := false }

/-! ### The fabric (R297 to R333) -/

/-- What a packet carries: bytes of memory read again at each sending (R319), bytes, or a collective's content. -/
inductive Body where
  | mem (tile addr : Nat)
  | bytes (l : List Byte)
  | coll (o : Out)
  deriving DecidableEq, Repr

/-- Whose packet it is (R319): a tile's message, a collective operation by slot and sequence number, or the AD. -/
inductive Owner where
  | tile (i msg : Nat)
  | coll (slot seq : Nat)
  | ad
  deriving DecidableEq, Repr

/-- A packet at its source, not yet acknowledged. -/
structure SrcPkt where
  seq : Nat
  typ : Nat
  last : Bool
  len : Nat
  msgId : Nat
  addr : Nat
  arg : Nat
  body : Body
  owner : Owner
  tries : Nat
  port : Nat
  /-- When it was last sent (R319). -/
  sentAt : Nat
  deriving DecidableEq, Repr

/-- A source context (R312, R313): packets sent and unacknowledged, and those that wait for the window. -/
structure SrcCtx where
  dst : Nat
  cls : Nat
  next : Nat
  unacked : List SrcPkt
  backlog : List SrcPkt
  /-- When it last sent or was last acknowledged. -/
  at_ : Nat
  deriving DecidableEq, Repr

/-- A destination context (R313, R316). -/
structure DstCtx where
  src : Nat
  cls : Nat
  gen : Nat
  expect : Nat
  held : List Pkt
  sinceAck : Nat
  echo : Bool
  /-- When a packet of it last came. -/
  at_ : Nat
  /-- When the gap timer started, while it runs (R316). -/
  gapAt : Option Nat
  /-- When the first delivery not yet acknowledged was made (R318). -/
  owedAt : Option Nat
  deriving DecidableEq, Repr

structure FabSt where
  src : List SrcCtx
  dst : List DstCtx
  /-- Rate to a destination physical ID in bytes per second, where below full rate (R324). -/
  rates : List (Nat × Nat)
  /-- Destinations whose ACK carried ECHO in this period. -/
  echoed : List Nat
  /-- Messages counted by source: tile index, or 0xFF (R304). -/
  counts : List (Nat × Nat)
  /-- Cut and DEPART packets seen: source, MSG_ID, arrival (R315). -/
  seen : List (Nat × Nat × Nat)
  /-- The allowed-sender bitmap in effect, by word (R310). -/
  allow : List (Nat × Nat)
  /-- Collective packets that are ready and wait for their share of a port, oldest first: slot, destination physical ID, the credits
  their receiver gives this sender (0: they need none), packet (R348, R349). -/
  ready : List (Nat × Nat × Nat × SrcPkt)
  /-- By port, the group whose turn it is and the packets it may still send in it (R349). -/
  turns : List (Nat × Nat × Nat)
  /-- When the rate to a destination was last updated (R324). -/
  rateAt : List (Nat × Nat)
  /-- When a port that is up came up (R301), or one that is down failed a step of its bring-up (R299). -/
  portAt : List (Nat × Nat)
  deriving DecidableEq, Repr

def FabSt.reset : FabSt := {
  src := [], dst := [], rates := [], echoed := [], counts := [], seen := [], allow := [], ready := [], turns := [], rateAt := [],
  portAt := [] }

/-! ### Collectives (R334 to R368) -/

/-- Collective data that have arrived and wait for their operation or its signature (R351). -/
structure CollIn where
  from_ : Nat
  seq : Nat
  kind : Nat
  unit : Nat
  val : List Byte
  deriving DecidableEq, Repr

/-- An operation a member has started and not completed. -/
structure CollOp where
  seq : Nat
  fn : Nat
  alg : Nat
  red : Nat
  fmt : Nat
  count : Nat
  root : Nat
  tile : Nat
  take : Nat
  pc : Nat
  da : Desc
  db : Desc
  relay : Bool
  entries : List (Nat × Nat × Nat × Nat)
  sig : Nat
  begun : Bool
  /-- Own source units ready, by unit number. -/
  own : List (Nat × List Byte)
  /-- Contributions by unit: member and value, in order of arrival. -/
  parts : List (Nat × List (Nat × List Byte))
  /-- Units already reduced here. -/
  reduced : List Nat
  /-- Destination units written. -/
  written : List Nat
  /-- Source bytes relayed, by offset (R358). -/
  relayed : List (Nat × Nat)
  done : Bool
  acked : Bool
  /-- Clapper: arrival and requested release, contributions heard, release. -/
  arrive : Nat
  want : Nat
  heard : List (Nat × Nat × Nat)
  /-- The table of allocations a contribution brought (R434). -/
  table : List Byte
  release : Option Nat
  deriving DecidableEq, Repr

/-- A group slot (R334 to R340). -/
structure Group where
  state : Nat
  gid : Nat
  weight : Nat
  index : Nat
  members : List Nat
  slots : List Nat
  step : Nat
  slice : Nat
  bufKib : Nat
  /-- Last sequence number assigned. -/
  seq : Nat
  ops : List CollOp
  sigs : List (Nat × Nat × Nat)
  inbox : List CollIn
  /-- Reason that broke the group, and the detecting member. -/
  failCode : Nat
  failMember : Nat
  /-- The tile that creates it here, the hash of its record, and the frame in which it began (R338). -/
  creator : Nat
  hash : Nat
  since : Nat
  lastDone : Nat
  /-- Slack at the previous clapper in units of 2^10 tu (R363). -/
  slack : Nat
  deriving DecidableEq, Repr

def Group.free : Group :=
  { state := 0, gid := 0, weight := 0, index := 0, members := [], slots := [], step := 0, slice := 0, bufKib := 0, seq := 0,
    ops := [], sigs := [], inbox := [], failCode := 0, failMember := 0, creator := 0, hash := 0, since := 0, lastDone := 0,
    slack := 0 }

/-- A JOIN held by member 0 (R338). -/
structure Join where
  gid : Nat
  from_ : Nat
  slot : Nat
  status : Nat
  hash : Nat
  frame : Nat
  deriving DecidableEq, Repr

structure CollSt where
  groups : List (Nat × Group)
  joins : List Join
  /-- Creations that this module as member 0 still brings to their result although its own step 1 failed (R338, R339). -/
  roots : List Group
  deriving DecidableEq, Repr

def CollSt.reset : CollSt := { groups := [], joins := [], roots := [] }

/-! ### Faults and recovery (R467 to R500) -/

/-- A dailies slot (R480). -/
structure Dump where
  complete : Bool
  tiles : Nat
  uncaptured : Nat
  us : Nat
  order : Nat
  deriving DecidableEq, Repr

structure FltSt where
  /-- Generations of tile, group and die domains, by cell identifier (R473). -/
  gens : List (Nat × Nat)
  /-- The log ring in MRAM, newest first, 64 entries of 32 bytes (R499). -/
  log : List (List Byte)
  /-- Dailies slots, by 16 × C-die + slot. -/
  dumps : List (Nat × Dump)
  dumpCount : Nat
  /-- Step groups cut: step group and detection timecode (R485). -/
  cuts : List (Nat × Nat)
  cutNo : Nat
  /-- Timecodes of module warm resets nobody requested (R468). -/
  warmTimes : List Nat
  /-- Timecodes of resets for hangs or internal errors, by group (R492). -/
  resetTimes : List (Nat × List Nat)
  /-- A repair that waits for its reservation: die, group, its start (R493). -/
  repair : Option (Nat × Nat × Nat)
  /-- The profile's body as last announced, bytes 2 to 63 (R495). -/
  profile : List Byte
  profileSeq : Nat
  /-- Dies out of service: C-dies, M-dies, S-dies, V-dies; N-die; management units; package links. -/
  outC : List Nat
  outM : List Nat
  outS : List Nat
  outV : List Nat
  outN : Bool
  outUnits : List Nat
  outLinks : List Nat
  /-- Package links that failed and leave routing at the next die reset (R18, R21). -/
  badLinks : List Nat
  /-- Wilef ports up for more than 10 s (R301). -/
  ports10 : List Nat
  /-- Latches of the over-temperature trip and the wet leak shutdown (R460, R465). -/
  tripLatch : Bool
  leakLatch : Bool
  faultPin : Bool
  /-- The die and sensor of a trip, in MRAM, until the next boot reports them (R460). -/
  trip : Option (Nat × Nat)
  deriving DecidableEq, Repr

def FltSt.reset : FltSt :=
  { gens := [], log := [], dumps := [], dumpCount := 0, cuts := [], cutNo := 0, warmTimes := [], resetTimes := [], repair := none,
    profile := [], profileSeq := 0, outC := [], outM := [], outS := [], outV := [], outN := false, outUnits := [], outLinks := [], badLinks := [],
    ports10 := [], tripLatch := false, leakLatch := false, faultPin := false, trip := none }

/-! ### The gaffer (R394 to R438) -/

/-- A member's record at the line producer (R432). -/
structure LpRecord where
  member : Nat
  slack : Nat
  clock : Nat
  floor : Nat
  ceiling : Nat
  frame : Nat
  deriving DecidableEq, Repr

structure GafSt where
  /-- T in 1/128 W (R408). -/
  t128 : Nat
  /-- The greatest R since the last ramp step, in W (R409). -/
  peak : Nat
  /-- The free-running time of the last ramp step (R410). -/
  stepAt : Option Nat
  /-- Samples of P_in and P_rail, newest first: 1 s of them (R395, R396). -/
  samples : List (Nat × Nat)
  /-- Energies in µJ: input, tone, overhead, and the overhead of the slice (R429). -/
  eIn : Nat
  eTone : Nat
  eOver : Nat
  eSliceOver : Nat
  /-- Energy of the slice's takes in mJ (R429). -/
  eSliceTakes : Nat
  /-- Issue level in 64ths that over-current leaves, by V-die, where below 64 (R421). -/
  ocIssue : List (Nat × Nat)
  /-- Since when P_ctl has stayed above Q at minimum settings, and Q above P_ctl by 20 W (R425). -/
  overSince : Option Nat
  underSince : Option Nat
  minimum : Bool
  /-- A controlled shutdown runs, or has removed the rails (R426). -/
  shutdown : Bool
  railsOff : Bool
  /-- T exceeds E (R424). -/
  lag : Bool
  /-- Energies of the current frame in µJ: input, modelled total, tone, overhead (R430). -/
  frameIn : Nat
  frameMod : Nat
  frameTone : Nat
  frameOver : Nat
  /-- A divergence has not yet been followed by agreement (R396, R397). -/
  diverged : Bool
  /-- Input samples compared with the model since the last reset (R396). -/
  corr : Nat
  /-- How many input samples in a row have found P_mod more than 12% of P_in away, and within 8% (R396, R397). -/
  modelFar : Nat
  modelNear : Nat
  /-- How many in a row have found P_rail × k more than 8% of P_in away, and within 4% (R398). -/
  railFar : Nat
  railNear : Nat
  /-- The last frame counted as short of tone (R418). -/
  shortFrame : Option Nat
  /-- An allocation received and the frame at which it applies (R434): watts, clock, frame. -/
  allocDue : Option (Nat × Nat × Nat)
  /-- At the line producer: allocations and records of members by logical ID (R433). -/
  lpAlloc : List (Nat × Nat)
  lpRecords : List LpRecord
  /-- Group slots to whose clapper the last allocations have been attached (R434). -/
  lpSent : List Nat
  /-- The log ring, newest first, 16 entries: kind, value, timecode (R403). -/
  log : List (Nat × Nat × Nat)
  deriving DecidableEq, Repr

def GafSt.reset : GafSt :=
  { t128 := 0, peak := 0, stepAt := none, samples := [], eIn := 0, eTone := 0, eOver := 0, eSliceOver := 0, eSliceTakes := 0,
    ocIssue := [], overSince := none, underSince := none, minimum := false, shutdown := false, railsOff := false,
    lag := false, frameIn := 0, frameMod := 0, frameTone := 0, frameOver := 0, diverged := false, corr := 0, modelFar := 0,
    modelNear := 0, railFar := 0, railNear := 0, shortFrame := none, allocDue := none, lpAlloc := [], lpRecords := [], lpSent := [],
    log := [] }

/-! ### Clocks, droop, thermal control (R439 to R466) -/

/-- A clock switch armed on a package cue channel (R446). -/
structure ClockSwitch where
  chan : Nat
  dom : Nat
  source : Nat
  at_ : Nat
  deriving DecidableEq, Repr

structure ClkSt where
  /-- PLLs that have locked, with their output in MHz, by 4 × domain + source (R441). -/
  plls : List (Nat × Nat)
  switches : List ClockSwitch
  /-- When the frequency count in progress began (R452). -/
  counting : Option Nat
  /-- Consecutive leak-loop readings in one range: state code, how many (R464). -/
  leakRun : Nat × Nat
  /-- Start of the rise test of a die: free-running time, modelled power in W, readings (R461). -/
  rise : List (Nat × (Nat × Nat × List Nat))
  /-- Rise tests an excluded sensor has passed in a row, by 32 × die + sensor (R461). -/
  passes : List (Nat × Nat)
  /-- Time throttled by C-die in units of 100 µs (R466). -/
  throttled : List (Nat × Nat)
  /-- The last admission of the ramp ladder on a C-die, in core cycles as the commands count them (R453). -/
  admitted : List (Nat × Nat)
  /-- Port windows whose new K waits for the boundary: port and the K in force (R512). -/
  winK : List (Nat × Nat)
  deriving DecidableEq, Repr

def ClkSt.reset : ClkSt :=
  { plls := [], switches := [], counting := none, leakRun := (4, 0), rise := [], passes := [], throttled := [], admitted := [], winK := [] }

/-! ### Identity, records, keys (R517 to R541) -/

/-- A signed record held in MRAM (R524, R525): its bytes, and what its payload holds. -/
structure Record where
  bytes : List Byte
  content : RecContent
  deriving DecidableEq, Repr

structure SecSt where
  /-- Records held, and those in effect (R525). -/
  cfg : Option Record
  cfgNow : Option Record
  repair : Option Record
  repairNow : Option Record
  /-- Serials of the 40 dies (R582). -/
  dieSerials : List Nat
  /-- When the key import was opened, and the binding it puts into quotes (R538). -/
  importAt : Option Nat
  binding : List Byte
  /-- The seed of the key pair of the open import, which its close destroys (R538). -/
  importSeed : List Byte
  /-- Made at the boot (R522, R530): the seed of the alias key, what its certificate says (M0 to M4, the generation), and the random bytes
  of that signature. -/
  aliasSeed : List Byte
  aliasMsg : List Byte
  aliasRnd : List Byte
  /-- The slice key wrapped in MRAM: nonce, ciphertext, tag (R522, R537). -/
  wrapped : List Byte
  /-- Measurements kept in MRAM: debug log and release log (R535). -/
  m6 : List Byte
  m7 : List Byte
  /-- The last valid FAB_RT_HASH (R535). -/
  m5 : List Byte
  /-- Times of the quotes signed in the last second, newest first (R536). -/
  quotes : List Nat
  /-- The unit is dead (R534): the number of its FAULT_n pattern. -/
  dead : Option Nat
  /-- The IEEE 1149 instruction in effect (R539): 0 BYPASS, 1 IDCODE, 2 SAMPLE/PRELOAD, 3 EXTEST, 4 EXTEST_PULSE,
  5 EXTEST_TRAIN, 6 one that a token grants. -/
  jtag : Nat
  deriving DecidableEq, Repr

def SecSt.reset : SecSt :=
  { cfg := none, cfgNow := none, repair := none, repairNow := none, dieSerials := [], importAt := none, binding := [], importSeed := [],
    aliasSeed := [], aliasMsg := [], aliasRnd := [], wrapped := [], m6 := [],
    m7 := [], m5 := [], quotes := [], dead := none, jtag := 0 }

/-! ### Splices (R542 to R555) -/

/-- What is known of a slot: can version, SVN, slot digest; failed mark (R531, R542). -/
structure Slot where
  version : Nat
  svn : Nat
  digest : List Byte
  failed : Bool
  deriving DecidableEq, Repr

def Slot.empty : Slot := { version := 0, svn := 0, digest := [], failed := false }

/-- An accepted manifest (R544): what its head and its chunks say. -/
structure Manifest where
  version : Nat
  svn : Nat
  length : Nat
  digest : List Byte
  n : Nat
  /-- Operation, base offset and hash of each chunk. -/
  chunks : List (Nat × Nat × List Byte)
  deriving DecidableEq, Repr

structure UpdSt where
  /-- The NOR flash (R542); an unlisted byte reads zero. -/
  nor : List (Nat × Byte)
  slotA : Slot
  slotB : Slot
  /-- Slot pointer and flags in MRAM (R531). -/
  pointer : Nat
  trial : Bool
  trialUsed : Bool
  /-- Manifest bytes received before acceptance, and the number of the next piece (R545). -/
  pieces : List Byte
  nextPiece : Nat
  manifest : Option Manifest
  /-- The chunk bitmap: bit c of chunk c (R546). -/
  bitmap : Nat
  /-- Time and length of the last accepted item (R547). -/
  lastItem : Option (Nat × Nat)
  /-- The health window: its start on the free-running counter, and the parts out of service before its cue (R552). -/
  healthAt : Option Nat
  partsOut : List (List Nat)
  /-- Chunks and length of the can that recovery writes (R555). -/
  recBitmap : Nat
  recLen : Nat
  deriving DecidableEq, Repr

def UpdSt.reset : UpdSt :=
  { nor := [], slotA := Slot.empty, slotB := Slot.empty, pointer := 0, trial := false, trialUsed := false, pieces := [], nextPiece := 0,
    manifest := none, bitmap := 0, lastItem := none, healthAt := none, partsOut := [], recBitmap := 0, recLen := 0 }

/-! ### The management port (R560 to R585) -/

/-- A session (R562 to R568). -/
structure Session where
  sid : Nat
  /-- KEY has come; the first verified request has come. -/
  keyed : Bool
  opened : Bool
  /-- When it was opened, or last had a verified request. -/
  at_ : Nat
  nonce : List Byte
  /-- The seed of the key pair its HELLO was answered with; the tray secret in force when its keys were derived, and these: 32 bytes for
  each direction, the tray's first (R562, R565). -/
  seed : List Byte
  secret : List Byte
  keys : List Byte
  highest : Nat
  seqOut : Nat
  /-- The last 64 answers: request number, bytes. -/
  answers : List (Nat × List Byte)
  lastNum : Nat
  /-- Requests marked begun and not answered (R576). -/
  begun : List Nat
  /-- The second counted for R568 and the requests in it. -/
  second : Nat
  inSecond : Nat
  deriving DecidableEq, Repr

structure MgtSt where
  sessions : List Session
  secret : List Byte
  /-- Requests that wait while no unit holds the token, with their lengths (R575). -/
  waiting : List (Instr × Nat)
  /-- A waiting request is being handled. -/
  serving : Bool
  /-- When the unit lease was last renewed, and when the token fell free (R573, R578). -/
  renewedAt : Nat
  unheldAt : Nat
  /-- Times at which each unit lost the lease (R577). -/
  losses : List (Nat × List Nat)
  /-- When the cap lease was last renewed (R579). -/
  capAt : Nat
  /-- Notices not yet answered: type 0x60 or 0x61, when last sent, payload (R572). -/
  notices : List (Nat × Nat × List Byte)
  /-- MGT_ALERT_CAUSE as last announced, and the sequence of the profile last sent (R572). -/
  alerted : Nat
  profiled : Nat
  /-- Wide-check tolerance T of the slice (R571). -/
  tolerance : Nat
  /-- Thermal history: 16 × C-die + bin, in 0.1 h (R583). -/
  thermal : List (Nat × Nat)
  deriving DecidableEq, Repr

def MgtSt.reset : MgtSt :=
  { sessions := [], secret := List.replicate 32 0, waiting := [], serving := false, renewedAt := 0, unheldAt := 0, losses := [], capAt := 0,
    notices := [], alerted := 0x1000, profiled := 0, tolerance := 16, thermal := [] }

/-! ### Bring-up and power modes (R586 to R601) -/

structure PwrSt where
  /-- t0 and t_s of R586. -/
  t0 : Nat
  ts : Option Nat
  /-- The power mode a drain leads to, and when it began (R597). -/
  target : Option (Nat × Nat)
  /-- The MG-die: 0 runs; 1 waits for its crystal to be judged; 2 holds itself in reset (R440); 3 its rail is down. -/
  mg : Nat
  /-- V-die rails are up; input power is good; the module is in a departure (R490). -/
  rails : Bool
  power : Bool
  /-- The repair record at the last full self-test (R592). -/
  testRecord : List Byte
  /-- What the boot ROM found, while the bring-up waits (R586, R589). -/
  boot : Option Boot
  /-- The end of stage 5 on the free-running counter (R588). -/
  s5 : Nat
  /-- How input power was last lost: 0 not at all, 1 with a departure, 2 in Off (R490, R599). -/
  lost : Nat
  deriving DecidableEq, Repr

def PwrSt.reset : PwrSt :=
  { t0 := 0, ts := none, target := none, mg := 0, rails := false, power := false, testRecord := [], boot := none,
    s5 := 0, lost := 0 }

/-! ### The whole -/

/-- Everything but the contents of memory and the queue of commands. -/
structure Ctl where
  /-- The register store: field key to value; an unlisted field reads its reset value. -/
  regs : List (Nat × Nat)
  /-- High words latched by reads of their low words (R52, R505): register address to value. -/
  latched : List (Nat × Nat)
  /-- How many free values have been used (log entry 1; the model's own). -/
  freeCtr : Nat
  time : TimeSt
  ad : AdSt
  tiles : List (Nat × Tile)
  share : TileShared
  memory : MemSt
  fab : FabSt
  coll : CollSt
  flt : FltSt
  gaf : GafSt
  clk : ClkSt
  sec : SecSt
  upd : UpdSt
  mgt : MgtSt
  pwr : PwrSt
  eth : EthSt
  /-- What the block has sent, newest first. -/
  out : List Out
  deriving DecidableEq, Repr

/-- The machine: its control state, the contents of its memory, and the commands that wait, first in first out. -/
structure State where
  c : Ctl
  mem : Memory
  pending : List Instr
  deriving DecidableEq, Repr

def Ctl.reset : Ctl :=
  { regs := [], latched := [], freeCtr := 0, time := TimeSt.reset, ad := AdSt.reset, tiles := [],
    share := TileShared.reset, memory := MemSt.reset, fab := FabSt.reset, coll := CollSt.reset, flt := FltSt.reset, gaf := GafSt.reset,
    clk := ClkSt.reset, sec := SecSt.reset, upd := UpdSt.reset, mgt := MgtSt.reset, pwr := PwrSt.reset, eth := EthSt.reset, out := [] }

/-- The machine right after reset: every register at its reset value, nothing running, nothing waiting. -/
def State.reset : State := { c := Ctl.reset, mem := Memory.empty, pending := [] }

end Sys2Proof.Machine
end

