-- ==== Sys2Proof/Machine/Ops.lean ====
section
/-! DEFINITION. The named operations every meaning is built from: reading and writing register fields, events, counters,
alerts, free values, time. -/

namespace Sys2Proof.Machine

/-! ### Register fields -/

/-- The value of a field: what is stored, or its reset value. -/
def rd (c : Ctl) (f : Fld) : Nat := Map.getD f.reset c.regs f.key

/-- Set a field, cut to its width. -/
def wr (f : Fld) (v : Nat) (c : Ctl) : Ctl := { c with regs := Map.setD f.reset c.regs f.key (v % 2 ^ f.len) }

/-- A one-bit field as a Bool. -/
def rdb (c : Ctl) (f : Fld) : Bool := rd c f != 0

/-- Set a one-bit field. -/
def wrb (f : Fld) (b : Bool) (c : Ctl) : Ctl := wr f (b2n b) c

/-- Raise an event bit. -/
def raise (f : Fld) (c : Ctl) : Ctl := wr f 1 c

/-- Add to a count that saturates at the width of its field. -/
def bump (f : Fld) (k : Nat) (c : Ctl) : Ctl := wr f (Nat.min (rd c f + k) (2 ^ f.len - 1)) c

/-- A 64-bit value held in a LO and a HI field. -/
def rd64 (c : Ctl) (lo hi : Fld) : Nat := rd c lo + 2 ^ 32 * rd c hi

def wr64 (lo hi : Fld) (v : Nat) (c : Ctl) : Ctl := wr hi (v / 2 ^ 32) (wr lo v c)

/-- Apply an operation only under a condition. -/
def when (b : Bool) (f : Ctl → Ctl) (c : Ctl) : Ctl := if b then f c else c

/-- Apply an operation for each element of a list, in order. -/
def forEach {α : Type} (l : List α) (f : α → Ctl → Ctl) (c : Ctl) : Ctl := l.foldl (fun c a => f a c) c

/-- Put a message out. -/
def emit (o : Out) (c : Ctl) : Ctl := { c with out := o :: c.out }

/-- A fresh free value (log entry 1). -/
def fresh (c : Ctl) : BitVec 64 × Ctl := (Config.freeBits c.freeCtr, { c with freeCtr := c.freeCtr + 1 })

/-! ### Time -/

/-- The timecode as a number. -/
def now (c : Ctl) : Nat := c.time.tc.toNat

/-- The frame number (R53). -/
def frameOf (t : Nat) : Nat := t / 2 ^ 22

/-- The frame number now. -/
def frameNow (c : Ctl) : Nat := frameOf (now c)

/-- The first slot boundary at or after a time. -/
def slotCeil (t : Nat) : Nat := roundUp t (2 ^ 14)

def setTc (t : Nat) (c : Ctl) : Ctl := { c with time := { c.time with tc := BitVec.ofNat 64 t } }

/-- Time passes by `d` tu. -/
def passTime (d : Nat) (c : Ctl) : Ctl :=
  { c with time := { c.time with tc := c.time.tc + BitVec.ofNat 64 d, mono := c.time.mono + d } }

/-- Microseconds, in tu (R50). -/
def usTu (n : Nat) : Nat := n * 2 ^ 32 / 1000000

/-- A command tied to a time the state knows happens then, or now where that time has passed (log entry 6). -/
def advanceTo (t : Nat) (c : Ctl) : Ctl := if now c < t then passTime (t - now c) c else c

/-! ### Counters (R501 to R506) -/

/-- Add to a chain of counters given by its count, chain and overflow fields: a wrap carries on while CHAIN is set. -/
def addCounter (cnt chain ovf : Nat → Fld) : Nat → Nat → Nat → Ctl → Ctl
  | 0, _, _, c => c
  | fuel + 1, n, k, c =>
    let v := rd c (cnt n) + k
    let c := wr (cnt n) v c
    if v < 2 ^ 32 then c
    else if rdb c (chain n) then addCounter cnt chain ovf fuel (n + 1) (v / 2 ^ 32) c
    else raise (ovf n) c

/-- Count module event `n`, `k` times (R509). A chained high word counts only carries (R504). -/
def modCount (n k : Nat) (c : Ctl) : Ctl :=
  if modReserved n ∨ n ≥ 1024 ∨ k = 0 then c
  else if n > 0 ∧ rdb c (Reg.CNT_CFG_CHAIN (n - 1)) then c
  else addCounter Reg.CNT_COUNT Reg.CNT_CFG_CHAIN Reg.CNT_CFG_OVF (1024 - n) n k c

/-- Count tile event `n` of tile `i`, `k` times, and its sum over the tiles (R508, R509). -/
def tileCount (i n k : Nat) (c : Ctl) : Ctl :=
  if k = 0 then c
  else if n > 0 ∧ rdb c (Reg.TL_CNT_CFG_CHAIN i (n - 1)) then c
  else modCount (512 + n) k (addCounter (Reg.TL_CNT_COUNT i) (Reg.TL_CNT_CFG_CHAIN i) (Reg.TL_CNT_CFG_OVF i) (96 - n) n k c)

/-! ### Alerts (R572) -/

/-- Every cause of MGT_ALERT_CAUSE. -/
def alertCauses : List Fld :=
  [Reg.MGT_ALERT_CAUSE_SENSOR_FAULT, Reg.MGT_ALERT_CAUSE_REFCLK_LOST, Reg.MGT_ALERT_CAUSE_XO_LOST,
   Reg.MGT_ALERT_CAUSE_DIE_PINNED, Reg.MGT_ALERT_CAUSE_OTHER_HOT, Reg.MGT_ALERT_CAUSE_COOL_FAULT,
   Reg.MGT_ALERT_CAUSE_COOL_HIGH, Reg.MGT_ALERT_CAUSE_LEAK_MARGINAL, Reg.MGT_ALERT_CAUSE_LEAK_OPEN,
   Reg.MGT_ALERT_CAUSE_TRNG_FAIL, Reg.MGT_ALERT_CAUSE_UNIT_OUT, Reg.MGT_ALERT_CAUSE_NO_UNIT,
   Reg.MGT_ALERT_CAUSE_CAP_LEASE_LAPSED]

/-- Set or clear an alert cause; ALERT_n is driven while any cause holds. -/
def setAlert (f : Fld) (b : Bool) (c : Ctl) : Ctl :=
  let c := wrb f b c
  wrb Reg.MGT_LINES_ALERT_DRIVEN (alertCauses.any (rdb c)) c

/-! ### Tiles and takes -/

/-- A tile; one not listed is idle. -/
def tileAt (c : Ctl) (i : Nat) : Tile := Map.getD Tile.idle c.tiles i

def setTile (i : Nat) (t : Tile) (c : Ctl) : Ctl := { c with tiles := Map.setD Tile.idle c.tiles i t }

def takeAt (c : Ctl) (k : Nat) : Option Take := Map.get? c.ad.takes k

def setTake (k : Nat) (t : Take) (c : Ctl) : Ctl := { c with ad := { c.ad with takes := Map.put c.ad.takes k t } }

def dropTake (k : Nat) (c : Ctl) : Ctl := { c with ad := { c.ad with takes := Map.del c.ad.takes k } }

def reelAt (c : Ctl) (r : Nat) : Reel := Map.getD Reel.reset c.ad.reels r

def setReel (r : Nat) (x : Reel) (c : Ctl) : Ctl := { c with ad := { c.ad with reels := Map.setD Reel.reset c.ad.reels r x } }

def cellAt (c : Ctl) (i : Nat) : CellEntry := Map.getD CellEntry.free c.ad.cells i

def setCell (i : Nat) (e : CellEntry) (c : Ctl) : Ctl := { c with ad := { c.ad with cells := Map.setD CellEntry.free c.ad.cells i e } }

/-- Lift an operation on the control state. -/
def onCtl (f : Ctl → Ctl) (s : State) : State := { s with c := f s.c }

/-! ### Frames of the Ethernet port (R371 to R374, R378) -/

def onEth (f : EthSt → EthSt) (c : Ctl) : Ctl := { c with eth := f c.eth }

def ethUp (c : Ctl) : Bool := decide (rd c Reg.ETH_STATUS_LINK ≥ 2)

/-- How MACsec treats a frame: protected; PTP, which may stay clear; or a key exchange or a departure, which need no association
(R378, R379, R390). -/
inductive Guarding where
  | sealed
  | ptp
  | bare
  deriving DecidableEq, Repr

/-- The port may send such a frame: with MACsec on a protected one needs an association that is not stalled (R378, R380). A key
exchange goes out although the association is stalled (DESIGN CHOICE, log entry 60). -/
def maySend (g : Guarding) (c : Ctl) : Bool :=
  !rdb c Reg.ETH_MACSEC_CTRL_ENABLE || g == .bare || (g == .ptp && rdb c Reg.ETH_MACSEC_CTRL_PTP_CLEAR) ||
    (rdb c Reg.ETH_MACSEC_STATUS_KEY_READY && !rdb c Reg.ETH_MACSEC_STATUS_STALLED)

/-- A message of `k` frames leaves: counted, each with a packet number of its own. -/
def putFrames (k : Nat) (o : Out) (c : Ctl) : Ctl :=
  emit o (modCount 352 k (bump Reg.ETH_TX_FRAMES_COUNT k (onEth (fun e => { e with packetNum := e.packetNum + k }) c)))

/-- A message of `k` frames of a priority: gone while the link is down (R371), dropped and counted while the watchdog has acted,
held while the priority is paused (R373, R374). -/
def sendFrames (prio k : Nat) (g : Guarding) (o : Out) (c : Ctl) : Ctl :=
  if !ethUp c || !maySend g c then c
  else if c.eth.ignoring.any (fun x => x.1 == prio) then bump Reg.ETH_TX_DROP_PFC_COUNT k c
  else if c.eth.paused.any (fun x => x.1 == prio) then onEth (fun e => { e with held := e.held ++ [(prio, k, o)] }) c
  else putFrames k o c

/-- Frames of `n` bytes of payload: 4,096 in each, and one at least (R381). -/
def framesOf (n : Nat) : Nat := Nat.max 1 (ceilDiv n 4096)

/-- Frames that have come in, of `size` bytes at most, and whether the port takes them: not when too long, unprotected while MACsec
is on, or over IPv4 that is not accepted (R372, R376, R378). What comes in under a key is taken as verified. -/
def takeFrames (v4 : Bool) (g : Guarding) (size k : Nat) (c : Ctl) : Bool × Ctl :=
  let c := modCount 354 k (bump Reg.ETH_RX_FRAMES_COUNT k c)
  let bare := rdb c Reg.ETH_MACSEC_CTRL_ENABLE && !rdb c Reg.ETH_MACSEC_STATUS_KEY_READY && g != .bare &&
    !(g == .ptp && rdb c Reg.ETH_MACSEC_CTRL_PTP_CLEAR)
  if size > 9216 then (false, bump Reg.ETH_RX_DROP_SIZE_COUNT k c)
  else if bare then (false, modCount 368 k (bump Reg.ETH_RX_DROP_MACSEC_COUNT k c))
  else if v4 && !rdb c Reg.ETH_CTRL_IPV4_EN then (false, bump Reg.ETH_RX_DROP_ADDR_COUNT k c)
  else (true, c)

/-- A row that a received frame brings: its effect follows where the port takes the frame. -/
def onFrames (v4 : Bool) (g : Guarding) (size k : Nat) (act : State → State) (s : State) : State :=
  let r := takeFrames v4 g size k s.c
  if r.1 then act { s with c := r.2 } else { s with c := r.2 }

/-- The frame of a datagram of `n` bytes of UDP payload: UDP, IP, and 22 bytes of Ethernet (R372). -/
def frameSize (v4 : Bool) (n : Nat) : Nat := n + (if v4 then 50 else 70)

/-- A frame that carries a datagram. -/
def onDatagram (p : Peer) (n : Nat) (act : State → State) (s : State) : State := onFrames p.ipv4 .sealed (frameSize p.ipv4 n) 1 act s

/-- The C-die of a tile. -/
def dieOf (i : Nat) : Nat := i / 24

/-- The group of a tile, 6 × die + group. -/
def groupOf (i : Nat) : Nat := i / 4

end Sys2Proof.Machine
end

