-- ==== Sys2Proof/Machine/CueCore.lean ====
section
/-! DEFINITION. Arming of package cue channels by their owners (R69, R72, R77). -/

namespace Sys2Proof.Machine

/-- Actions of a cue (R78). -/
def actSwitch : Nat := 3
def actActivate : Nat := 4
def actRamp : Nat := 5
def actSample : Nat := 6

def chanTime (c : Ctl) (n : Nat) : Nat := rd64 c (Reg.TC_CUE_TIME_LO n) (Reg.TC_CUE_TIME_HI n)

/-- A channel that is armed, disarmed or rewritten forgets how far it has come. -/
def forgetChannel (n : Nat) (c : Ctl) : Ctl :=
  { c with time := { c.time with nexts := Map.del c.time.nexts n, gridMissed := c.time.gridMissed.filter (fun m => m != n) } }

/-- An owning block arms a channel of its own. -/
def armChannel (n t action arg period : Nat) (c : Ctl) : Ctl :=
  let c := wr64 (Reg.TC_CUE_TIME_LO n) (Reg.TC_CUE_TIME_HI n) t c
  let c := wr (Reg.TC_CUE_CTRL_ACTION n) action (wr (Reg.TC_CUE_CTRL_PERIOD_LOG2 n) period (wr (Reg.TC_CUE_CTRL_PHASE_MODE n) 0 c))
  wr (Reg.TC_CUE_CTRL_ARM n) 1 (wr (Reg.TC_CUE_ARG n) arg (forgetChannel n c))

def disarm (n : Nat) (c : Ctl) : Ctl := wr (Reg.TC_CUE_CTRL_ARM n) 0 (forgetChannel n c)

/-- The lowest of the AD's channels, 0 to 31, that is free, armed to release a collective clapper with its group's slot as the
argument (R361; which channel, and the argument, are the model's choice, log entry 55). -/
def armClap (slot t : Nat) (c : Ctl) : Ctl :=
  match (List.range 32).find? (fun n => !rdb c (Reg.TC_CUE_CTRL_ARM n)) with
  | some n => armChannel n t 2 slot 0 c
  | none => c

/-- A warm reset disarms every package channel (R77). -/
def disarmAll (c : Ctl) : Ctl := forEach (List.range 64) disarm c

/-- The gaffer's ramp cue, periodic by one frame from the next start of its slot (R410). -/
def armRamp (c : Ctl) : Ctl :=
  let t := now c / 2 ^ 22 * 2 ^ 22 + rd c Reg.GAF_CS_ACTIVE_SLOT * 2 ^ 14
  armChannel 32 (if t < now c then t + 2 ^ 22 else t) actRamp 0 22 c

end Sys2Proof.Machine
end

