-- ==== Sys2Proof/Machine/Keccak.lean ====
section
/-! DEFINITION. SHA3-256, SHA3-384, SHAKE256 and the CRC of packets, as the standards the spec names define them (FIPS 202; R305). -/

namespace Sys2Proof.Machine

/-! ### Keccak-f[1600] -/

def rotl (x : BitVec 64) (n : Nat) : BitVec 64 := x.rotateLeft n

/-- Rotation offsets by lane 5y + x. -/
def keccakRot : List Nat :=
  [0, 1, 62, 28, 27, 36, 44, 6, 55, 20, 3, 10, 43, 25, 39, 41, 45, 15, 21, 8, 18, 2, 61, 56, 14]

def keccakRc : List (BitVec 64) :=
  [0x0000000000000001, 0x0000000000008082, 0x800000000000808A, 0x8000000080008000, 0x000000000000808B, 0x0000000080000001,
   0x8000000080008081, 0x8000000000008009, 0x000000000000008A, 0x0000000000000088, 0x0000000080008009, 0x000000008000000A,
   0x000000008000808B, 0x800000000000008B, 0x8000000000008089, 0x8000000000008003, 0x8000000000008002, 0x8000000000000080,
   0x000000000000800A, 0x800000008000000A, 0x8000000080008081, 0x8000000000008080, 0x0000000080000001, 0x8000000080008008]

def laneOf (a : List (BitVec 64)) (k : Nat) : BitVec 64 := a.getD k 0

/-- One round: theta, rho, pi, chi, iota. -/
def keccakRound (a : List (BitVec 64)) (rc : BitVec 64) : List (BitVec 64) :=
  let c := (List.range 5).map (fun x => laneOf a x ^^^ laneOf a (x + 5) ^^^ laneOf a (x + 10) ^^^ laneOf a (x + 15) ^^^ laneOf a (x + 20))
  let d := (List.range 5).map (fun x => laneOf c ((x + 4) % 5) ^^^ rotl (laneOf c ((x + 1) % 5)) 1)
  let t := (List.range 25).map (fun k => laneOf a k ^^^ laneOf d (k % 5))
  -- b[y, 2x + 3y] = rot(t[x, y]): lane 5y' + x' with x' = y, y' = 2x + 3y comes from x = (x' + 3y') mod 5, y = x'
  let b := (List.range 25).map (fun k =>
    let src := 5 * (k % 5) + (k % 5 + 3 * (k / 5)) % 5
    rotl (laneOf t src) (keccakRot.getD src 0))
  let e := (List.range 25).map (fun k =>
    let y := k / 5 * 5
    laneOf b k ^^^ ((~~~ laneOf b (y + (k + 1 - y) % 5)) &&& laneOf b (y + (k + 2 - y) % 5)))
  e.set 0 (laneOf e 0 ^^^ rc)

def keccakF (a : List (BitVec 64)) : List (BitVec 64) := keccakRc.foldl keccakRound a

/-- The bytes of a block as lanes. -/
def lanesOfBytes (bs : List Byte) : List (BitVec 64) := (List.range 25).map (fun k => BitVec.ofNat 64 (leAt bs (8 * k) 8))

/-- Absorb `n` blocks of `rate` bytes. -/
def absorb (rate : Nat) : Nat → List Byte → List (BitVec 64) → List (BitVec 64)
  | 0, _, st => st
  | n + 1, bs, st =>
    let blk := lanesOfBytes (bs.take rate)
    absorb rate n (bs.drop rate) (keccakF ((List.range 25).map (fun k => laneOf st k ^^^ laneOf blk k)))

/-- SHA-3 with a digest of `out` bytes. -/
def sha3 (out : Nat) (msg : List Byte) : List Byte :=
  let rate := 200 - 2 * out
  let n := msg.length / rate + 1
  let padLen := n * rate - msg.length
  let pad : List Byte := if padLen = 1 then [0x86] else [0x06] ++ List.replicate (padLen - 2) 0 ++ [0x80]
  let st := absorb rate n (msg ++ pad) (List.replicate 25 0)
  (st.flatMap (fun w => leBytes 8 w.toNat)).take out

def sha3_256 (msg : List Byte) : List Byte := sha3 32 msg
def sha3_384 (msg : List Byte) : List Byte := sha3 48 msg

/-- SHAKE256: bytes of the extendable output, as many as asked for. -/
def squeeze : Nat → List (BitVec 64) → List Byte
  | 0, _ => []
  | n + 1, st => (st.flatMap (fun w => leBytes 8 w.toNat)).take 136 ++ squeeze n (keccakF st)

def shake256 (out : Nat) (msg : List Byte) : List Byte :=
  let n := msg.length / 136 + 1
  let padLen := n * 136 - msg.length
  let pad : List Byte := if padLen = 1 then [0x9F] else [0x1F] ++ List.replicate (padLen - 2) 0 ++ [0x80]
  (squeeze (out / 136 + 1) (absorb 136 n (msg ++ pad) (List.replicate 25 0))).take out

/-! ### CRC-64 (R305) -/

def crcPoly : BitVec 64 := 0x42F0E1EBA9EA3693

def crcBit (c : BitVec 64) : BitVec 64 := if c.msb then (c <<< 1) ^^^ crcPoly else c <<< 1

def crcByte (c : BitVec 64) (b : Byte) : BitVec 64 :=
  let c := c ^^^ (b.setWidth 64 <<< 56)
  crcBit (crcBit (crcBit (crcBit (crcBit (crcBit (crcBit (crcBit c)))))))

def crc64 (bs : List Byte) : BitVec 64 := bs.foldl crcByte (BitVec.allOnes 64) ^^^ BitVec.allOnes 64

/-! ### CRC-32C (R106) -/

def crc32cBit (v : Nat) : Nat := if v % 2 = 1 then v / 2 ^^^ 0x82F63B78 else v / 2

def crc32cByte (v : Nat) (b : Byte) : Nat :=
  crc32cBit (crc32cBit (crc32cBit (crc32cBit (crc32cBit (crc32cBit (crc32cBit (crc32cBit (v ^^^ b.toNat))))))))

/-- The Castagnoli CRC of R106: reflected, starting from all ones, complemented at the end. -/
def crc32c (bs : List Byte) : Nat := bs.foldl crc32cByte 0xFFFFFFFF ^^^ 0xFFFFFFFF

end Sys2Proof.Machine
end

