-- ==== Sys2Proof/Machine/Special.lean ====
section
/-! DEFINITION. The special functions of the vector unit (R195, R197, R198): their values in fixed point, far closer than any bound of
R198, and the free results held to those bounds (log entry 2). -/

namespace Sys2Proof.Machine

/-! ### Values in fixed point: 256 bits behind the point -/

def fixBits : Nat := 256
def fixOne : Int := 2 ^ 256

def fixMul (a b : Int) : Int := a * b / fixOne
def fixDiv (a b : Int) : Int := a * fixOne / b

/-- ln 2, log2 e, 2π and 2/√π. -/
def fixLn2 : Int := 0xb17217f7d1cf79abc9e3b39803f2f6af40f343267298b62d8a0d175b8baafa2c
def fixLog2e : Int := 0x171547652b82fe1777d0ffda0d23a7d11d6aef551bad2b4b1164a2cd9a3426490
def fixTwoPi : Int := 0x6487ed5110b4611a62633145c06e0e68948127044533e63a0105df531d89cd913
def fixErf : Int := 0x120dd750429b6d11ae3a914fed7fd8688281341d7587cea2e7342b06199cc4162

/-- The sum of `n` terms, each made of the one before it and its number. -/
def fixSeries (next : Int → Int → Int) : Nat → Int → Int → Int
  | 0, _, _ => 0
  | n + 1, k, t => t + fixSeries next n (k + 1) (next k t)

/-- e^r for 0 ≤ r < 1. -/
def fixExp (r : Int) : Int := fixSeries (fun k t => fixMul t r / (k + 1)) 70 0 fixOne

/-- sin r and cos r for 0 ≤ r < 2π. -/
def fixSin (r : Int) : Int := fixSeries (fun k t => -(fixMul (fixMul t r) r) / ((2 * k + 2) * (2 * k + 3))) 60 0 r
def fixCos (r : Int) : Int := fixSeries (fun k t => -(fixMul (fixMul t r) r) / ((2 * k + 1) * (2 * k + 2))) 60 0 fixOne

/-- The sum of the powers of z with odd exponents, each over its exponent: the inverse hyperbolic tangent of z. -/
def fixArtanh (z : Int) : Int :=
  let zz := fixMul z z
  fixMul ((List.range 90).reverse.foldl (fun (a : Int) (k : Nat) => fixMul a zz + fixOne / (2 * (k : Int) + 1)) 0) z

/-- erf x for |x| < 6. -/
def fixErfOf (x : Int) : Int :=
  let xx := fixMul x x
  let go := fun (a : Int × Int) (k : Nat) => (a.1 + a.2 / (2 * (k : Int) + 1), -(fixMul a.2 xx) / ((k : Int) + 1))
  fixMul fixErf ((List.range 260).foldl go (0, x)).1

/-- A finite value in fixed point. -/
def fixOf (v : FVal) : Int := match v with
  | .fin s m e => signed s (m * 2 ^ (e + 256).toNat)
  | _ => 0

/-- 2^y for y in fixed point. -/
def pow2Of (y : Int) : FVal :=
  let k := y / fixOne
  .fin false (fixExp (fixMul (y % fixOne) fixLn2)).toNat (k - 256)

/-- A fixed-point number as a value. -/
def fixVal (y : Int) : FVal := .fin (decide (y < 0)) y.natAbs (-256)

/-- The natural logarithm of a value above zero. -/
def fixLog (v : FVal) : Int := match v with
  | .fin _ m e =>
    let k := Nat.log2 m
    let f : Int := (m : Int) * 2 ^ (256 - k)
    ((k : Int) + e) * fixLn2 + 2 * fixArtanh (fixDiv (f - fixOne) (f + fixOne))
  | _ => 0

/-- e^|x|, with the exponent held to 128. -/
def expHeld (x : Int) : Int :=
  let y := fixMul (min x (128 * fixOne)) fixLog2e
  fixExp (fixMul (y % fixOne) fixLn2) * 2 ^ (y / fixOne).toNat

/-- The value of a special function at a finite argument in its domain. Beyond the exponents of binary32 a power of two stands for what
overflows or vanishes. -/
def sfuValue (fn : Nat) (v : FVal) : FVal :=
  let x := fixOf v
  let held := fun (y : Int) => if 128 * fixOne ≤ y then .fin false 1 128 else if y ≤ -400 * fixOne then .fin false 0 0 else pow2Of y
  match fn with
  | 0 => held (fixMul x fixLog2e)
  | 1 => held x
  | 2 => fixVal (fixLog v)
  | 3 => fixVal (fixMul (fixLog v) fixLog2e)
  | 7 =>
    let t := fixOne - fixDiv (2 * fixOne) (expHeld (2 * x.natAbs) + fixOne)
    fixVal (if x < 0 then -t else t)
  | 8 =>
    let t := fixDiv fixOne (fixOne + expHeld x.natAbs)
    fixVal (if x < 0 then t else fixOne - t)
  | 9 => fixVal (if 6 * fixOne ≤ x.natAbs then (if x < 0 then -fixOne else fixOne) else fixErfOf x)
  | 10 => fixVal (fixSin (x % fixTwoPi))
  | _ => fixVal (fixCos (x % fixTwoPi))

/-! ### The bounds of R198 -/

/-- The bound on the error of a result: 2 ulp, 2^−22 or 2^−21; 2^−60 of it more, for the fixed point. -/
def sfuBound (fn : Nat) (y : FVal) : FVal :=
  let wide : Nat := 2 ^ 60 + 1
  match fn with
  | 7 | 8 | 9 => .fin false wide (-82)
  | 10 | 11 => .fin false wide (-81)
  | _ => match y with
    | .fin _ m e => .fin false wide (fp32.quantum ⟨m, 1, e⟩ - 59)
    | _ => .fin false wide (-82)

/-- A result lies within the bound of a value; an infinity stands for 2^128. -/
def sfuWithin (fn : Nat) (y : FVal) (c : Word) : Bool :=
  let near := fun (v : FVal) => !FVal.lt false (sfuBound fn y) (v.add y.negate).magnitude
  match f32 c with
  | .nan => false
  | .inf s => near (.fin s 1 128)
  | v => near v

/-- The free result where it keeps the bound, and the nearest one where it does not. -/
def sfuHeld (fn : Nat) (a : Word) (y : FVal) : Word :=
  if sfuWithin fn y (Config.sfu fn a) then Config.sfu fn a else toF32 y

/-- The special functions of R197 and R198. Where R198 gives only a bound, the result is a free value within it
(log entry 2); the cases R195 and R198 state are as stated, and an infinite argument gives the limit. -/
def f32Sfu (fn : Nat) (a : Word) : Word :=
  match fn with
  | 4 => f32Rcp a
  | 5 => f32Rsqrt a
  | 6 => f32Sqrt a
  | _ => match f32 a with
    | .nan => 0x7FC00000
    | .inf s =>
      match fn with
      | 0 | 1 => if s then 0 else 0x7F800000
      | 2 | 3 => if s then 0x7FC00000 else 0x7F800000
      | 7 | 9 => sfuHeld fn a (.fin s 1 0)
      | 8 => sfuHeld fn a (if s then .fin false 0 0 else .fin false 1 0)
      | _ => 0x7FC00000
    | .fin s m e =>
      let v : FVal := .fin s m e
      if (fn = 2 ∨ fn = 3) ∧ m = 0 then 0xFF800000
      else if (fn = 2 ∨ fn = 3) ∧ s = true then 0x7FC00000
      else if (fn = 10 ∨ fn = 11) ∧ FVal.lt false (.fin false 1 16) v.magnitude = true then 0x7FC00000
      else sfuHeld fn a (sfuValue fn v)

end Sys2Proof.Machine
end

