-- ==== Sys2Proof/Machine/AdCore.lean ====
section
/-! DEFINITION. What the AD does whatever the command: cells and the tiles they name (R27 to R29), the schedule (R89 to
R92), ending a take in its one outcome (R96 to R103), and settling what follows from an ending. -/

namespace Sys2Proof.Machine

/-! ### Cells (R27, R28) -/

def cellLevel (cell : BitVec 32) : Nat := bits cell.toNat 28 4
def cellDie (cell : BitVec 32) : Nat := bits cell.toNat 8 4
def cellGroup (cell : BitVec 32) : Nat := bits cell.toNat 4 4
def cellTile (cell : BitVec 32) : Nat := bits cell.toNat 0 4
def cellIndex (cell : BitVec 32) : Nat := bits cell.toNat 0 12

/-- A die and group that exist: group 5 does not on a die that runs with five groups (R26). -/
def groupExists (c : Ctl) (d g : Nat) : Bool := d < 8 && g < 6 && !(g == 5 && c.ad.fiveGroups.contains d)

/-- A well-formed identifier of a built-in cell (R27, R28). -/
def plainCell (c : Ctl) (cell : BitVec 32) : Bool :=
  let v := cell.toNat
  match cellLevel cell with
  | 0 => bits v 12 16 == 0 && groupExists c (cellDie cell) (cellGroup cell) && cellTile cell < 4
  | 1 => bits v 12 16 == 0 && groupExists c (cellDie cell) (cellGroup cell) && cellTile cell == 0
  | 2 => bits v 12 16 == 0 && cellDie cell < 8 && cellGroup cell == 0 && cellTile cell == 0
  | 3 => bits v 0 28 == 0
  | _ => false

/-- A composite identifier in form: level 8, reserved bits zero. -/
def compositeForm (cell : BitVec 32) : Bool := cellLevel cell == 8 && bits cell.toNat 12 16 == 0

/-- Well formed and known (R28): a composite's entry is open. -/
def cellKnown (c : Ctl) (cell : BitVec 32) : Bool :=
  plainCell c cell || (compositeForm cell && (cellAt c (cellIndex cell)).state == 1)

/-- The logical tiles of a built-in cell, in index order (R23). -/
def plainTiles (c : Ctl) (cell : BitVec 32) : List Nat :=
  let all := (List.range 192).filter (fun i => groupExists c (i / 24) (i % 24 / 4))
  match cellLevel cell with
  | 0 => [24 * cellDie cell + 4 * cellGroup cell + cellTile cell]
  | 1 => (List.range 4).map (fun k => 24 * cellDie cell + 4 * cellGroup cell + k)
  | 2 => all.filter (fun i => i / 24 == cellDie cell)
  | 3 => all
  | _ => []

/-- The tile cell of a logical tile. -/
def tileCell (i : Nat) : BitVec 32 := BitVec.ofNat 32 (256 * (i / 24) + 16 * (i % 24 / 4) + i % 4)

/-- The members a composite has in use: a free entry's are stored and never used (R30). -/
def membersOf (c : Ctl) (cell : BitVec 32) : List (Nat × BitVec 32) :=
  let e := cellAt c (cellIndex cell)
  if e.state = 0 then [] else e.members

/-- The tiles of this module that a cell reaches through its members; nesting is followed `fuel` deep (R31). -/
def localTiles (c : Ctl) : Nat → BitVec 32 → List Nat
  | 0, cell => plainTiles c cell
  | fuel + 1, cell =>
    if compositeForm cell then
      (membersOf c cell).flatMap (fun m => if m.1 = 0xFFFF then localTiles c fuel m.2 else [])
    else plainTiles c cell

/-- How deep composites can nest here. -/
def depth (c : Ctl) : Nat := c.ad.cells.length + 1

/-- The slice the module is assigned to, 0 for none (R43). -/
def sliceNow (c : Ctl) : Nat := rd c Reg.FAB_SLICE_SLICE

/-- Available (R29, R247): every tile in service, no group suspect, the slice the reel's. -/
def cellAvailable (c : Ctl) (cell : BitVec 32) (slice : Nat) : Bool :=
  let ts := localTiles c (depth c) cell
  slice != 0 && slice == sliceNow c &&
  ts.all (fun i => !c.ad.outTiles.contains i && !c.ad.suspect.contains (groupOf i)) &&
  (!compositeForm cell || (cellAt c (cellIndex cell)).slice == slice)

/-! ### The assured clock (R407) -/

/-- Interpolation between two rows of the table of R407, rounded down. -/
def between (p0 f0 p1 f1 p : Nat) : Nat := f0 + (f1 - f0) * (p - p0) / (p1 - p0)

/-- The assured clock in MHz at a cap in W; the minimum state is a cap below 600 W (R407). -/
def assuredClock (p : Nat) : Nat :=
  if p < 600 then 6
  else if p < 800 then between 600 600 800 820 p
  else if p < 1000 then between 800 820 1000 1020 p
  else if p < 1200 then between 1000 1020 1200 1200 p
  else if p < 1400 then between 1200 1200 1400 1360 p
  else if p < 1600 then between 1400 1360 1600 1500 p
  else 1500

/-- The cap that binds now: E, or Q where it is lower (R401, R403). -/
def capNow (c : Ctl) : Nat := Nat.min (rd c Reg.GAF_LEVEL_E) (rd c Reg.GAF_LEVEL2_Q)

/-- A setting of the reel a take came on. A copy of another module's take has no reel here: it runs with all of them clear
(DESIGN CHOICE, log entry 48). -/
def reelFlag (c : Ctl) (t : Take) (f : Nat → Fld) : Bool := t.origin == 0xFFFF && rdb c (f t.reel)

/-- The take at the top: the composite take of this module that a copy made here belongs to, however deep (R33, R152). -/
def rootFrom (c : Ctl) : Nat → Nat → Nat
  | 0, k => k
  | n + 1, k => match (takeAt c k).bind (fun t => t.parent) with
    | some p => rootFrom c n p.1
    | none => k

def rootOf (c : Ctl) (k : Nat) : Nat := rootFrom c c.ad.takes.length k

/-! ### The schedule (R89 to R92) -/

/-- The reservation of a budget at a clock of F MHz, in slots (R89). -/
def slotsFor (budget f : Nat) : Nat := ceilDiv (ceilDiv (budget * 1024 * 1500) f) (2 ^ 14)

/-- A take that runs on tiles of its own: not a composite, whose copies run in its place (R33). -/
def Take.leaf (t : Take) : Bool := t.members.isEmpty

def noDeadline : Nat := 2 ^ 64 - 1

/-- What the plan knows of a take. -/
structure PlanItem where
  key : Nat
  deadline : Nat
  reel : Nat
  num : Nat
  tiles : List Nat
  slots : Nat
  lead : Nat
  deriving DecidableEq, Repr

/-- The order of the plan: (deadline, reel ID, take number). -/
def PlanItem.before (a b : PlanItem) : Bool :=
  if a.deadline ≠ b.deadline then decide (a.deadline < b.deadline)
  else if a.reel ≠ b.reel then decide (a.reel < b.reel)
  else decide (a.num < b.num)

def insertItem (x : PlanItem) : List PlanItem → List PlanItem
  | [] => [x]
  | y :: l => if x.before y then x :: y :: l else y :: insertItem x l

def sortItems (l : List PlanItem) : List PlanItem := l.foldr insertItem []

/-- Reels of different origins never follow one another: the key of a take's reel (R37). -/
def Take.reelKey (t : Take) : Nat := t.origin * 4096 + t.reel

/-- The lead of a take: four slots where a tile of it must be cleared first, else one (R71, R90, R136). -/
def takeLead (c : Ctl) (tiles : List Nat) : Nat :=
  if tiles.all (fun i => (tileAt c i).lastSlice == sliceNow c) then 2 ^ 14 else 2 ^ 16

def planItem (c : Ctl) (k : Nat) (t : Take) : PlanItem :=
  let ts := plainTiles c t.cell
  { key := k, deadline := t.deadline, reel := t.reelKey, num := t.num, tiles := ts,
    slots := slotsFor t.budget (rd c Reg.AD_FLOOR_CLOCK_F), lead := takeLead c ts }

/-- The takes that wait for their start. -/
def waiting (c : Ctl) : List (Nat × Take) :=
  c.ad.takes.filter (fun e => e.2.leaf && e.2.st == .accepted)

/-- The reserved end of what runs on each tile, for the tiles where something runs. -/
def runningEnds (c : Ctl) : List (Nat × Nat) :=
  c.ad.takes.foldl (fun m e =>
    if e.2.leaf && e.2.st == .started then
      (plainTiles c e.2.cell).foldl (fun m i => Map.put m i (Nat.max e.2.reservedEnd (Map.getD 0 m i))) m
    else m) []

/-- The reserved ends known on the reels: reel, take number, end. -/
abbrev ReelEnds := List (Nat × Nat × Nat)

/-- The reserved ends of the takes that run on each reel. -/
def runningReels (c : Ctl) : ReelEnds :=
  (c.ad.takes.filter (fun e => e.2.leaf && e.2.st == .started)).map (fun e => (e.2.reelKey, e.2.num, e.2.reservedEnd))

/-- When the predecessors of a take on its reel end: those of lower number, not the other members' copies of the same take
(R33, R90). -/
def predecessorEnd (reels : ReelEnds) (x : PlanItem) (now : Nat) : Nat :=
  maxNat (now :: (reels.filter (fun e => e.1 == x.reel && decide (e.2.1 < x.num))).map (fun e => e.2.2))

/-- Move a start past the reservations it would meet (R447, R493). -/
def clearOf (rs : List Reservation) (tiles : List Nat) (len : Nat) : Nat → Nat → Nat
  | 0, start => start
  | fuel + 1, start =>
    match rs.find? (fun r => r.tiles.any (fun i => tiles.contains i) && start < r.until_ && r.from_ < start + len) with
    | none => start
    | some r => clearOf rs tiles len fuel (slotCeil r.until_)

/-- One step of the plan: where an item starts and ends given what is free (R90). -/
def planOne (rs : List Reservation) (now : Nat) (free : List (Nat × Nat)) (reels : ReelEnds) (x : PlanItem) : Nat × Nat :=
  let earliest := slotCeil (now + x.lead)
  let start := maxNat (earliest :: predecessorEnd reels x now :: x.tiles.map (fun i => Map.getD now free i))
  let start := clearOf rs x.tiles (x.slots * 2 ^ 14) rs.length start
  (start, start + x.slots * 2 ^ 14)

/-- An entry of a plan: take key, start, reserved end, whether the deadline is met. -/
abbrev PlanEntry := Nat × Nat × Nat × Bool

/-- The plan over the takes with a deadline in order (R90). With `drop`, a take that misses its deadline gives up its
place (R93). -/
def planGo (rs : List Reservation) (now : Nat) (drop : Bool) :
    List PlanItem → List (Nat × Nat) → ReelEnds → List PlanEntry
  | [], _, _ => []
  | x :: l, free, reels =>
    let (a, b) := planOne rs now free reels x
    let ok := decide (b ≤ x.deadline)
    if drop && !ok then (x.key, a, b, ok) :: planGo rs now drop l free reels
    else
      (x.key, a, b, ok) ::
        planGo rs now drop l (x.tiles.foldl (fun m i => Map.put m i b) free) ((x.reel, x.num, b) :: reels)

/-- The starts of takes without a deadline: each only where its reservation fits before the planned start of every
take with a deadline on its tiles (R91). -/
def planFree (rs : List Reservation) (now : Nat) (first : List (Nat × Nat)) :
    List PlanItem → List (Nat × Nat) → ReelEnds → List PlanEntry
  | [], _, _ => []
  | x :: l, free, reels =>
    let (a, b) := planOne rs now free reels x
    if predecessorEnd reels x now < noDeadline ∧ x.tiles.all (fun i => decide (b ≤ Map.getD b first i)) then
      (x.key, a, b, true) ::
        planFree rs now first l (x.tiles.foldl (fun m i => Map.put m i b) free) ((x.reel, x.num, b) :: reels)
    else
      -- a later take of the reel waits behind it
      planFree rs now first l free ((x.reel, x.num, noDeadline) :: reels)

/-- The plan over a list of waiting takes: with a deadline, and without. -/
def planOf (c : Ctl) (drop : Bool) (items : List PlanItem) : List PlanEntry × List PlanEntry :=
  let rs := c.ad.reservations
  let withD := sortItems (items.filter (fun x => x.deadline != noDeadline))
  let without := sortItems (items.filter (fun x => x.deadline == noDeadline))
  let p := planGo rs (now c) drop withD (runningEnds c) (runningReels c)
  let first := p.foldl (fun m e =>
    match withD.find? (fun x => x.key == e.1) with
    | none => m
    | some x => if drop && !e.2.2.2 then m
        else x.tiles.foldl (fun m i => Map.put m i (Nat.min e.2.1 (Map.getD e.2.1 m i))) m) []
  let ends := p.filterMap (fun e => (withD.find? (fun x => x.key == e.1)).map (fun x => (x.reel, x.num, e.2.2.1)))
  (p, planFree rs (now c) first without (runningEnds c) (runningReels c ++ ends))

/-- The plan over every waiting take of the state. -/
def planNow (c : Ctl) (drop : Bool) : List PlanEntry × List PlanEntry :=
  planOf c drop ((waiting c).map (fun e => planItem c e.1 e.2))

/-- The takes that keep a place in the schedule test: those that wait, and copies prepared and not yet committed (R118;
DEDUCED, log entry 48). -/
def placed (c : Ctl) : List (Nat × Take) :=
  c.ad.takes.filter (fun e => e.2.leaf && (e.2.st == .accepted || e.2.st == .prepared))

/-- The schedule test of R90: every take with a deadline, the new items included, meets it. -/
def planFits (c : Ctl) (new : List PlanItem) : Bool :=
  let p := planOf c false (new ++ (placed c).map (fun e => planItem c e.1 e.2))
  p.1.all (fun e => e.2.2.2)

/-- Take over a plan: a start cue moves; with `earlier`, only to an earlier start (R92). -/
def adopt (earlier : Bool) (p : List PlanEntry) (c : Ctl) : Ctl :=
  forEach p (fun e c =>
    match takeAt c e.1 with
    | none => c
    | some t =>
      if t.st != .accepted then c
      else
        let keep := earlier && (match t.planned with | some s => decide (s ≤ e.2.1) | none => false)
        if keep then c
        else setTake e.1 { t with planned := some e.2.1, reservedEnd := e.2.2.1, slots := (e.2.2.1 - e.2.1) / 2 ^ 14 } c) c

/-- Plan anew and take the plan over. Takes without a deadline that do not fit have no start. -/
def replan (earlier : Bool) (c : Ctl) : Ctl :=
  let p := planNow c false
  let fits := p.2.map (fun e => e.1)
  let c := forEach (waiting c) (fun e c =>
    if e.2.deadline == noDeadline && !fits.contains e.1 then setTake e.1 { e.2 with planned := none } c else c) c
  adopt earlier (p.1 ++ p.2) c

/-! ### Outcomes (R100 to R103) -/

def TakeState.code : TakeState → Nat
  | .prepared => 0 | .accepted => 1 | .started => 2 | .ended => 3

/-- What a journal slot holds beside its CRC, 60 bytes (R106 gives the order of the fields no offsets; log entry 55). -/
def slotBytes (t : Take) : List Byte :=
  leBytes 2 t.reel ++ leBytes 1 t.st.code ++ leBytes 2 t.gen ++ leBytes 2 t.reason ++ leBytes 8 t.num ++ leBytes 4 t.cell.toNat
    ++ leBytes 8 t.deadline ++ leBytes 4 t.budget ++ leBytes 8 t.endTc ++ leBytes 8 t.cycles ++ leBytes 2 t.origin ++ leBytes 8 t.wseq
    ++ List.replicate 3 0

/-- The journal writes a slot (R106): counts, sequence and CRC. A copy made here for a local member stands in the slot of
its composite take and has none of its own. -/
def journalWrite (k : Nat) (c : Ctl) : Ctl :=
  if 65536 ≤ k then c
  else
    let n := rd64 c Reg.CJ_WRITES_LO_COUNT Reg.CJ_WRITES_HI_COUNT + 1
    let c := wr64 Reg.CJ_WRITES_LO_COUNT Reg.CJ_WRITES_HI_COUNT n c
    let c := modCount 52 1 c
    match takeAt c k with
    | none => c
    | some t =>
      let t := { t with wseq := n }
      setTake k { t with crc := crc32c (slotBytes t) } c

/-- The reason codes of R105 that end takes, in the order of its table. -/
def ngCodes : List Nat :=
  [0x0201, 0x0202, 0x0203, 0x0204, 0x0205, 0x0206, 0x0207, 0x0208, 0x0209, 0x020A, 0x020B, 0x0301, 0x0302, 0x0303,
   0x0401, 0x0402, 0x0403, 0x0404, 0x0501, 0x0502, 0x0503, 0x0601, 0x0602, 0x0701, 0x0702, 0x0703, 0x0704, 0x0801, 0x0802]

/-- The module counter of an NG code (R509: 21 to 49). -/
def ngCounter (code : Nat) : Nat := 21 + (findFrom (fun x => x == code) ngCodes 0).getD 29

/-- The outcome record of a take, with its member entries (R100 to R102). -/
def outcomeBytes (t : Take) : List Byte :=
  let bad := t.members.filter (fun m => m.kind == 2)
  let entries := if t.reason = 0 then [] else
    ((List.range t.members.length).zip t.members).filter (fun e => e.2.kind == 2)
  leBytes 2 t.reel ++ [BitVec.ofNat 8 (if t.reason = 0 then 1 else 2), BitVec.ofNat 8 (if t.reason = 0 then 0 else bad.length)]
    ++ leBytes 2 t.outGen ++ leBytes 2 t.reason ++ leBytes 8 t.num ++ leBytes 8 t.startTc ++ leBytes 8 t.endTc
    ++ leBytes 8 t.cycles ++ leBytes 4 t.energy ++ leBytes 4 t.checks ++ leBytes 2 (Nat.min t.mismatches 0xFFFF)
    ++ leBytes 2 t.tile ++ leBytes 4 t.detA ++ leBytes 8 t.detB
    ++ entries.flatMap (fun e => [BitVec.ofNat 8 e.1, BitVec.ofNat 8 e.2.kind] ++ leBytes 2 e.2.reason ++ leBytes 2 e.2.module ++ [0, 0])

/-- The module generation (R109). -/
def moduleGen (c : Ctl) : Nat := rd c Reg.AD_STATUS_GENERATION

/-- The submitter's address of a reel. -/
def reelAddr (c : Ctl) (r : Nat) : Nat :=
  rd c (Reg.AD_REEL_ADDR_3 r) + 2 ^ 32 * (rd c (Reg.AD_REEL_ADDR_2 r) + 2 ^ 32 * (rd c (Reg.AD_REEL_ADDR_1 r) + 2 ^ 32 * rd c (Reg.AD_REEL_ADDR_0 r)))

/-- The queue pair a reel is bound to (R389). -/
def boundQp (c : Ctl) (r : Nat) : Option Nat :=
  (c.eth.qps.find? (fun e => rd c (Reg.ETH_QP_STATE_STATE e.1) == 1 && rdb c (Reg.ETH_QP_CFG_REEL_EN e.1) && rd c (Reg.ETH_QP_CFG_REEL e.1) == r)).map (fun e => e.1)

/-- Send a reel datagram (R122, R389): header, then the items, as UDP or as a SEND on its queue pair. -/
def sendReel (r type items : Nat) (payload : List Byte) (c : Ctl) : Ctl :=
  let x := reelAt c r
  let hdr := leBytes 2 0x5A4E ++ [1, BitVec.ofNat 8 type] ++ leBytes 2 r ++ leBytes 2 items ++ leBytes 4 x.seqOut ++ leBytes 4 (moduleGen c)
  let ipv4 := rdb c (Reg.AD_REEL_CFG_IPV4 r)
  let addr := if ipv4 then rd c (Reg.AD_REEL_ADDR_0 r) else reelAddr c r
  modCount 361 1 (setReel r { x with seqOut := x.seqOut + 1 } (match boundQp c r with
    | some q => sendFrames (rd c Reg.ETH_PRIO_ROCE_PRIO) 1 .sealed (.eth 4 q (rd c (Reg.ETH_QP_REMOTE_QPN_QPN q)) (hdr ++ payload)) c
    | none => sendFrames (rd c Reg.ETH_PRIO_REEL_PRIO) 1 .sealed (.reel addr ipv4 (rd c (Reg.AD_REEL_PORT_PORT r)) (hdr ++ payload)) c))

/-- A reel's submitter is there: open and attached. -/
def reelLive (c : Ctl) (r : Nat) : Bool := rd c (Reg.AD_REEL_STATE_STATE r) != 0 && rdb c (Reg.AD_REEL_STATE_ATTACHED r)

/-- A take put into its place in take-number order. -/
def insertTake (e : Nat × Take) : List (Nat × Take) → List (Nat × Take)
  | [] => [e]
  | x :: l => if e.2.num ≤ x.2.num then e :: x :: l else x :: insertTake e l

/-- The journal's takes of a reel of this module, in take-number order: slots rotate and say nothing of it (R106). -/
def reelTakes (c : Ctl) (r : Nat) : List (Nat × Take) :=
  (c.ad.takes.filter (fun e => e.2.origin == 0xFFFF && e.2.parent.isNone && e.2.reel == r)).foldr insertTake []

/-- An outcome can be told: the take has ended, and is no composite take of a reset lead that waits for its members'
reports (R121). -/
def Take.told (t : Take) : Bool := t.st == .ended && t.holdFrame.isNone

/-- Release the outcomes of a reel that are next in take-number order, and send them (R103). -/
def releaseReel (r : Nat) (c : Ctl) : Ctl :=
  let ts := reelTakes c r
  forEach ts (fun e c =>
    let lowerOpen := ts.any (fun x => decide (x.2.num < e.2.num) && !x.2.told)
    if e.2.told && !e.2.released && !lowerOpen then
      let c := setTake e.1 { e.2 with released := true } c
      if reelLive c r then sendReel r 3 1 (outcomeBytes e.2) c else c
    else c) c

/-- Counts of the reel window: takes without an outcome, outcomes not acknowledged. -/
def countReel (r : Nat) (c : Ctl) : Ctl :=
  let ts := reelTakes c r
  wr (Reg.AD_REEL_OPEN_COUNT r) (ts.filter (fun e => e.2.st == .accepted || e.2.st == .started)).length
    (wr (Reg.AD_REEL_HELD_COUNT r) (ts.filter (fun e => e.2.st == .ended)).length c)

/-- A closing reel with nothing open and nothing unacknowledged becomes free; its record is cleared but for Next take
number (R82). -/
def freeReel (r : Nat) (c : Ctl) : Ctl :=
  if rd c (Reg.AD_REEL_STATE_STATE r) = 3 ∧ (reelTakes c r).isEmpty then
    let z := [Reg.AD_REEL_STATE_STATE r, Reg.AD_REEL_STATE_ATTACHED r, Reg.AD_REEL_CFG_SLICE r, Reg.AD_REEL_CFG_LOCAL_TIME r,
      Reg.AD_REEL_CFG_COUNTERS_READ r, Reg.AD_REEL_CFG_CHECK_NG r, Reg.AD_REEL_CFG_HALT_ON_NG r, Reg.AD_REEL_CFG_IPV4 r,
      Reg.AD_REEL_TARGET_CELL r, Reg.AD_REEL_ADDR_0 r, Reg.AD_REEL_ADDR_1 r, Reg.AD_REEL_ADDR_2 r, Reg.AD_REEL_ADDR_3 r,
      Reg.AD_REEL_PORT_PORT r, Reg.AD_REEL_ACKED_LO_ACKED r, Reg.AD_REEL_ACKED_HI_ACKED r, Reg.AD_REEL_OPEN_COUNT r,
      Reg.AD_REEL_HELD_COUNT r]
    setReel r Reel.reset (forEach z (fun f c => wr f 0 c) c)
  else c

/-- The journal slots that hold outstanding takes (R88): local copies do not count. -/
def outstanding (c : Ctl) : Nat :=
  (c.ad.takes.filter (fun e => decide (e.1 < 65536) && e.2.st != .prepared)).length

def countOutstanding (c : Ctl) : Ctl :=
  wr Reg.AD_OUTSTANDING_COUNT (outstanding c)
    (wr Reg.CJ_IN_USE_SLOTS (c.ad.takes.filter (fun e => decide (e.1 < 65536) && !(e.2.st == .prepared && e.2.origin == 0xFFFF))).length c)

/-! ### Ending a take -/

/-- A tile let go by a take: nothing waits in its queues, its weights, registers and messages are done with; memory,
accumulators and the tables of its slice stay (R99, R135, R234). -/
def freeTile (slice : Nat) (t : Tile) : Tile :=
  { t with take := none, leader := 0, width := 0, pos := 0, s := [], p := [], v := [], d := [], q := [], queues := [],
           clap := none, arrived := false, msgs := [], ended := false, crew := false, cueHeld := [], colWait := [], lastSlice := slice,
           active := Weights.empty, shadow := Weights.empty }

/-- Free every tile of a take, its shared semaphores, its clapper, its pending checks and its trackers (R99, R244,
R274). -/
def freeTiles (k : Nat) (c : Ctl) : Ctl :=
  let sl := sliceNow c
  let mine := (c.tiles.filter (fun e => e.2.take == some k)).map (fun e => e.1)
  let c := { c with
    tiles := c.tiles.map (fun e => if e.2.take = some k then (e.1, freeTile sl e.2) else e),
    share := { c.share with
      shared := c.share.shared.filter (fun e => !mine.contains (e.1 / 256)),
      clappers := Map.del c.share.clappers k,
      checks := c.share.checks.filter (fun x => x.take != k) },
    memory := { c.memory with trackers := c.memory.trackers.filter (fun x => !mine.contains x.tile) } }
  c

/-- Send a message to the AD of another module, once the fabric takes it (R37, R118). -/
def tellModule (kind dst : Nat) (bytes : List Byte) (c : Ctl) : Ctl :=
  { c with ad := { c.ad with ctlDue := c.ad.ctlDue ++ [(kind, dst, bytes)] } }

/-- What a take's end hands to the composite take it is a copy of (R35, R101). -/
def noteMember (parent idx : Nat) (t : Take) (c : Ctl) : Ctl :=
  match takeAt c parent with
  | none => c
  | some p =>
    let ms := ((List.range p.members.length).zip p.members).map (fun e =>
      if e.1 = idx then
        { e.2 with kind := if t.reason = 0 then 1 else 2, reason := t.reason, startTc := t.startTc, endTc := t.endTc,
                   cycles := t.cycles, energy := t.energy, checks := t.checks, mismatches := t.mismatches,
                   tile := t.tile, detA := t.detA, detB := t.detB }
      else e.2)
    setTake parent { p with members := ms } c

/-- The reasons of the contained class (R467). -/
def contained : List Nat :=
  [0x0201, 0x0202, 0x0203, 0x0204, 0x0205, 0x0206, 0x0208, 0x020A, 0x0301, 0x0302, 0x0501, 0x0502, 0x0503]

/-- The energy of a take enters the accounts of its reel and of the slice (R429). -/
def accountTake (t : Take) (c : Ctl) : Ctl :=
  let c := { c with gaf := { c.gaf with eSliceTakes := c.gaf.eSliceTakes + t.energy } }
  if t.origin ≠ 0xFFFF then c
  else
    let e := rd64 c (Reg.GAF_E_REEL_LO_ENERGY t.reel) (Reg.GAF_E_REEL_HI_ENERGY t.reel) + t.energy
    wr64 (Reg.GAF_E_REEL_LO_ENERGY t.reel) (Reg.GAF_E_REEL_HI_ENERGY t.reel) e c

/-- Every member of a composite take has ended. -/
def Take.membersDone (t : Take) : Bool := !t.members.isEmpty && t.members.all (fun m => m.kind != 0)

/-- The fields a composite take's outcome has from its members (R101): the earliest start, the latest end, the largest
count, the sums. Where a member has no outcome yet, the end is that of the take itself. -/
def memberFields (now : Nat) (t : Take) : Take :=
  let ms := t.members
  let starts := (ms.map (fun m => m.startTc)).filter (fun s => s != 0)
  { t with
    startTc := starts.foldl Nat.min (starts.headD 0), cycles := maxNat (ms.map (fun m => m.cycles)),
    endTc := if ms.all (fun m => m.kind != 0) then maxNat (ms.map (fun m => m.endTc)) else now,
    energy := sumNat (ms.map (fun m => m.energy)) % 2 ^ 32, checks := sumNat (ms.map (fun m => m.checks)) % 2 ^ 32,
    mismatches := Nat.min 0xFFFF (sumNat (ms.map (fun m => m.mismatches))) }

/-- The step group, reason, reel, number and kind of a cut that an NG calls for (R36, R481); none after a cut. -/
def dueCut (t : Take) (reason : Nat) (c : Ctl) : Ctl :=
  match t.stepGroup with
  | some g => if reason = 0x0402 then c else { c with ad := { c.ad with cutsDue := c.ad.cutsDue ++ [(g, reason, t.reel, t.num, 1)] } }
  | none => c

/-- Record the one outcome of a take: `reason` 0 is a wrap. What no command says of it, its cycles and its energy, are free
values (log entry 1). The journal is written before anything is sent (R107). A
recorded reason is never replaced (R98). -/
def endOne (k reason tile detA detB : Nat) (c : Ctl) : Ctl :=
  match takeAt c k with
  | none => c
  | some t =>
    if t.st == .ended then c
    else
      let started := t.st == .started && t.leaf
      let (w, c) := if started then fresh c else (0, c)
      let (w2, c) := if started && t.cycles == 0 then fresh c else (BitVec.ofNat 64 t.cycles, c)
      let t' := { t with st := .ended, reason := reason, tile := tile, detA := detA, detB := detB, endTc := now c,
                         outGen := moduleGen c, energy := w.toNat % 2 ^ 32, cycles := w2.toNat }
      let t' := if t.leaf then t' else memberFields (now c) t'
      let c := journalWrite k (setTake k t' c)
      let c := when started (accountTake t') c
      let tiles := if started then plainTiles c t.cell else []
      let c := forEach tiles (fun i c => tileCount i (if reason = 0 then 63 else 64) 1 c) c
      let c := when (started && reason != 0) (fun c => forEach ((tiles.map groupOf).eraseDups) (fun g c => modCount (640 + 8 * g + 5) 1 c) c) c
      let c := freeTiles k c
      let c := { c with ad := { c.ad with replanDue := true } }
      let top := t.parent.isNone && t.origin == 0xFFFF
      let c := when (reason != 0) (fun c =>
        when (t.leaf || !t.membersDone) (dueCut t reason) (when top (fun c => modCount (ngCounter reason) 1 (modCount 3 1 (bump Reg.AD_NGS_COUNT 1 c))) c)) c
      let c := when (contained.contains reason) (bump Reg.FLT_COUNT_CONT_COUNT 1) c
      let c := when (started && reason == 0 && rdb c Reg.UPD_STATUS_TRIAL) (wr Reg.UPD_HEALTH_TAKE_WRAPPED 1) c
      let c := when top (fun c =>
        let r := reelAt c t.reel
        let halt := if reason ≠ 0 ∧ reason ≠ 0x020B ∧ rdb c (Reg.AD_REEL_CFG_HALT_ON_NG t.reel) then some (Nat.min t.num (r.haltNg.getD t.num)) else r.haltNg
        setReel t.reel { r with highest := Nat.max r.highest t.num, haltNg := halt } c) c
      match t.parent with
      | some (p, idx) => noteMember p idx t' c
      | none =>
        if t.origin ≠ 0xFFFF ∧ t'.holdFrame = none then tellModule 6 t.lead (outcomeBytes t') c else c

/-- The same for a take and the copies made from it here, the copies first. -/
def endDeep : Nat → Nat → Nat → Nat → Nat → Nat → Ctl → Ctl
  | 0, k, reason, tile, detA, detB, c => endOne k reason tile detA detB c
  | fuel + 1, k, reason, tile, detA, detB, c =>
    match takeAt c k with
    | none => c
    | some t =>
      if t.st == .ended then c
      else endOne k reason tile detA detB (forEach (t.members.filterMap (fun m => m.copy)) (fun j c => endDeep fuel j reason tile detA detB c) c)

/-- End a take: a composite take ends with every copy of it here that has no outcome yet. -/
def endTake (k reason tile detA detB : Nat) (c : Ctl) : Ctl := endDeep (depth c) k reason tile detA detB c

/-- End every take that passes, with one reason (R98 orders them by the caller). -/
def endTakes (p : Nat → Take → Bool) (reason : Nat) (det : Take → Nat × Nat) (c : Ctl) : Ctl :=
  forEach c.ad.takes (fun e c => if e.2.st != .ended && p e.1 e.2 then endTake e.1 reason 0xFFFF (det e.2).1 (det e.2).2 c else c) c


/-- The reason of a composite NG: that of the member that failed first, ties to the lowest index (R101). -/
def firstFailure (ms : List Member) : Option Member :=
  ms.foldl (fun best m =>
    if m.kind ≠ 2 then best
    else match best with
      | none => some m
      | some b => if m.endTc < b.endTc then some m else some b) none

/-- End a composite take whose members have all ended, with the fields of R101. -/
def closeComposite (k : Nat) (c : Ctl) : Ctl :=
  match takeAt c k with
  | none => c
  | some t =>
    if t.st == .ended || t.st == .prepared || !t.membersDone then c
    else
      match firstFailure t.members with
      | none => endTake k 0 0xFFFF 0 0 c
      | some m => endTake k m.reason m.tile m.detA m.detB c

/-- End the accepted takes behind an NG on a reel with HALT_ON_NG in 0x020B (R81). -/
def haltReels (c : Ctl) : Ctl :=
  forEach c.ad.takes (fun e c =>
    if e.2.st == .accepted && e.2.parent.isNone && e.2.origin == 0xFFFF then
      match (reelAt c e.2.reel).haltNg with
      | some n => if n < e.2.num then endTake e.1 0x020B 0xFFFF 0 n c else c
      | none => c
    else c) c

/-- A member on another module has not reported to a take, or to a copy of it here. -/
def membersAwaited (c : Ctl) (k : Nat) : Bool :=
  c.ad.takes.any (fun e => rootOf c e.1 == k && e.2.members.any (fun m => m.copy.isNone && m.kind == 0))

/-- The NG of a composite take whose lead was reset goes out once every member has reported, or after 16 frames; a member
that has not reported is lost, 0x0403 (R121). -/
def endHolds (c : Ctl) : Ctl :=
  let f := frameNow c
  let t0 := now c
  forEach c.ad.takes (fun e c =>
    match e.2.holdFrame with
    | none => c
    | some h =>
      if membersAwaited c e.1 && decide (f < h) then c
      else
        let t := memberFields t0 { e.2 with holdFrame := none, members := e.2.members.map (fun m =>
          if m.kind = 0 then { m with kind := 2, reason := 0x0403, endTc := t0, detB := m.module } else m) }
        let c := setTake e.1 t c
        if t.origin ≠ 0xFFFF ∧ t.parent = none then tellModule 6 t.lead (outcomeBytes t) c else c) c

/-- What follows from endings, to its end: composites close, halted reels end, the plan is made anew, outcomes are
released in order, closing reels become free. -/
def settleLoop : Nat → Ctl → Ctl
  | 0, c => c
  | fuel + 1, c => settleLoop fuel (haltReels (forEach c.ad.takes (fun e c => if e.2.members.isEmpty then c else closeComposite e.1 c) c))

def settle (c : Ctl) : Ctl :=
  if !c.ad.replanDue then c
  else
    let c := settleLoop ((c.ad.takes.filter (fun e => !e.2.members.isEmpty)).length + 2) c
    let c := { c with ad := { c.ad with replanDue := false } }
    let c := replan true (endHolds c)
    let reels := (c.ad.takes.map (fun e => e.2.reel)).eraseDups
    countOutstanding (forEach reels (fun r c => freeReel r (countReel r (releaseReel r c))) c)

end Sys2Proof.Machine
end

