-- ==== Sys2Proof/Machine/Aes.lean ====
section
/-! DEFINITION. AES-256, and AES-256-XTS, by which the M-dies encrypt a line (R288). -/

namespace Sys2Proof.Machine

/-! ### The field GF(2^8) and the S-box -/

def aesDouble (a : Nat) : Nat := if a < 128 then 2 * a else (2 * a - 256) ^^^ 0x1B

/-- A product, from the bits of the second factor. -/
def aesMul (a b : Nat) : Nat :=
  ((List.range 8).foldl (fun (x : Nat × Nat) k => (if b.testBit k then x.1 ^^^ x.2 else x.1, aesDouble x.2)) (0, a)).1

/-- The inverse, a to the power 254; 0 for 0. -/
def aesInv (a : Nat) : Nat :=
  ((List.range 7).foldl (fun (x : Nat × Nat) _ => let q := aesMul x.2 x.2; (aesMul x.1 q, q)) (1, a)).1

def aesTurn (a n : Nat) : Nat := (a * 2 ^ n) % 256 + a / 2 ^ (8 - n)

def aesSub (a : Nat) : Nat :=
  let b := aesInv a
  b ^^^ aesTurn b 1 ^^^ aesTurn b 2 ^^^ aesTurn b 3 ^^^ aesTurn b 4 ^^^ 0x63

def aesUnsub (a : Nat) : Nat := aesInv (aesTurn a 1 ^^^ aesTurn a 3 ^^^ aesTurn a 6 ^^^ 0x05)

def xorList (a b : List Nat) : List Nat := List.zipWith (fun x y => x ^^^ y) a b

/-! ### The cipher -/

/-- The next word of the key schedule: its index, the word before, the word eight before. -/
def aesWord (i : Nat) (prev old : List Nat) : List Nat :=
  let t :=
    if i % 8 = 0 then
      let r := (prev.drop 1 ++ prev.take 1).map aesSub
      xorList r [(List.range (i / 8 - 1)).foldl (fun a _ => aesDouble a) 1, 0, 0, 0]
    else if i % 8 = 4 then prev.map aesSub
    else prev
  xorList old t

/-- The 60 words of the schedule, from the 32 bytes of the key. -/
def aesWords (key : List Nat) : List (List Nat) :=
  (List.range 52).foldl (fun ws k => ws ++ [aesWord (k + 8) (ws.getD (k + 7) []) (ws.getD k [])])
    ((List.range 8).map (fun k => (key.drop (4 * k)).take 4))

/-- The 15 round keys. -/
def aesKeys (key : List Nat) : List (List Nat) :=
  let ws := aesWords key
  (List.range 15).map (fun r => ((ws.drop (4 * r)).take 4).flatten)

/-- Rows of a block turned by `k` times their number. -/
def aesRows (k : Nat) (b : List Nat) : List Nat := (List.range 16).map (fun i => b.getD ((i + 4 * k * (i % 4)) % 16) 0)

/-- Columns of a block times the circulant of four coefficients. -/
def aesColumns (m : List Nat) (b : List Nat) : List Nat :=
  (List.range 16).map (fun i => (List.range 4).foldl (fun a j => a ^^^ aesMul (b.getD (i / 4 * 4 + j) 0) (m.getD ((j + 4 - i % 4) % 4) 0)) 0)

def aesEncrypt (keys : List (List Nat)) (b : List Nat) : List Nat :=
  let b := (List.range 13).foldl (fun b r => xorList (aesColumns [2, 3, 1, 1] (aesRows 1 (b.map aesSub))) (keys.getD (r + 1) [])) (xorList b (keys.getD 0 []))
  xorList (aesRows 1 (b.map aesSub)) (keys.getD 14 [])

def aesDecrypt (keys : List (List Nat)) (b : List Nat) : List Nat :=
  let b := (List.range 13).foldl (fun b r => aesColumns [14, 11, 13, 9] (xorList ((aesRows 3 b).map aesUnsub) (keys.getD (13 - r) [])))
    (xorList b (keys.getD 14 []))
  xorList ((aesRows 3 b).map aesUnsub) (keys.getD 0 [])

/-! ### XTS -/

/-- A 128-bit number as 16 bytes, lowest first, and back. -/
def block128 (n : Nat) : List Nat := (List.range 16).map (fun k => n / 256 ^ k % 256)
def number128 (l : List Nat) : Nat := l.foldr (fun b a => b + 256 * a) 0

/-- The tweak of the next block. -/
def xtsNext (t : Nat) : Nat := if t < 2 ^ 127 then 2 * t else (2 * t - 2 ^ 128) ^^^ 0x87

/-- A data unit through XTS with a key of 64 bytes, the data key first; `f` is the cipher of the data key. -/
def xts (f : List (List Nat) → List Nat → List Nat) (key : List Nat) (tweak : Nat) (data : List Nat) : List Nat :=
  let k1 := aesKeys (key.take 32)
  let t0 := number128 (aesEncrypt (aesKeys (key.drop 32)) (block128 tweak))
  ((List.range (data.length / 16)).foldl (fun (a : List Nat × Nat) j =>
    let t := block128 a.2
    (a.1 ++ xorList (f k1 (xorList ((data.drop (16 * j)).take 16) t)) t, xtsNext a.2)) ([], t0)).1

end Sys2Proof.Machine
end

