-- ==== Sys2Proof/Machine/Memory.lean ====
section
/-! DEFINITION. Memory: the device address map (R251), bytes, poison (R254, R258, R284, R286), reach (R138, R252), the
bonded SRAM cache (R260 to R266), prefetch (R271 to R274) and the accesses of tiles and of bypass agents. -/

namespace Sys2Proof.Machine

/-! ### Bytes -/

def lpddrBase : Nat := 0x010000000000
def sramBase : Nat := 0x001000000000
def controlBase : Nat := 0x0F0000000000

/-- The byte at an address. -/
def getByte (m : Memory) (a : Nat) : Byte := Map.getD 0 m.bytes a

/-- Store one byte; a zero is never listed. -/
def putByte (a : Nat) (b : Byte) (m : Memory) : Memory := { m with bytes := Map.setD 0 m.bytes a b }

/-- `n` bytes from an address. -/
def getBytes (m : Memory) (a n : Nat) : List Byte := (List.range n).map (fun k => getByte m (a + k))

/-- Store bytes from an address upward. -/
def putBytes : Nat → List Byte → Memory → Memory
  | _, [], m => m
  | a, b :: bs, m => putBytes (a + 1) bs (putByte a b m)

/-- Store a run of bytes at once. -/
def putRange (a : Nat) (bs : List Byte) (m : Memory) : Memory :=
  let new := ((List.range bs.length).zip bs).filterMap (fun e => if e.2 = 0 then none else some (a + e.1, e.2))
  { m with bytes := m.bytes.filter (fun e => decide (e.1 < a)) ++ new ++ m.bytes.filter (fun e => decide (a + bs.length ≤ e.1)) }

/-- Zero every byte of a range, and its poison. -/
def zeroRange (a n : Nat) (m : Memory) : Memory :=
  { m with bytes := m.bytes.filter (fun e => e.1 < a || a + n ≤ e.1),
           poison := m.poison.filter (fun e => e.1 < a || a + n ≤ e.1),
           encrypted := m.encrypted.filter (fun e => e.1 < a || a + n ≤ e.1),
           flaws := m.flaws.filter (fun e => e.1 < a || a + n ≤ e.1) }

def setMem (f : Memory → Memory) (s : State) : State := { s with mem := f s.mem }

/-! ### The map (R251) -/

/-- The regions of device address space. -/
inductive Region where
  | spad (tile : Nat)
  | sram (unit : Nat)
  | lpddr
  | control
  | unmapped
  deriving DecidableEq, Repr

def lpddrBytes (c : Ctl) : Nat := rd c Reg.MEM_SIZE_GIB * 2 ^ 30

def regionOf (c : Ctl) (a : Nat) : Region :=
  if a < 0x18000000 then .spad (a / 0x200000)
  else if sramBase ≤ a ∧ a < 0x001400000000 then .sram ((a - sramBase) / 0x4000000)
  else if lpddrBase ≤ a ∧ a < lpddrBase + lpddrBytes c ∧ a < controlBase then .lpddr
  else if controlBase ≤ a ∧ a < 0x0F0100000000 then .control
  else .unmapped

/-- The block over which a poison mark stands: a 16-byte word of SRAM, a 256-byte line of LPDDR5X (R254, R284). -/
def poisonBase (a : Nat) : Nat := if lpddrBase ≤ a then a / 256 * 256 else a / 16 * 16

def isPoisoned (m : Memory) (a : Nat) : Bool := (Map.get? m.poison (poisonBase a)).isSome

def setPoison (a : Nat) (m : Memory) : Memory := { m with poison := Map.put m.poison (poisonBase a) 1 }

def clearPoison (a : Nat) (m : Memory) : Memory := { m with poison := Map.del m.poison (poisonBase a) }

/-- Channels in service and the device of an LPDDR5X address (R277). -/
def channelsOf (c : Ctl) : List Nat :=
  (List.range 96).filter (fun ch => bit (rd c Reg.MEM_STATUS_DEV_IN_SERVICE) (ch / 8) || c.memory.lostDevices.contains (ch / 8))

def channelOf (c : Ctl) (a : Nat) : Nat :=
  let chs := channelsOf c
  chs.getD ((a - lpddrBase) / 2048 % Nat.max 1 chs.length) 0

def deviceOf (c : Ctl) (a : Nat) : Nat := channelOf c a / 8

/-- The place of an address in its channel (R277): the offset in the data of the channel. -/
def channelOffset (c : Ctl) (a : Nat) : Nat :=
  (a - lpddrBase) / 2048 / Nat.max 1 (channelsOf c).length * 2048 + (a - lpddrBase) % 2048

/-- Where the inline ECC puts a byte of a channel's data (R283): 15 data lines in each group of 16 slots. -/
def storedOffset (o : Nat) : Nat := 4096 * (o / 3840) + o % 3840

/-- Where the protection of a byte's line stands in its channel: 16 bytes of the group's last slot (R283). -/
def eccOffset (o : Nat) : Nat := 4096 * (o / 3840) + 3840 + 16 * (o % 3840 / 256)

def deviceLost (c : Ctl) (a : Nat) : Bool := !c.memory.lostDevices.isEmpty && c.memory.lostDevices.contains (deviceOf c a)

/-- Bytes that an M-die reads or writes, in units of 64 bytes (R509). -/
def countMdie (write : Bool) (a n : Nat) (c : Ctl) : Ctl := modCount (288 + 16 * (deviceOf c a / 3) + (if write then 2 else 0)) (ceilDiv n 64) c

/-! ### Errors that a read meets (R254, R258, R283 to R285) -/

/-- An error corrected in place is counted by its class (R467). -/
def noteCorrected (c : Ctl) : Ctl := bump Reg.FLT_COUNT_CORR_COUNT 1 c

/-- The read of a line whose link has an error: one bit is corrected and counted; more, and the line is read again (R285). -/
def meetLink (b : Nat) (s : State) : State :=
  match Map.get? s.c.memory.linkErrs b with
  | none => s
  | some n =>
    onCtl (fun c =>
      let c := { c with memory := { c.memory with linkErrs := Map.del c.memory.linkErrs b } }
      when (n == 1) (fun c => modCount (288 + 16 * (deviceOf c b / 3) + 6) 1 (bump Reg.MEM_LINK_ECC_COUNT 1 (noteCorrected c))) c) s

/-- The read of a line that the ECC judges (R284): up to two wrong symbols of a codeword are corrected, more poison it. -/
def meetLine (b n : Nat) (s : State) : State :=
  let j := deviceOf s.c b / 3
  if n ≤ 2 then onCtl (fun c => modCount (288 + 16 * j + 4) 1 (bump Reg.MEM_ECC_CORR_COUNT 1 (noteCorrected c))) s
  else
    setMem (setPoison b) (onCtl (fun c =>
      let c := modCount (288 + 16 * j + 5) 1 (bump Reg.MEM_ECC_UNCORR_COUNT 1 c)
      raise Reg.MEM_EVENTS_UNCORR (wr64 Reg.MEM_POISON_LO_ADDR Reg.MEM_POISON_HI_ADDR b c)) s)

/-- The read of a word of SRAM: one wrong bit is corrected, two poison the word (R254, R258). -/
def meetWord (b n : Nat) (s : State) : State :=
  if n ≤ 1 then onCtl (fun c => when (decide (b < 0x18000000)) (tileCount (b / 0x200000) 60 1) (bump Reg.MEM_SRAM_CORR_COUNT 1 (noteCorrected c))) s
  else setMem (setPoison b) (onCtl (bump Reg.MEM_SRAM_UNCORR_COUNT 1) s)

/-- A read meets the errors that stand in a block: they are corrected or leave it poisoned. -/
def meetFlaw (b : Nat) (s : State) : State :=
  let s := meetLink b s
  match Map.get? s.mem.flaws b with
  | none => s
  | some n =>
    let s := setMem (fun m => { m with flaws := Map.del m.flaws b }) s
    if lpddrBase ≤ b then meetLine b n s else meetWord b n s

/-- Whether any error stands that a read could meet. -/
def flawless (s : State) : Bool := s.mem.flaws.isEmpty && s.c.memory.linkErrs.isEmpty

/-- A read of a range meets what stands in its blocks. -/
def meetFlaws (a n : Nat) (s : State) : State :=
  if flawless s then s else (((List.range n).map (fun k => poisonBase (a + k))).eraseDups).foldl (fun s b => meetFlaw b s) s

/-- A write of whole blocks leaves none of the errors that stood in them. -/
def overwrite (a n : Nat) (m : Memory) : Memory :=
  if m.flaws.isEmpty then m
  else { m with flaws := m.flaws.filter (fun e => !(decide (a ≤ e.1) && decide (e.1 + (if lpddrBase ≤ e.1 then 256 else 16) ≤ a + n))) }

/-! ### Encryption (R288) -/

/-- The number of the slice key; with none loaded, a key of zeros, which no access meets (R289). -/
def keyNow (c : Ctl) : Nat := match c.memory.sliceKey with
  | some k => leNat k + 1
  | none => 1

def keyBytes (k : Nat) : List Nat := (leBytes 64 (k - 1)).map (fun b => b.toNat)

/-- The key under which the line of an address is stored: 0 for none. -/
def cellKey (m : Memory) (a : Nat) : Nat := Map.getD 0 m.encrypted (poisonBase a)

/-- A line as the M-dies return it: decrypted with the slice key where its ENCRYPTED bit is set. What AES-256-XTS gives under the key that
it was written with is the plaintext, which is what Memory holds. -/
def plainLine (c : Ctl) (m : Memory) (l : Nat) : List Byte :=
  let a := lpddrBase + 256 * l
  let k := cellKey m a
  if k = 0 ∨ k = keyNow c then getBytes m a 256
  else (xts aesDecrypt (keyBytes (keyNow c)) l (xts aesEncrypt (keyBytes k) l ((getBytes m a 256).map (fun b => b.toNat)))).map (fun n => BitVec.ofNat 8 n)

/-- A byte outside the cache, as an access returns it. -/
def plainByte (c : Ctl) (m : Memory) (a : Nat) : Byte :=
  let k := if lpddrBase ≤ a then cellKey m a else 0
  if k = 0 ∨ k = keyNow c then getByte m a else (plainLine c m ((a - lpddrBase) / 256)).getD ((a - lpddrBase) % 256) 0

/-- The mark of a line just written. -/
def markLine (c : Ctl) (a : Nat) (m : Memory) : Memory :=
  { m with encrypted := if rdb c Reg.MEM_ENC_CTRL_ACTIVE then Map.put m.encrypted (poisonBase a) (keyNow c) else Map.del m.encrypted (poisonBase a) }

/-- Bytes of one line stored to LPDDR5X: a part is merged with what the line reads as; a whole line loses its poison (R286, R288). -/
def storeLine (c : Ctl) (a : Nat) (bs : List Byte) (m : Memory) : Memory :=
  let k := cellKey m a
  let m := if k = 0 ∨ k = keyNow c ∨ 256 ≤ bs.length then m else putBytes (poisonBase a) (plainLine c m ((a - lpddrBase) / 256)) m
  let m := putBytes a bs m
  markLine c a (if 256 ≤ bs.length then clearPoison a (overwrite a 256 m) else m)

/-! ### Reach (R138, R252, R253) -/

/-- An address that no access reaches as memory: unmapped, control space, a unit in cache mode (R252, R257). -/
def hole (c : Ctl) (a : Nat) : Bool :=
  match regionOf c a with
  | .unmapped => true
  | .control => true
  | .sram u => bit c.memory.cfg.unitMode u
  | _ => false

def inAllotment (c : Ctl) (a : Nat) : Bool :=
  match regionOf c a with
  | .lpddr => lpddrBase + c.memory.cfg.base * 2 ^ 30 ≤ a && a < lpddrBase + c.memory.cfg.limit * 2 ^ 30
  | .sram u => bit c.memory.cfg.allotSram u && !bit c.memory.cfg.unitMode u
  | _ => false

/-- A byte of a loaded image, which cast may not write (R138, R166). -/
def inImage (c : Ctl) (a : Nat) : Bool :=
  c.share.images.any (fun e => e.2.loaded && e.2.textBase - 128 ≤ a && a < e.2.textBase + e.2.textLen)

/-- Whether a cast access of a take may touch a byte (R138). -/
def castReaches (c : Ctl) (t : Take) (write : Bool) (a : Nat) : Bool :=
  let place := match regionOf c a with
    | .spad i => (plainTiles c t.cell).contains i
    | _ => !hole c a && (inAllotment c a || (t.argBase ≤ a && a < t.argBase + 64 * t.argLen))
  place && !(write && inImage c a)

/-- The fault of a cast access to a range, if any: 0x0205 for control space, 0x0206 elsewhere (R137, R138, R252). -/
def reachFault (c : Ctl) (t : Take) (write : Bool) (a n : Nat) : Option (Nat × Nat) :=
  match (List.range n).find? (fun k => !castReaches c t write (a + k)) with
  | none => none
  | some k => some (if regionOf c (a + k) = .control then 0x0205 else 0x0206, a + k)

/-- The fault of an access of a tile by what its take reaches; crew has no such fault (R137, R138). -/
def castFault (c : Ctl) (tile : Nat) (write : Bool) (a n : Nat) : Option (Nat × Nat) :=
  match (tileAt c tile).take with
  | none => none
  | some k => match takeAt c k with
    | none => none
    | some t => reachFault c t write a n

/-! ### The cache (R260 to R263) -/

/-- The line number of an LPDDR5X address (L of R262). -/
def lineOf (a : Nat) : Nat := (a - lpddrBase) / 256

def lineAddr (l : Nat) : Nat := lpddrBase + 256 * l

/-- The cache-mode units that serve the tiles of a C-die (R262). -/
def servingUnits (c : Ctl) (die : Nat) : List Nat :=
  let us := (List.range 256).filter (fun u => bit c.memory.cfg.unitMode u && !c.memory.lostDies.contains (u / 32))
  if c.memory.cfg.placement = 1 then us.filter (fun u => u / 32 == die) else us

/-- The copy a C-die sees: its own in local placement, the module's in shared (R262). -/
def copyOf (c : Ctl) (die : Nat) : Nat := if c.memory.cfg.placement = 1 then die else 8

def inCachedRange (c : Ctl) (a : Nat) : Bool :=
  lpddrBase + c.memory.cfg.cacheBase * 2 ^ 30 ≤ a && a < lpddrBase + c.memory.cfg.cacheLimit * 2 ^ 30

/-- An LPDDR5X access of a tile goes through the cache (R261, R263). -/
def cached (c : Ctl) (die a : Nat) : Bool := inCachedRange c a && !(servingUnits c die).isEmpty

/-- Home unit number and set of a line (R262). -/
def homeOf (n l : Nat) : Nat × Nat := (l % n, l / n % 16384)

def findLine (c : Ctl) (copy l : Nat) : Option CacheLine := c.memory.cache.find? (fun x => x.die == copy && x.line == l)

def setCache (l : List CacheLine) (s : State) : State := { s with c := { s.c with memory := { s.c.memory with cache := l } } }

/-- A write to LPDDR5X of bytes in one line; a lost device drops it (R279). -/
def lpddrWrite (a : Nat) (bs : List Byte) (s : State) : State :=
  if deviceLost s.c a then onCtl (bump Reg.MEM_ECC_UNCORR_COUNT 1) s
  else
    let s := if bs.length < 256 then meetFlaws (poisonBase a) 1 s else s
    setMem (storeLine s.c a bs) (onCtl (countMdie true a bs.length) s)

/-- A read of LPDDR5X within one line, before its bytes are taken: the errors it meets; a read of a lost device is counted (R279). -/
def lpddrRead (a n : Nat) (s : State) : State :=
  if deviceLost s.c a then onCtl (bump Reg.MEM_ECC_UNCORR_COUNT 1) s else meetFlaws (poisonBase a) 1 (onCtl (countMdie false a n) s)

/-- Write a dirty line back (R260); a poisoned one is written as poisoned (R258). -/
def writeBack (x : CacheLine) (s : State) : State :=
  if !x.dirty then s
  else
    let s := lpddrWrite (lineAddr x.line) x.data s
    if x.poisoned && !deviceLost s.c (lineAddr x.line) then setMem (setPoison (lineAddr x.line)) s else s

/-- A line as LPDDR5X gives it: 256 bytes and whether it is poisoned; a lost device gives poison (R279). -/
def fetchLine (l : Nat) (s : State) : (List Byte × Bool) × State :=
  let a := lineAddr l
  let s := lpddrRead a 256 s
  ((plainLine s.c s.mem l, isPoisoned s.mem a || deviceLost s.c a), s)

/-- Put a line into the cache, making room in its set: an invalid way, then a prefetched line not yet read, then the
way the pseudo-LRU names, which is a free value (R260, log entry 44). -/
def allocLine (die : Nat) (x : CacheLine) (s : State) : State :=
  let n := (servingUnits s.c die).length
  let home := homeOf n x.line
  let set := s.c.memory.cache.filter (fun y => y.die == x.die && homeOf n y.line == home)
  if set.length < 16 then setCache (x :: s.c.memory.cache) s
  else
    let (w, c) := fresh s.c
    let s := { s with c := c }
    let victim := match set.find? (fun y => y.prefetched) with
      | some y => some y
      | none => set[w.toNat % 16]?
    match victim with
    | none => s
    | some v =>
      let s := writeBack v s
      let s := onCtl (when v.prefetched (bump (Reg.DLY_PF_UNUSED_COUNT (deviceOf s.c (lineAddr v.line) / 3)) 1)) s
      setCache (x :: s.c.memory.cache.filter (fun y => !(y.die == v.die && y.line == v.line))) s

/-- Replace a cached line. -/
def updateLine (x : CacheLine) (s : State) : State :=
  setCache (s.c.memory.cache.map (fun y => if y.die = x.die ∧ y.line = x.line then x else y)) s

/-! ### Prefetch (R271 to R274) -/

/-- The parity of a C-die's index (R17). -/
def dieParity (k : Nat) : Nat := (bits k 0 1 + bits k 1 1 + bits k 2 1) % 2

/-- The M-die whose trackers and DMA engines serve a tile (R271, R275). -/
def mdieOfTile (i : Nat) : Nat := dieParity (dieOf i) + (if i % 24 / 4 < 3 then 0 else 2)

def setTrackers (l : List Tracker) (c : Ctl) : Ctl :=
  let c := { c with memory := { c.memory with trackers := l } }
  forEach (List.range 4) (fun j c =>
    wr (Reg.DLY_TRK_ACTIVE j) (l.filter (fun x => x.mdie == j)).length
      (wr (Reg.DLY_TRK_CONFIRMED j) (l.filter (fun x => x.mdie == j && x.confirmed)).length c)) c

/-- Fill one line ahead of the tiles (R272 to R274): only in the cached range, only where it is not held. The fill is dropped where
the demand queue of the line's M-die holds more requests than the limit; how many it holds is a free value (log entry 1). -/
def prefetchLine (x : Tracker) (l : Nat) (s : State) : State :=
  let die := dieOf x.tile
  let copy := copyOf s.c die
  if inCachedRange s.c (lineAddr l) && (findLine s.c copy l).isNone && !(servingUnits s.c die).isEmpty then
    let (q, c) := fresh s.c
    let s := { s with c := c }
    let j := deviceOf s.c (lineAddr l) / 3
    if x.limit < q.toNat % 2 ^ 16 then
      onCtl (fun c => raise Reg.DLY_EVENTS_PF_DROPPED (modCount (288 + 16 * j + 10) 1 (bump (Reg.DLY_PF_DROPPED_COUNT j) 1 c))) s
    else
      let (got, s) := fetchLine l s
      let s := onCtl (fun c => modCount (288 + 16 * x.mdie + 8) 1 (bump (Reg.DLY_PF_ISSUED_COUNT x.mdie) 1 c)) s
      allocLine die { die := copy, line := l, dirty := false, prefetched := true, poisoned := got.2, data := got.1 } s
  else s

/-- Issue the fills of a tracker up to its lead beyond an access (R273). -/
def issueFills (x : Tracker) (a : Nat) (stride : Int) (s : State) : State :=
  (List.range x.lead).foldl (fun (s : State) (k : Nat) =>
    let t := (a : Int) + stride * ((k : Int) + 1)
    if t < (lpddrBase : Int) then s else prefetchLine x (lineOf t.toNat) s) s

/-- The tracker after an access of its stream, and the stride along which it prefetches now (R273); `ahead`: the access read a prefetched
line. -/
def follow (x : Tracker) (a : Nat) (ahead : Bool) : Tracker × Option Int :=
  let d : Int := (a : Int) - (x.last : Int)
  let fits := decide (d % 256 = 0) && decide (d.natAbs ≤ 2 ^ 24) && d != 0
  let same := decide (x.diff = some d)
  let x1 := { x with last := a, diff := some d, lead := if ahead then Nat.min (x.lead + x.depth) x.maxDepth else x.lead }
  if same && fits then
    ({ x1 with stride := some d, seqAssume := false, confirmed := true, lead := if x.stride = some d then x1.lead else x.depth }, some d)
  else if x.stride = some d then (x1, some d)
  else if x.seqAssume && (x.diff.isNone || decide (x.diff = some 256)) then (x1, none)
  else ({ x1 with stride := none, seqAssume := false, confirmed := false, lead := 0 }, none)

/-- Put an element in the place of the first that passes. -/
def replaceFirst {α : Type} (p : α → Bool) (y : α) : List α → List α
  | [] => []
  | z :: l => if p z then y :: l else z :: replaceFirst p y l

/-- A new tracker of a tile (R272, R296): it keeps the settings it starts with. -/
def newTracker (c : Ctl) (j tile a st : Nat) : Tracker :=
  let depth := rd c Reg.DLY_PF_CTRL_DEPTH
  let asm := rdb c Reg.DLY_PF_CTRL_SEQ_ASSUME
  { mdie := j, tile := tile, last := a, diff := none, stride := if asm then some 256 else none, seqAssume := asm,
    lead := if asm then depth else 0, depth := depth, maxDepth := rd c Reg.DLY_PF_CTRL_MAX_DEPTH,
    limit := rd c Reg.DLY_PF_THROTTLE_QUEUE_LIMIT, confirmed := false, stamp := st }

/-- The tracker of a tile whose stream an access continues (R272): the one whose stride it follows; else one that observes, else any,
within 16 MiB of its last access (which comes first is the model's choice, log entry 44). -/
def trackerFor (c : Ctl) (tile a : Nat) : Option Tracker :=
  let near := fun (x : Tracker) => x.tile == tile && decide (((a : Int) - (x.last : Int)).natAbs ≤ 2 ^ 24)
  let next := fun (x : Tracker) => near x && decide (x.stride = some ((a : Int) - (x.last : Int)))
  let l := c.memory.trackers
  match l.find? next, l.find? (fun x => near x && !x.confirmed) with
  | some x, _ => some x
  | none, some x => some x
  | none, none => l.find? near

/-- Offer a missing or first-prefetched read to the tile's trackers (R272); an access that matches none allocates. -/
def offer (tile a : Nat) (ahead : Bool) (s : State) : State :=
  if !rdb s.c Reg.DLY_PF_CTRL_EN then s
  else
    let st := s.c.memory.stamp + 1
    let s := onCtl (fun c => { c with memory := { c.memory with stamp := st } }) s
    match trackerFor s.c tile a with
    | some x =>
      let (y, go) := follow x a ahead
      let s := onCtl (setTrackers (replaceFirst (fun z => z == x) { y with stamp := st } s.c.memory.trackers)) s
      match go with
      | some d => issueFills y a d s
      | none => s
    | none =>
      let j := mdieOfTile tile
      let asm := rdb s.c Reg.DLY_PF_CTRL_SEQ_ASSUME
      let x := newTracker s.c j tile a st
      let mine := s.c.memory.trackers.filter (fun y => y.mdie == j)
      let oldest := mine.foldl (fun b y => match b with
        | none => some y
        | some z => if y.stamp < z.stamp then some y else some z) none
      let keep := match oldest with
        | some z => if mine.length ≥ 64 then s.c.memory.trackers.filter (fun y => !(y == z)) else s.c.memory.trackers
        | none => s.c.memory.trackers
      let stolen := match oldest with
        | some _ => decide (mine.length ≥ 64)
        | none => false
      let s := onCtl (when stolen (raise Reg.DLY_EVENTS_TRACKER_STOLEN)) s
      let s := onCtl (setTrackers (x :: keep)) s
      if asm then issueFills x a 256 s else s

/-! ### Accesses of tiles -/

/-- The result of an access: an NG code and its address, or a value; and the state after it. -/
abbrev MRes (α : Type) := Except (Nat × Nat) α × State

/-- Where a cached line stands: the address of the way that holds it (R260, R262; the ways of a set are taken in the order its lines
stand, log entry 44). -/
def wayOf (c : Ctl) (die : Nat) (x : CacheLine) : Nat :=
  let us := servingUnits c die
  let home := homeOf us.length x.line
  let way := (findFrom (fun y => y == x) (c.memory.cache.filter (fun y => y.die == x.die && homeOf us.length y.line == home)) 0).getD 0
  sramBase + us.getD home.1 0 * 0x4000000 + home.2 * 4096 + 256 * way

/-- A read of a cached line meets the errors of its words: whether the line is still held, and the state. An uncorrectable word
invalidates a clean line and poisons a dirty one (R258). -/
def meetCached (die : Nat) (x : CacheLine) (s : State) : Bool × State :=
  if s.mem.flaws.isEmpty then (true, s)
  else
    let ws := ((List.range 16).map (fun k => wayOf s.c die x + 16 * k)).filterMap (fun b => (Map.get? s.mem.flaws b).map (fun n => (b, n)))
    let s := ws.foldl (fun s w => setMem (fun m => { m with flaws := Map.del m.flaws w.1 })
      (onCtl (bump (if w.2 ≤ 1 then Reg.MEM_SRAM_CORR_COUNT else Reg.MEM_SRAM_UNCORR_COUNT) 1) s)) s
    if ws.all (fun w => decide (w.2 ≤ 1)) then (true, s)
    else if x.dirty then (true, updateLine { x with poisoned := true } s)
    else (false, setCache (s.c.memory.cache.filter (fun y => !(y == x))) s)

/-- A line that is not held is fetched, or, for a write that covers it, only allocated (R260). -/
def missLine (tile l a : Nat) (fetch read : Bool) (s : State) : State :=
  let die := dieOf tile
  let (got, s) := if fetch then fetchLine l s else ((List.replicate 256 0, false), s)
  let s := onCtl (fun c => tileCount tile 74 1 (tileCount tile 71 (b2n fetch) c)) s
  let s := allocLine die { die := copyOf s.c die, line := l, dirty := false, prefetched := false, poisoned := got.2, data := got.1 } s
  if read then offer tile a false s else s

/-- Bring a line into the cache for a tile's access at `a`, as a demand access (R260). Reads alone are offered to the trackers. -/
def touchLine (tile l a : Nat) (fetch read : Bool) (s : State) : State :=
  let die := dieOf tile
  match findLine s.c (copyOf s.c die) l with
  | none => missLine tile l a fetch read s
  | some x =>
    let (held, s) := if fetch then meetCached die x s else (true, s)
    if !held then missLine tile l a fetch read s
    else
      let s := onCtl (tileCount tile 73 1) s
      if x.prefetched && read then
        let j := mdieOfTile tile
        let s := onCtl (fun c => tileCount tile 75 1 (modCount (288 + 16 * j + 9) 1 (bump (Reg.DLY_PF_USEFUL_COUNT j) 1 c))) s
        offer tile a true (updateLine { x with prefetched := false } s)
      else s

/-- The NG of consumed poison: 0x0301 for LPDDR5X lines, 0x0302 for S-die and scratchpad words (R254, R258, R286). -/
def poisonNg (a : Nat) : Nat × Nat := (if lpddrBase ≤ a then 0x0301 else 0x0302, poisonBase a)

/-- A byte as a tile reads it, after its lines were touched. -/
def tileByte (s : State) (tile a : Nat) : Byte :=
  if lpddrBase ≤ a ∧ cached s.c (dieOf tile) a then
    match findLine s.c (copyOf s.c (dieOf tile)) (lineOf a) with
    | some x => x.data.getD ((a - lpddrBase) % 256) 0
    | none => plainByte s.c s.mem a
  else plainByte s.c s.mem a

/-- Whether a byte a tile reads is poisoned. A poisoned dirty line of the cache counts as an S-die word (R258). -/
def tilePoison (s : State) (tile a : Nat) : Option (Nat × Nat) :=
  if lpddrBase ≤ a ∧ cached s.c (dieOf tile) a then
    match findLine s.c (copyOf s.c (dieOf tile)) (lineOf a) with
    | some x => if x.poisoned then some (if x.dirty then 0x0302 else 0x0301, poisonBase a) else none
    | none => none
  else if isPoisoned s.mem a || (lpddrBase ≤ a && deviceLost s.c a) then some (poisonNg a) else none

/-- The lines of LPDDR5X that a range touches. -/
def linesOf (a n : Nat) : List Nat :=
  if n = 0 ∨ a < lpddrBase then [] else (List.range ((a + n - 1 - lpddrBase) / 256 - lineOf a + 1)).map (fun k => lineOf a + k)

/-- The key is missing (R289): ACTIVE set, no key, an LPDDR5X access. -/
def keyMissing (c : Ctl) (a : Nat) : Bool :=
  rdb c Reg.MEM_ENC_CTRL_ACTIVE && !rdb c Reg.MEM_ENC_CTRL_KEY_PRESENT && regionOf c a == .lpddr

/-- The parts of a range within each line of LPDDR5X: address and length. -/
def lineParts (a n : Nat) : List (Nat × Nat) :=
  (linesOf a n).map (fun l => (Nat.max a (lineAddr l), Nat.min (a + n) (lineAddr (l + 1)) - Nat.max a (lineAddr l)))

/-- An access of crew that strays from memory: refused in control space, counted where nothing is mapped (R137, R252). -/
def stray (tile a n : Nat) (c : Ctl) : Ctl :=
  let at_ := fun (r : Region) => (List.range n).any (fun k => regionOf c (a + k) == r)
  when (at_ .control) (raise (Reg.TL_EVENTS_CREW_REFUSED tile)) (when (at_ .unmapped) (bump Reg.MEM_UNMAPPED_COUNT 1) c)

/-- The key is missing (R289): ACTIVE set, no key, an access that touches LPDDR5X. -/
def keyGone (c : Ctl) (a n : Nat) : Bool := keyMissing c a || keyMissing c (a + n - 1)

/-- What a scratchpad's tile counts of an access of `n` bytes: in 32-byte units, and as served to another agent (R508). -/
def countSpad (write : Bool) (tile a n : Nat) (c : Ctl) : Ctl :=
  if 0x18000000 ≤ a then c
  else
    let i := a / 0x200000
    let c := tileCount i (if write then 22 else 20) (ceilDiv n 32) c
    if i = tile then c else tileCount i (if write then 70 else 69) 1 c

/-- A C-die on the way between two that have no link of their own (R17, R18): the first by link slot (log entry 44). -/
def viaDie (k d : Nat) : Option Nat :=
  let ms := [1, 2, 4, 7]
  if k = d ∨ ms.contains (k ^^^ d) then none else (ms.find? (fun m => ms.contains (k ^^^ d ^^^ m))).map (fun m => k ^^^ m)

/-- Data between two C-dies over the package links (R16, R509), in 64-byte units. -/
def packageFlow (src dst n : Nat) (c : Ctl) : Ctl :=
  let u := ceilDiv n 64
  let out := fun k => modCount (64 + 16 * k + 10) u
  let in_ := fun k => modCount (64 + 16 * k + 12) u
  out src (in_ dst (match viaDie src dst with
    | some v => out v (in_ v c)
    | none => c))

/-- What a tile's access moves over the package links: to or from the die that holds the data, or an M-die, which its C-die reaches
itself or by C-die k XOR 1 (R16, R17). -/
def countPackage (write : Bool) (tile a n : Nat) (c : Ctl) : Ctl :=
  let k := dieOf tile
  let flow := fun d => if d = k then c else
    when (!write) (tileCount tile 85 1) (if write then packageFlow k d n c else packageFlow d k n c)
  match regionOf c a with
  | .spad i => flow (dieOf i)
  | .sram u => flow (u / 32)
  | .lpddr =>
    let us := servingUnits c k
    if cached c k a then flow (us.getD (homeOf us.length (lineOf a)).1 0 / 32)
    else
      let near := if deviceOf c a / 3 % 2 = dieParity k then k else k ^^^ 1
      let c := modCount (64 + 16 * near + (if write then 10 else 12)) (ceilDiv n 64) c
      when (!write) (tileCount tile 85 1) (if near = k then c else if write then packageFlow k near n c else packageFlow near k n c)
  | _ => c

/-- The take of a tile. -/
def takeOf (c : Ctl) (tile : Nat) : Option Take := (tileAt c tile).take.bind (takeAt c)

/-- A tile reads `n` bytes: reach, key, cache, errors, poison, bytes (R137, R138, R252, R289, R261, R286). -/
def tileRead (tile a n : Nat) (s : State) : MRes (List Byte) :=
  let t := takeOf s.c tile
  match t.bind (fun t => reachFault s.c t false a n) with
  | some e => (.error e, s)
  | none =>
    if keyGone s.c a n then (.error (0x0802, a), onCtl (raise Reg.MEM_EVENTS_KEY_MISSING) s)
    else
      let s := if t.isNone then onCtl (stray tile a n) s else s
      let s := onCtl (fun c => countSpad false tile a n (countPackage false tile a n c)) s
      let s := if a < lpddrBase then meetFlaws a n s
        else (lineParts a n).foldl (fun s p =>
          if cached s.c (dieOf tile) p.1 then touchLine tile (lineOf p.1) p.1 true true s
          else lpddrRead p.1 p.2 (onCtl (tileCount tile 71 1) s)) s
      match (List.range n).findSome? (fun k => tilePoison s tile (a + k)) with
      | some e => (.error e, onCtl (fun c => tileCount tile 61 1 (raise Reg.MEM_EVENTS_POISON_CONSUMED c)) s)
      | none => (.ok ((List.range n).map (fun k => if t.isNone && hole s.c (a + k) then 0 else tileByte s tile (a + k))), s)

/-- Store bytes that lie in one line of LPDDR5X or outside it, as a tile does. -/
def tileStore (tile a : Nat) (bs : List Byte) (s : State) : State :=
  if lpddrBase ≤ a ∧ cached s.c (dieOf tile) a then
    match findLine s.c (copyOf s.c (dieOf tile)) (lineOf a) with
    | some x =>
      let off := (a - lpddrBase) % 256
      let d := (x.data.take off ++ bs ++ x.data.drop (off + bs.length)).take 256
      updateLine { x with data := d, dirty := true, prefetched := false, poisoned := x.poisoned && bs.length < 256 } s
    | none => lpddrWrite a bs s
  else if lpddrBase ≤ a then lpddrWrite a bs s
  else
    setMem (fun m =>
      let whole := (List.range bs.length).filter (fun k => (a + k) % 16 == 0 && k + 16 ≤ bs.length)
      whole.foldl (fun m k => clearPoison (a + k) m) (overwrite a bs.length (putBytes a bs m))) s

/-- Split a store at the lines of LPDDR5X. -/
def splitStore (a : Nat) (bs : List Byte) : List (Nat × List Byte) :=
  (linesOf a bs.length).map (fun l =>
    let lo := Nat.max a (lineAddr l)
    let hi := Nat.min (a + bs.length) (lineAddr (l + 1))
    (lo, (bs.drop (lo - a)).take (hi - lo)))

/-- One part of a store to LPDDR5X: the line is brought into the cache, or read to merge, unless the part covers it; poison of a
line that is merged is consumed (R260, R286). -/
def writePart (tile : Nat) (p : Nat × List Byte) (s : State) : MRes Unit :=
  let whole := decide (256 ≤ p.2.length)
  let s := if cached s.c (dieOf tile) p.1 then touchLine tile (lineOf p.1) p.1 (!whole) false s
    else onCtl (tileCount tile 72 1) (if whole then s else meetFlaws (poisonBase p.1) 1 s)
  match if whole then none else tilePoison s tile p.1 with
  | some e => (.error e, onCtl (fun c => tileCount tile 61 1 (raise Reg.MEM_EVENTS_POISON_CONSUMED c)) s)
  | none => (.ok (), tileStore tile p.1 p.2 s)

/-- The parts of a store in order, up to the first that fails. -/
def writeParts (tile : Nat) : List (Nat × List Byte) → State → MRes Unit
  | [], s => (.ok (), s)
  | p :: ps, s => match writePart tile p s with
    | (.error e, s) => (.error e, s)
    | (.ok _, s) => writeParts tile ps s

/-- The bytes of a range that lie in memory, in runs of one line or less. -/
def solid (c : Ctl) (a : Nat) (bs : List Byte) : List (Nat × List Byte) :=
  (((List.range bs.length).zip bs).filter (fun e => !hole c (a + e.1))).map (fun e => (a + e.1, [e.2]))

/-- A tile writes bytes: reach, key, cache, poison of partly written lines (R138, R260, R286, R289). -/
def tileWrite (tile a : Nat) (bs : List Byte) (s : State) : MRes Unit :=
  let n := bs.length
  let t := takeOf s.c tile
  match t.bind (fun t => reachFault s.c t true a n) with
  | some e => (.error e, s)
  | none =>
    if keyGone s.c a n then (.error (0x0802, a), onCtl (raise Reg.MEM_EVENTS_KEY_MISSING) s)
    else
      let strays := t.isNone && (List.range n).any (fun k => hole s.c (a + k))
      let s := if t.isNone then onCtl (stray tile a n) s else s
      let s := onCtl (fun c => countSpad true tile a n (countPackage true tile a n c)) s
      if strays then writeParts tile (solid s.c a bs) s
      else if a < lpddrBase then (.ok (), tileStore tile a bs s)
      else writeParts tile (splitStore a bs) s

/-! ### Bypass agents (R252, R261, R266, R286, R289) -/

/-- What a bypass agent's access to the S-dies or scratchpads moves into or out of the host die (R16). -/
def countHost (write : Bool) (a n : Nat) (c : Ctl) : Ctl :=
  let at_ := fun k => modCount (64 + 16 * k + (if write then 12 else 10)) (ceilDiv n 64) c
  match regionOf c a with
  | .spad i => countSpad write 192 a n (at_ (dieOf i))
  | .sram u => at_ (u / 32)
  | _ => c

/-- Why a bypass agent cannot read a range: the block at fault; a missing key fails as poison does (R286, R289). -/
def bypassBad (s : State) (a n : Nat) : Option Nat :=
  if keyGone s.c a n then some (poisonBase a)
  else ((List.range n).find? (fun k => isPoisoned s.mem (a + k) || (lpddrBase ≤ a + k && deviceLost s.c (a + k)))).map (fun k => poisonBase (a + k))

/-- A bypass agent reads: past the cache; the block at fault where the range is poisoned or the key missing. -/
def bypassRead (a n : Nat) (s : State) : Except Nat (List Byte) × State :=
  let s := onCtl (fun c => countHost false a n (when ((List.range n).any (fun k => regionOf c (a + k) == .unmapped || regionOf c (a + k) == .control))
    (bump Reg.MEM_UNMAPPED_COUNT 1) c)) s
  let s := if keyGone s.c a n then onCtl (raise Reg.MEM_EVENTS_KEY_MISSING) s
    else if a < lpddrBase then meetFlaws a n s else (lineParts a n).foldl (fun s p => lpddrRead p.1 p.2 s) s
  match bypassBad s a n with
  | some b => (.error b, s)
  | none => (.ok ((List.range n).map (fun k => if hole s.c (a + k) then 0 else plainByte s.c s.mem (a + k))), s)

/-- A bypass agent writes: past the cache, whose copies stay as they are (R266); the block at fault where the key is missing, or where a
line to be merged is poisoned. -/
def bypassWrite (a : Nat) (bs : List Byte) (s : State) : Option Nat × State :=
  let n := bs.length
  let s := onCtl (fun c => countHost true a n (when ((List.range n).any (fun k => regionOf c (a + k) == .unmapped || regionOf c (a + k) == .control))
    (bump Reg.MEM_UNMAPPED_COUNT 1) c)) s
  if keyGone s.c a n then (some (poisonBase a), onCtl (raise Reg.MEM_EVENTS_KEY_MISSING) s)
  else if (List.range n).any (fun k => hole s.c (a + k)) then
    (none, (solid s.c a bs).foldl (fun s p => if p.1 < lpddrBase then tileStore 192 p.1 p.2 s else lpddrWrite p.1 p.2 s) s)
  else if a < lpddrBase then (none, tileStore 192 a bs s)
  else
    let parts := splitStore a bs
    let s := parts.foldl (fun s p => if p.2.length < 256 then meetFlaws (poisonBase p.1) 1 s else s) s
    match parts.find? (fun p => decide (p.2.length < 256) && isPoisoned s.mem p.1) with
    | some p => (some (poisonBase p.1), s)
    | none => (none, parts.foldl (fun s p => lpddrWrite p.1 p.2 s) s)

/-! ### Flushing (R264, R267) -/

/-- Write back, and with `inv` invalidate, the cached lines that pass. -/
def flushLines (p : CacheLine → Bool) (inv : Bool) (s : State) : State :=
  let hit := s.c.memory.cache.filter p
  let s := hit.foldl (fun s x => writeBack x s) s
  setCache (if inv then s.c.memory.cache.filter (fun x => !p x)
    else s.c.memory.cache.map (fun x => if p x then { x with dirty := false } else x)) s

/-- Zero the scratchpad of a tile with its accumulators, history and census (R136, R211, R234, R255). -/
def clearTileMemory (i : Nat) (s : State) : State :=
  let s := setMem (zeroRange (i * 0x200000) 0x200000) s
  onCtl (fun c => setTile i { tileAt c i with acc := [], accWritten := 0, hist := [] } c) s

/-- Zero a bonded SRAM unit. -/
def zeroUnit (u : Nat) (s : State) : State := setMem (zeroRange (sramBase + u * 0x4000000) 0x4000000) s

end Sys2Proof.Machine
end

