-- ==== Sys2Proof/Machine/TileCore.lean ====
section
/-! DEFINITION. What every tile instruction shares: registers (R134), the guard and the order of the checks (R140, R142),
issue into the queues (R128 to R131), gangs (R171, R172), ending the take in a fault (R41, R105), semaphores (R149 to
R151). -/

namespace Sys2Proof.Machine

/-! ### Registers (R134) -/

/-- s[n]; s0 reads zero. -/
def sReg (t : Tile) (n : Nat) : DWord := if n = 0 then 0 else Map.getD 0 t.s n

/-- Write s[n]; writes to s0 are discarded. -/
def setS (n : Nat) (v : DWord) (t : Tile) : Tile := if n = 0 then t else { t with s := Map.setD 0 t.s n v }

/-- p[n]; p0 reads all ones. -/
def pReg (t : Tile) (n : Nat) : BitVec 128 := if n = 0 then BitVec.allOnes 128 else Map.getD 0 t.p n

/-- Write p[n]; writes to p0 are discarded. -/
def setP (n : Nat) (v : BitVec 128) (t : Tile) : Tile := if n = 0 then t else { t with p := Map.setD 0 t.p n v }

def zeroLanes : List Word := List.replicate 128 0

/-- v[n], 128 lanes. -/
def vReg (t : Tile) (n : Nat) : List Word := Map.getD zeroLanes t.v n

def setV (n : Nat) (l : List Word) (t : Tile) : Tile := { t with v := Map.setD zeroLanes t.v n l }

def Desc.none : Desc := ⟨0⟩

def dReg (t : Tile) (n : Nat) : Desc := Map.getD Desc.none t.d n

def setD (n : Nat) (d : Desc) (t : Tile) : Tile := { t with d := Map.setD Desc.none t.d n d }

/-- Row `r` of accumulator set `n`. -/
def accRow (t : Tile) (n r : Nat) : List Word := Map.getD zeroLanes t.acc (128 * n + r)

def setAccRow (n r : Nat) (l : List Word) (t : Tile) : Tile := { t with acc := Map.setD zeroLanes t.acc (128 * n + r) l }

/-- A local count q[n], n below 24. -/
def qReg (t : Tile) (n : Nat) : Nat := Map.getD 0 t.q n

def setQ (n v : Nat) (t : Tile) : Tile := { t with q := Map.setD 0 t.q n v }

def onTile (i : Nat) (f : Tile → Tile) (s : State) : State := onCtl (fun c => setTile i (f (tileAt c i)) c) s

/-- The take a tile runs. -/
def takeOn (c : Ctl) (i : Nat) : Option (Nat × Take) :=
  match (tileAt c i).take with
  | none => none
  | some k => (takeAt c k).map (fun t => (k, t))

/-- The tiles that run one stream: a gang's members, or the tile alone (R170). -/
def gangOf (c : Ctl) (i : Nat) : List Nat :=
  let t := tileAt c i
  if t.width = 0 then [i]
  else (c.tiles.filter (fun e => e.2.take == t.take && e.2.leader == t.leader && e.2.width != 0)).map (fun e => e.1)

/-- The tiles a take runs on. -/
def tilesOf (c : Ctl) (k : Nat) : List Nat := (c.tiles.filter (fun e => e.2.take == some k)).map (fun e => e.1)

/-! ### Faults (R41, R105, R142) -/

/-- Record a fault on a tile at an instruction address, and end its take with its details. Crew code has no take to end, and raises
no event of a cast fault (R175). -/
def ngOn (i code pc detA detB : Nat) (s : State) : State :=
  onCtl (fun c =>
    let c := wr (Reg.TL_FAULT_CODE i) code (wr (Reg.TL_FAULT_VALID i) 1 (wr (Reg.TL_FAULT_ADDR_ADDR i) pc c))
    match (tileAt c i).take with
    | none => c
    | some k =>
      let c := tileCount i 65 1 (raise (Reg.TL_EVENTS_FAULT i) c)
      let c := when (code == 0x0202 || code == 0x0203) (raise (Reg.TL_EVENTS_ENCODING i)) c
      let c := when (code == 0x0205) (raise (Reg.TL_EVENTS_PRIVILEGE i)) c
      endTake k code i detA detB c) s

/-- A fault whose Detail A is the instruction address. -/
def ngAt (i code pc detB : Nat) (s : State) : State := ngOn i code pc pc detB s

/-- The Detail B of an access fault: the device address, or the slice for 0x0802 (R105). -/
def accessNg (i pc : Nat) (e : Nat × Nat) (s : State) : State :=
  if e.1 = 0x0802 then ngOn i e.1 pc 0 (sliceNow s.c) s else ngAt i e.1 pc e.2 s

/-! ### Words and their fields -/

/-- An instruction word from its opcode and the 56 bits below it (R139). -/
def opWord (op : Nat) (body : BitVec 56) : BitVec 64 := BitVec.ofNat 64 (op * 2 ^ 56 + body.toNat)

/-- A word with a field set. -/
def withBits (w : BitVec 64) (lo len v : Nat) : BitVec 64 :=
  BitVec.ofNat 64 (w.toNat - bits w.toNat lo len * 2 ^ lo + (v % 2 ^ len) * 2 ^ lo)

def fld (w : BitVec 64) (lo len : Nat) : Nat := bits w.toNat lo len

/-- The field is zero. -/
def fz (w : BitVec 64) (lo len : Nat) : Bool := fld w lo len == 0

/-- A signed field extended to 64 bits. -/
def sfld (w : BitVec 64) (lo len : Nat) : DWord := BitVec.ofInt 64 (sext len (fld w lo len))

/-- The guard passes: bit 0 of p[PG] XOR PN is 1 (R140). -/
def guardOk (t : Tile) (w : BitVec 64) : Bool := ((pReg t (fld w 53 3)).getLsbD 0) != (bit w.toNat 52)

/-! ### Queues (R128, R129) -/

def queueOf (t : Tile) (u : Nat) : List QItem := Map.getD [] t.queues u

def setQueue (u : Nat) (l : List QItem) (t : Tile) : Tile := { t with queues := Map.setD [] t.queues u l }

/-- Depths of R128. -/
def queueDepth (u : Nat) : Nat := if u = 1 then 32 else if u = 3 then 32 else 16

/-- A load of descriptor `n` waits in the dolly queue (R181). -/
def dscPending (t : Tile) (n : Nat) : Bool := (queueOf t 3).any (fun q => q.word.toNat / 2 ^ 56 == 0x82 && fld q.word 48 4 == n)

/-- A clap, a sem.wait with UNIT 0, which stands in queue 0, or a fence of any member of the gang holds issue (R149, R152, R155). -/
def issueHeld (c : Ctl) (i : Nat) : Bool :=
  (tileAt c i).clap.isSome || !(queueOf (tileAt c i) 0).isEmpty ||
    (gangOf c i).any (fun j => (queueOf (tileAt c j) 4).any (fun q => q.word.toNat / 2 ^ 56 == 0x2B))

/-- A coll.wait outstanding on the tile or a member of its gang will write s[n], as a load would (R129, R346). -/
def waitWrites (c : Ctl) (i n : Nat) : Bool :=
  n != 0 && (gangOf c i).any (fun j => (queueOf (tileAt c j) 5).any (fun q => q.word.toNat / 2 ^ 56 == 0x33 && fld q.word 39 5 == n))

/-- The outcome of a scalar address calculation s[SA] + OFF (R145, R201): 64-bit wrap. -/
def effAddr (base off : DWord) : DWord := base + off

/-- The text length of the image a take runs. -/
def imageOf (c : Ctl) (handle : Nat) : Option Image :=
  match Map.get? c.share.images (handle % 1024) with
  | some im => if im.loaded ∧ im.loads = handle / 65536 ∧ handle / 1024 % 64 = 0 then some im else none
  | none => none

/-- The first 64 bits a fetch fault names: the device address of the instruction. -/
def textAddr (c : Ctl) (t : Take) (pc : Nat) : Nat := match imageOf c t.handle with
  | some im => im.textBase + pc
  | none => pc

/-- Check 1 of R142. Crew code has no image here. -/
def pcInText (c : Ctl) (i : Nat) : Bool :=
  match takeOn c i with
  | none => true
  | some (_, t) => match imageOf c t.handle with
    | some im => (tileAt c i).pc < im.textLen
    | none => false

/-- What issue needs to know of an instruction: check 3 (reserved fields zero), whether it is crew-only, check 5
(values valid), the descriptors it names, the scalar registers it reads, and whether a limit of its own stalls it (R154, R161). -/
structure OpForm where
  rsvOk : Bool
  crewOnly : Bool := false
  valid : Bool := true
  descs : List Nat := []
  srcs : List Nat := []
  hold : Bool := false

/-- An instruction that passed its checks stalls: an operand is not there yet, a queue is full, a limit is reached (R129). -/
def stalled (c : Ctl) (i : Nat) (f : OpForm) : Bool :=
  f.hold || f.descs.any (dscPending (tileAt c i)) || f.srcs.any (waitWrites c i)

/-- A tile moves on past an instruction; where no take runs, it runs crew code, be it anew after its end (R137, R175). -/
def advance (u : Tile) : Tile := { u with lastPc := u.pc, pc := (u.pc + 8) % 2 ^ 32, crew := u.take.isNone, ended := false }

/-- Issue one instruction on a tile: the checks of R142 in order, the guard of R140, then its effect. A tile that is
held, has ended, is not its gang's leader, or stalls issues nothing (R129). -/
def issue (i : Nat) (w : BitVec 64) (unit : Nat) (f : OpForm) (run : State → State) (s : State) : State :=
  let t := tileAt s.c i
  let cast := t.take.isSome
  if t.inReset || (t.ended && cast) || issueHeld s.c i || (t.width != 0 && t.leader != i) then s
  else if !pcInText s.c i then
    match takeOn s.c i with
    | some (_, k) => ngAt i 0x0206 t.pc (textAddr s.c k t.pc) s
    | none => s
  else if !f.rsvOk then ngAt i 0x0203 t.pc w.toNat s
  else if f.crewOnly && cast then ngAt i 0x0205 t.pc w.toNat s
  else if !f.valid then ngAt i 0x0202 t.pc w.toNat s
  else
    let count := fun (c : Ctl) => tileCount i 95 (b2n (!cast)) (tileCount i 4 1 c)
    if !guardOk t w then onTile i advance (onCtl (fun c => tileCount i 68 1 (count c)) s)
    else if stalled s.c i f then s
    else if unit != 0 && (gangOf s.c i).any (fun j => (queueOf (tileAt s.c j) unit).length ≥ queueDepth unit) then
      onCtl (tileCount i 32 1) s
    else run (onTile i advance (onCtl count s))

/-- Put an instruction into a unit's queue of every member, with what it captures (R130, R171, R182). -/
def enqueue (i : Nat) (unit : Nat) (w : BitVec 64) (sa sb sc da db : Nat) (s : State) : State :=
  let t := tileAt s.c i
  (gangOf s.c i).foldl (fun s j =>
    let u := tileAt s.c j
    let q : QItem := { word := w, pc := t.lastPc, sa := sReg t sa, sb := sReg t sb, sc := sReg t sc, da := dReg u da, db := dReg u db }
    onTile j (fun u => setQueue unit (queueOf u unit ++ [q]) u) s) s

/-- A scratchpad address in the leader's window, as a member uses it (R172). -/
def relocate (c : Ctl) (i a : Nat) : Nat :=
  let t := tileAt c i
  if t.width ≠ 0 ∧ a / 0x200000 = t.leader then a + (i - t.leader) * 0x200000 else a

/-- A descriptor as a member uses it. -/
def relocDesc (c : Ctl) (i : Nat) (d : Desc) : Desc :=
  let b := relocate c i d.base
  let sb := if d.split then relocate c i d.scaleBase else d.scaleBase
  ⟨BitVec.ofNat 512 (d.raw.toNat - d.base - d.scaleBase * 2 ^ 416 + b + sb * 2 ^ 416)⟩

/-! ### Semaphores (R149 to R151) -/

/-- The key of a shared semaphore's instance: the gang's, or the group's (R151). -/
def sharedKey (c : Ctl) (i n : Nat) : Nat :=
  let t := tileAt c i
  if t.width ≠ 0 then 256 * t.leader + 128 + n else 256 * (i / 4 * 4) + n

/-- Whether the take's tiles cover whole groups, so that it may use q24 to q31 (R151). -/
def sharedAllowed (c : Ctl) (i : Nat) : Bool :=
  match takeOn c i with
  | none => true
  | some (_, t) => (tileAt c i).width != 0 || cellLevel t.cell != 0

def semCount (c : Ctl) (i n : Nat) : Nat :=
  if n < 24 then qReg (tileAt c i) n else Map.getD 0 c.share.shared (sharedKey c i n)

def setSem (i n v : Nat) (s : State) : State :=
  if n < 24 then onTile i (setQ n v) s
  else onCtl (fun c => { c with share := { c.share with shared := Map.setD 0 c.share.shared (sharedKey c i n) v } }) s

/-- Post to a semaphore; a count above 65,535 is refused (R149). -/
def postSem (i n k : Nat) (s : State) : Option State :=
  let v := semCount s.c i n + k
  if v > 65535 then none else some (onCtl (tileCount i 47 1) (setSem i n v s))

/-- Advance a generator of a tile (R235): returns the new state. -/
def stepGen (x : DWord) : DWord :=
  let x := x ^^^ (x <<< 13)
  let x := x ^^^ (x >>> 7)
  x ^^^ (x <<< 17)

def genOf (t : Tile) (u : Nat) : DWord := Map.getD 1 t.gens u

def setGen (u : Nat) (x : DWord) (t : Tile) : Tile := { t with gens := Map.put t.gens u x }

/-- `n` draws of a generator: the 16-bit values in order, and the generator after them (R236, R237). -/
def drawsFrom : Nat → DWord → List Nat × DWord
  | 0, x => ([], x)
  | n + 1, x =>
    let y := stepGen x
    let (l, z) := drawsFrom n y
    (y.toNat / 2 ^ 48 :: l, z)

/-- Take the draws of a conversion from a unit's generator of a tile. -/
def takeDraws (i u n : Nat) (s : State) : List Nat × State :=
  let (l, x) := drawsFrom n (genOf (tileAt s.c i) u)
  (l, onCtl (tileCount i 53 n) (onTile i (setGen u x) s))

end Sys2Proof.Machine
end

