-- ==== Sys2Proof/Machine/Vector.lean ====
section
/-! DEFINITION. The vector instructions (R195 to R203): for each its form (the checks of R142) and what it does when the
vector queue runs it. -/

namespace Sys2Proof.Machine

/-! ### Fields (R184) -/

def vVD (w : BitVec 64) : Nat := fld w 46 6
def vVA (w : BitVec 64) : Nat := fld w 40 6
def vVB (w : BitVec 64) : Nat := fld w 34 6
def vVC (w : BitVec 64) : Nat := fld w 28 6
def vPM (w : BitVec 64) : Nat := fld w 25 3
def vFN (w : BitVec 64) : Nat := fld w 19 6
def vAUX (w : BitVec 64) : Nat := fld w 0 16

def lane (l : List Word) (k : Nat) : Word := l.getD k 0

/-- The 128 lanes of a function of the lane number. -/
def lanes (f : Nat → Word) : List Word := (List.range 128).map f

/-- Write a vector register under p[PM]: masked lanes keep the old value (R196). -/
def writeMasked (i vd pm : Nat) (f : Nat → Word) (s : State) : State :=
  onTile i (fun t =>
    let old := vReg t vd
    let m := pReg t pm
    setV vd (lanes (fun k => if m.getLsbD k then f k else lane old k)) t) s

/-- The form of a V instruction: RSV and AUX zero, FN below a bound. -/
def vForm (w : BitVec 64) (fns : Nat) : OpForm := { rsvOk := fz w 16 3 && fz w 0 16 && decide (vFN w < fns) }

/-! ### Arithmetic -/

/-- v.fp by FN (R195, R197). -/
def fpOp (fn : Nat) (a b c : Word) : Word :=
  match fn with
  | 0 => f32Add a b
  | 1 => f32Sub a b
  | 2 => f32Mul a b
  | 3 => f32Fma a b c
  | 4 => f32Fms a b c
  | 5 => f32Min a b
  | 6 => f32Max a b
  | 7 => f32Abs a
  | 8 => f32Neg a
  | _ => f32Div a b

/-- v.int by FN (R197). -/
def intOp (fn : Nat) (a b : Word) : Word :=
  match fn with
  | 0 => a + b
  | 1 => a - b
  | 2 => a * b
  | 3 => a &&& b
  | 4 => a ||| b
  | 5 => a ^^^ b
  | 6 => a <<< (b.toNat % 32)
  | 7 => a >>> (b.toNat % 32)
  | 8 => a.sshiftRight (b.toNat % 32)
  | 9 => if BitVec.slt a b then a else b
  | 10 => if BitVec.slt a b then b else a
  | 11 => if a < b then a else b
  | _ => if a < b then b else a

/-- A condition of v.cmp on two lanes: FN 0 FP32 (NaN false except under ne), 1 signed, 2 unsigned. -/
def cmpOp (fn cond : Nat) (a b : Word) : Bool :=
  let lt := if fn = 0 then FVal.lt false (f32 a) (f32 b) else if fn = 1 then BitVec.slt a b else decide (a < b)
  let gt := if fn = 0 then FVal.lt false (f32 b) (f32 a) else if fn = 1 then BitVec.slt b a else decide (b < a)
  let un := fn = 0 && ((f32 a).isNan || (f32 b).isNan)
  match cond with
  | 0 => !un && !lt && !gt
  | 1 => un || lt || gt
  | 2 => lt
  | 3 => !un && !gt
  | 4 => gt
  | _ => !un && !lt

def formVFp (w : BitVec 64) : OpForm := vForm w 10
def runVFp (i : Nat) (q : QItem) (s : State) : State :=
  let t := tileAt s.c i
  let a := vReg t (vVA q.word); let b := vReg t (vVB q.word); let c := vReg t (vVC q.word)
  let s := onCtl (fun x => tileCount i 78 (b2n (vFN q.word == 9)) x) s
  writeMasked i (vVD q.word) (vPM q.word) (fun k => fpOp (vFN q.word) (lane a k) (lane b k) (lane c k)) s

def formVInt (w : BitVec 64) : OpForm := vForm w 13
def runVInt (i : Nat) (q : QItem) (s : State) : State :=
  let t := tileAt s.c i
  let a := vReg t (vVA q.word); let b := vReg t (vVB q.word)
  writeMasked i (vVD q.word) (vPM q.word) (fun k => intOp (vFN q.word) (lane a k) (lane b k)) s

def formVSfu (w : BitVec 64) : OpForm := vForm w 12
def runVSfu (i : Nat) (q : QItem) (s : State) : State :=
  let a := vReg (tileAt s.c i) (vVA q.word)
  let s := onCtl (tileCount i 18 1) s
  writeMasked i (vVD q.word) (vPM q.word) (fun k => f32Sfu (vFN q.word) (lane a k)) s

def formVCmp (w : BitVec 64) : OpForm :=
  { rsvOk := fz w 16 3 && fz w 3 13 && decide (vFN w < 3) && decide (fld w 0 3 < 6), valid := fz w 49 3 }
def runVCmp (i : Nat) (q : QItem) (s : State) : State :=
  let t := tileAt s.c i
  let a := vReg t (vVA q.word); let b := vReg t (vVB q.word)
  let pd := vVD q.word % 8
  let m := pReg t (vPM q.word)
  let old := pReg t pd
  let v := ofBits (fun k => if m.getLsbD k then cmpOp (vFN q.word) (fld q.word 0 3) (lane a k) (lane b k) else old.getLsbD k) 128
  onTile i (setP pd (BitVec.ofNat 128 v)) s

def formVSel (w : BitVec 64) : OpForm := vForm w 1
def runVSel (i : Nat) (q : QItem) (s : State) : State :=
  let t := tileAt s.c i
  let a := vReg t (vVA q.word); let b := vReg t (vVB q.word); let m := pReg t (vPM q.word)
  onTile i (setV (vVD q.word) (lanes (fun k => if m.getLsbD k then lane a k else lane b k))) s

/-! ### Reductions (R199, R200) -/

/-- One level of the tree: lanes 2i and 2i + 1. -/
def foldPairs (f : Word → Word → Word) : List Word → List Word
  | a :: b :: l => f a b :: foldPairs f l
  | l => l

/-- The seven levels of the tree. -/
def treeReduce (f : Word → Word → Word) : Nat → List Word → Word
  | 0, l => l.headD 0
  | n + 1, l => treeReduce f n (foldPairs f l)

def formVRed (w : BitVec 64) : OpForm := vForm w 3
def runVRed (i : Nat) (q : QItem) (s : State) : State :=
  let t := tileAt s.c i
  let a := vReg t (vVA q.word); let m := pReg t (vPM q.word)
  let (f, e) : (Word → Word → Word) × Word := match vFN q.word with
    | 0 => (f32Add, 0)
    | 1 => (f32Max, 0xFF800000)
    | _ => (f32Min, 0x7F800000)
  let r := treeReduce f 7 (lanes (fun k => if m.getLsbD k then lane a k else e))
  onTile i (setV (vVD q.word) (List.replicate 128 r)) s

/-- (value, index) a stands before b in descending order (R200). -/
def topBefore (a b : Word × Word) : Bool :=
  let x := f32 a.1; let y := f32 b.1
  if x.isNan then y.isNan && decide (a.2 < b.2)
  else if y.isNan then true
  else if FVal.lt true y x then true
  else if FVal.lt true x y then false
  else decide (a.2 < b.2)

def insertTop (x : Word × Word) : List (Word × Word) → List (Word × Word)
  | [] => [x]
  | y :: l => if topBefore x y then x :: y :: l else y :: insertTop x l

def formVTopk (w : BitVec 64) : OpForm :=
  let k := fld w 0 7
  { rsvOk := fz w 16 3 && fz w 7 9 && decide (vFN w = 0), valid := vVD w % 2 == 0 && decide (1 ≤ k ∧ k ≤ 64) }
def runVTopk (i : Nat) (q : QItem) (s : State) : State :=
  let t := tileAt s.c i
  let k := fld q.word 0 7
  let vd := vVD q.word
  let old := (vReg t vd); let oldIdx := (vReg t (vd + 1))
  let a := vReg t (vVA q.word); let b := vReg t (vVB q.word); let m := pReg t (vPM q.word)
  let held := (List.range k).map (fun j => (lane old j, lane oldIdx j))
  let new := ((List.range 128).filter (fun j => m.getLsbD j)).map (fun j => (lane a j, lane b j))
  let sorted := (held ++ new).foldr insertTop []
  let s := onCtl (tileCount i 77 1) s
  onTile i (fun t =>
    setV (vd + 1) (lanes (fun j => if j < k then (sorted.getD j (0, 0)).2 else lane oldIdx j))
      (setV vd (lanes (fun j => if j < k then (sorted.getD j (0, 0)).1 else lane old j)) t)) s

/-! ### Moving and converting -/

def formVPerm (w : BitVec 64) : OpForm := vForm w 1
def runVPerm (i : Nat) (q : QItem) (s : State) : State :=
  let t := tileAt s.c i
  let a := vReg t (vVA q.word); let b := vReg t (vVB q.word); let c := vReg t (vVC q.word)
  writeMasked i (vVD q.word) (vPM q.word) (fun k =>
    let x := (lane b k).toNat
    if x < 128 then lane a x else if x < 256 then lane c (x - 128) else 0) s

/-- v.cvt by FN (R197), given the draw of a stochastic rounding. -/
def cvtOp (fn : Nat) (rd : Rnd) (a : Word) : Word :=
  match fn with
  | 0 => BitVec.ofNat 32 (bf16.conv rd 0 (f32 a)).code
  | 1 => BitVec.ofNat 32 (fp16.conv rd 0 (f32 a)).code
  | 2 => toF32 (bf16.decode (a.toNat % 65536))
  | 3 => toF32 (fp16.decode (a.toNat % 65536))
  | 4 => f32ToInt .rne a
  | 5 => intToF32 a
  | _ => f32ToInt .trunc a

def formVCvt (w : BitVec 64) : OpForm :=
  { rsvOk := fz w 16 3 && decide (vFN w < 7) && (if vFN w < 2 then fz w 1 15 else fz w 0 16) }
def runVCvt (i : Nat) (q : QItem) (s : State) : State :=
  let a := vReg (tileAt s.c i) (vVA q.word)
  let st := vFN q.word < 2 && fld q.word 0 1 == 1
  let (draws, s) := if st then takeDraws i 1 128 s else ([], s)
  writeMasked i (vVD q.word) (vPM q.word) (fun k =>
    cvtOp (vFN q.word) (if st then .stoch (draws.getD k 0) else .rne) (lane a k)) s

/-! ### Memory (R201) -/

def vmVD (w : BitVec 64) : Nat := fld w 46 6
def vmSA (w : BitVec 64) : Nat := fld w 41 5
def vmSB (w : BitVec 64) : Nat := fld w 36 5
def vmPM (w : BitVec 64) : Nat := fld w 33 3
def vmTY (w : BitVec 64) : Nat := fld w 31 2

/-- Element width in bytes by TY. -/
def tyWidth (ty : Nat) : Nat := if ty = 0 then 4 else 2

/-- Address of lane `k`: contiguous where s[SB] is 0. -/
def laneAddr (q : QItem) (k : Nat) : Nat :=
  let base := effAddr q.sa (sfld q.word 0 24)
  let step : DWord := if q.sb = 0 then BitVec.ofNat 64 (tyWidth (vmTY q.word)) else q.sb
  (base + BitVec.ofNat 64 k * step).toNat

/-- Widen a loaded element to FP32 (R201). -/
def widen (ty : Nat) (bs : List Byte) : Word :=
  match ty with
  | 0 => BitVec.ofNat 32 (leNat bs)
  | 1 => toF32 (bf16.decode (leNat bs))
  | _ => toF32 (fp16.decode (leNat bs))

/-- Narrow an FP32 lane with round-to-nearest-even (R201). -/
def narrow (ty : Nat) (v : Word) : List Byte :=
  match ty with
  | 0 => leBytes 4 v.toNat
  | 1 => leBytes 2 (bf16.conv .rne 0 (f32 v)).code
  | _ => leBytes 2 (fp16.conv .rne 0 (f32 v)).code

/-- The operand checks of an access before the privilege of its address, in the order of check 7 of R142: the address (0x0206:
bits [63:48], reach), then its alignment (0x020A). `b` is the address `a` as relocated for a gang. -/
def addrFault (c : Ctl) (tile : Nat) (write : Bool) (a b width : Nat) : Option (Nat × Nat) :=
  let far := (castFault c tile write b width).filter (fun e => e.1 == 0x0206)
  if a ≥ 2 ^ 48 then some (0x0206, a)
  else if far.isSome then far
  else if a % width ≠ 0 then some (0x020A, a)
  else none

def formVLd (w : BitVec 64) : OpForm := { rsvOk := fz w 24 7 && decide (vmTY w < 3) }

/-- Lanes with their addresses, joined into runs of `wd` bytes a lane that follow one another in memory. -/
def laneRuns (wd : Nat) : List (Nat × Nat) → List (Nat × List Nat)
  | [] => []
  | (k, a) :: l =>
    match laneRuns wd l with
    | [] => [(a, [k])]
    | (b, ks) :: r => if b = a + wd then (a, k :: ks) :: r else (a, [k]) :: (b, ks) :: r

/-- The enabled lanes of an access in order, up to the first whose operand check fails: their runs, and that fault. -/
def laneAccess (c : Ctl) (i : Nat) (write : Bool) (q : QItem) (ks : List Nat) : List (Nat × List Nat) × Option (Nat × Nat) :=
  let wd := tyWidth (vmTY q.word)
  let bad := fun k => addrFault c i write (laneAddr q k) (relocate c i (laneAddr q k)) wd
  (laneRuns wd ((ks.takeWhile (fun k => (bad k).isNone)).map (fun k => (k, relocate c i (laneAddr q k)))), ks.findSome? bad)

/-- Load runs of lanes, up to the first fault. -/
def loadRuns (i wd : Nat) : List (Nat × List Nat) → List (Nat × List Byte) → State → MRes (List (Nat × List Byte))
  | [], acc, s => (.ok acc, s)
  | (a, ks) :: l, acc, s =>
    match tileRead i a (wd * ks.length) s with
    | (.error e, s) => (.error e, s)
    | (.ok bs, s) => loadRuns i wd l (((List.range ks.length).zip ks).map (fun x => (x.2, (bs.drop (wd * x.1)).take wd)) ++ acc) s

/-- Load the enabled lanes in order, up to the first fault. -/
def loadLanes (i : Nat) (q : QItem) (ks : List Nat) (s : State) : MRes (List (Nat × List Byte)) :=
  let (rs, bad) := laneAccess s.c i false q ks
  match loadRuns i (tyWidth (vmTY q.word)) rs [] s with
  | (.error e, s) => (.error e, s)
  | (.ok l, s) => match bad with
    | some e => (.error e, s)
    | none => (.ok l, s)

def runVLd (i : Nat) (q : QItem) (s : State) : State :=
  let m := pReg (tileAt s.c i) (vmPM q.word)
  match loadLanes i q ((List.range 128).filter (fun k => m.getLsbD k)) s with
  | (.error e, s) => accessNg i q.pc e s
  | (.ok l, s) => writeMasked i (vmVD q.word) (vmPM q.word) (fun k => match l.find? (fun e => e.1 == k) with
      | some e => widen (vmTY q.word) e.2
      | none => 0) s

def formVSt (w : BitVec 64) : OpForm := { rsvOk := fz w 24 7 && decide (vmTY w < 3) }

/-- Store runs of lanes, up to the first fault. -/
def storeRuns (i : Nat) (f : Nat → List Byte) : List (Nat × List Nat) → State → MRes Unit
  | [], s => (.ok (), s)
  | (a, ks) :: l, s =>
    match tileWrite i a (ks.flatMap f) s with
    | (.error e, s) => (.error e, s)
    | (.ok (), s) => storeRuns i f l s

/-- Store the enabled lanes in order, up to the first fault. -/
def storeLanes (i : Nat) (q : QItem) (v : List Word) (ks : List Nat) (s : State) : MRes Unit :=
  let (rs, bad) := laneAccess s.c i true q ks
  match storeRuns i (fun k => narrow (vmTY q.word) (lane v k)) rs s with
  | (.error e, s) => (.error e, s)
  | (.ok (), s) => match bad with
    | some e => (.error e, s)
    | none => (.ok (), s)

def runVSt (i : Nat) (q : QItem) (s : State) : State :=
  let t := tileAt s.c i
  let m := pReg t (vmPM q.word)
  match storeLanes i q (vReg t (vmVD q.word)) ((List.range 128).filter (fun k => m.getLsbD k)) s with
  | (.error e, s) => accessNg i q.pc e s
  | (.ok (), s) => s

def formVBcast (w : BitVec 64) : OpForm :=
  { rsvOk := fz w 24 7 && fz w 36 5 && fz w 33 3 && fz w 0 24 && decide (vmTY w < 2) }
def runVBcast (i : Nat) (q : QItem) (s : State) : State :=
  let b : Word := q.sa.setWidth 32
  onTile i (setV (vmVD q.word) (lanes (fun k => if vmTY q.word = 0 then b else b + BitVec.ofNat 32 k))) s

end Sys2Proof.Machine
end

