-- ==== Sys2Proof/Machine/Quant.lean ====
section
/-! DEFINITION. Tensor windows in the scratchpad (R183), the scale history and clip census (R230 to R240), conversion of
rows into a destination descriptor (R224 to R229), vq.quant and vq.dequant (R202). -/

namespace Sys2Proof.Machine

/-! ### Windows -/

/-- Origin of a window: dimension 0 and dimension 1 index (R183). -/
def originOf (x : DWord) : Nat × Nat := (x.toNat % 2 ^ 32, x.toNat / 2 ^ 32)

/-- The multiple the dimension 0 origin must be of; `quant` says that vq.quant writes the window (R183). -/
def originMultiple (fmt : Nat) (quant : Bool) : Nat :=
  if fmt = 0x10 then 128 else if fmt = 0x11 ∧ quant then 160 else 32

/-- How many of `n` elements from `i0` lie within dimension 0, on a row within dimension 1. -/
def inSize (d : Desc) (i0 n r : Nat) : Nat := if r < d.size 1 then Nat.min n (d.size 0 - i0) else 0

/-- The byte ranges that elements [i0, i0 + n) of a row occupy, their block entries included. -/
def rowRanges (d : Desc) (i0 n r : Nat) : List (Nat × Nat) :=
  let m := inSize d i0 n r
  if m = 0 then []
  else if isBlock d.fmt then
    let l := blockLen d.fmt
    let b0 := i0 / l
    (List.range ((i0 + m - 1) / l - b0 + 1)).flatMap (fun k =>
      let (ea, sa) := blockAddrs d (b0 + k) r
      let eb := if d.fmt = 0x10 then 64 else if d.fmt = 0x11 then 32 else 32 * elemBits d.fmt / 8
      [(ea, eb), (sa, scaleEntry d.fmt)])
  else [(rowAddr d r 0 0 0 + i0 * elemBits d.fmt / 8, (m * elemBits d.fmt + 7) / 8)]

/-- The first fault of a matrix or quantize operand range: outside the tile's own scratchpad, 0x0206 (R203). -/
def spadFault (i : Nat) (rs : List (Nat × Nat)) : Option (Nat × Nat) :=
  rs.findSome? (fun r =>
    if i * 0x200000 ≤ r.1 ∧ r.1 + r.2 ≤ (i + 1) * 0x200000 then none
    else some (0x0206, if r.1 < i * 0x200000 then r.1 else Nat.max r.1 ((i + 1) * 0x200000)))

/-- Poison consumed by a read of ranges (R254). -/
def spadPoison (s : State) (rs : List (Nat × Nat)) : Option (Nat × Nat) :=
  rs.findSome? (fun r => (List.range r.2).findSome? (fun k => if isPoisoned s.mem (r.1 + k) then some (poisonNg (r.1 + k)) else none))

/-- What a matrix or quantize instruction reads of its tile's scratchpad: the address, the errors its words hold, their poison
(R142, R203, R254). -/
def operandRead (i : Nat) (rs : List (Nat × Nat)) (s : State) : MRes Unit :=
  match spadFault i rs with
  | some e => (.error e, s)
  | none =>
    let s := rs.foldl (fun s r => meetFlaws r.1 r.2 (onCtl (countSpad false i r.1 r.2) s)) s
    match spadPoison s rs with
    | some e => (.error e, onCtl (fun c => tileCount i 61 1 (raise Reg.MEM_EVENTS_POISON_CONSUMED c)) s)
    | none => (.ok (), s)

/-- A conversion writes its tile's scratchpad. -/
def spadStore (i a : Nat) (bs : List Byte) (s : State) : State := tileStore i a bs (onCtl (countSpad true i a bs.length) s)

/-! ### Scale history and clip census -/

def histAt (t : Tile) (e : Nat) : HistEntry := Map.getD (HistEntry.empty 0) t.hist e

def setHist (e : Nat) (h : HistEntry) (t : Tile) : Tile := { t with hist := Map.put t.hist e h }

def sat32 (v : Nat) : Nat := Nat.min v 0xFFFFFFFF

/-- Fold the counts of a replaced entry into entry 0 (R240). -/
def foldInto (a b : HistEntry) : HistEntry :=
  { a with sat := sat32 (a.sat + b.sat), flush := sat32 (a.flush + b.flush), clamp := sat32 (a.clamp + b.clamp),
           nan := sat32 (a.nan + b.nan), cold := sat32 (a.cold + b.cold), elements := a.elements + b.elements }

/-- The entry of a tensor ID, assigned at first use; the least recently used is replaced when none is free (R230). -/
def histIndex (tid : Nat) (t : Tile) : Nat × Tile × Bool :=
  let clock := t.useClock + 1
  let t := { t with useClock := clock }
  if tid = 0 then (0, t, false)
  else
    match t.hist.find? (fun e => e.1 != 0 && e.2.tid == tid) with
    | some e => (e.1, setHist e.1 { e.2 with used := clock } t, false)
    | none =>
      match (List.range 63).find? (fun k => (Map.get? t.hist (k + 1)).isNone) with
      | some k => (k + 1, setHist (k + 1) { HistEntry.empty tid with used := clock } t, false)
      | none =>
        let lru := (t.hist.filter (fun e => e.1 != 0)).foldl (fun b e => match b with
          | none => some e
          | some x => if e.2.used < x.2.used then some e else some x) none
        match lru with
        | none => (0, t, false)
        | some e => (e.1, setHist e.1 { HistEntry.empty tid with used := clock } (setHist 0 (foldInto (histAt t 0) e.2) t), true)

/-- The largest recorded statistic (R232). -/
def histMax (h : HistEntry) : Mag := Mag.maxOf (h.vals.map statMag)

/-- Record a statistic: a 17th value displaces the oldest; another kind empties the entry first (R231). -/
def record (kind : Nat) (x : Word) (h : HistEntry) : HistEntry :=
  let old := if h.kind = kind then h.vals else []
  { h with kind := kind, vals := (x :: old).take 16, last := x }

/-- Add the counts of a conversion (R238, R239). -/
def census (k : ConvCounts) (h : HistEntry) : HistEntry :=
  { h with sat := sat32 (h.sat + k.sat), flush := sat32 (h.flush + k.flush), clamp := sat32 (h.clamp + k.clamp),
           nan := sat32 (h.nan + k.nan), cold := sat32 (h.cold + k.cold), elements := h.elements + k.elements }

/-! ### Converting rows -/

/-- One row to convert: its dimension 1 index, its dimension 0 start, its values after SHIFT, its draws. -/
structure ConvRow where
  r : Nat
  i0 : Nat
  xs : List FVal
  draws : Option (List Nat)

/-- The blocks of a row that lie within the sizes: (block number, values, draws). -/
def rowBlocks (d : Desc) (x : ConvRow) : List (Nat × List FVal × Option (List Nat)) :=
  let l := blockLen d.fmt
  let m := inSize d x.i0 x.xs.length x.r
  (List.range (m / l)).map (fun k =>
    (x.i0 / l + k, (x.xs.drop (k * l)).take l, x.draws.map (fun ds => (ds.drop (k * l)).take l)))

/-- Write a converted block (R213, R216, R218, R180). -/
def storeBlock (i : Nat) (d : Desc) (r b : Nat) (blk : Block) (s : State) : State :=
  let (ea, sa) := blockAddrs d b r
  let bytes := if d.fmt = 0x11 then packKt2 32 blk.codes else packCodes (elemBits d.fmt) blk.codes
  spadStore i sa blk.entry (spadStore i ea bytes s)

/-- Convert rows into a block format (R226 to R233): current or delayed scaling, census, record. -/
def convBlockRows (i : Nat) (d : Desc) (delayed : Bool) (rows : List ConvRow) (s : State) : ConvCounts × State :=
  let kind := statKind d.fmt
  let (e, t, evicted) := histIndex d.tid (tileAt s.c i)
  let h0 := histAt t e
  let other := decide (h0.kind ≠ 0 ∧ h0.kind ≠ kind)
  let cold := delayed && (h0.vals.isEmpty || d.tid == 0 || other)
  let h := if delayed && other then { h0 with kind := kind, vals := [] } else h0
  let useHist := delayed && !cold
  let hm := histMax h
  let all := rows.flatMap (fun x => (rowBlocks d x).map (fun b => (x.r, b)))
  let s := onTile i (fun _ => t) s
  let s := onCtl (tileCount i 82 (b2n evicted)) s
  let res := all.foldl (fun (a : ConvCounts × State) rb =>
    let stat := if useHist then hm else blockStat d.fmt rb.2.2.1
    let blk := convBlock d.fmt stat rb.2.2.2 rb.2.2.1
    (a.1.add blk.counts, storeBlock i d rb.1 rb.2.1 blk a.2)) (ConvCounts.zero, s)
  let counts := { res.1 with cold := if cold then all.length else 0 }
  let seen := (all.filter (fun rb => !(rb.2.2.1.any FVal.isNan))).map (fun rb => blockStat d.fmt rb.2.2.1)
  let h := census counts h
  let h := if d.tid = 0 ∨ seen.isEmpty then h else record kind (statWord (Mag.maxOf seen)) h
  let s := onTile i (setHist e h) res.2
  (counts, onCtl (fun c => tileCount i (if useHist then 80 else 81) all.length c) s)

/-- Convert rows into an element format (R224, R225). -/
def convElemRows (i : Nat) (d : Desc) (rows : List ConvRow) (s : State) : ConvCounts × State :=
  let w := elemBits d.fmt
  let res := rows.foldl (fun (a : ConvCounts × State) x =>
    let m := inSize d x.i0 x.xs.length x.r
    let convs := (List.range m).map (fun k => convElem d.fmt (rndAt x.draws k) (x.xs.getD k .zero))
    let nans := ((x.xs.take m).filter FVal.isNan).length
    let cnt := { countConvs convs with nan := nans, elements := m }
    let addr := rowAddr d x.r 0 0 0 + x.i0 * w / 8
    (a.1.add cnt, if m = 0 then a.2 else spadStore i addr (packCodes w (convs.map (fun c => c.code))) a.2)) (ConvCounts.zero, s)
  let (e, t, evicted) := histIndex d.tid (tileAt res.2.c i)
  let s := onTile i (fun _ => setHist e (census res.1 (histAt t e)) t) res.2
  (res.1, onCtl (tileCount i 82 (b2n evicted)) s)

/-- Convert rows into d, suppressing writes beyond its sizes (R183), and count (R238, R240). -/
def convertRows (i : Nat) (d : Desc) (delayed : Bool) (rows : List ConvRow) (s : State) : State :=
  let (k, s) := if isBlock d.fmt then convBlockRows i d delayed rows s else convElemRows i d rows s
  let beyond := rows.map (fun x => x.xs.length - inSize d x.i0 x.xs.length x.r)
  onCtl (fun c =>
    let c := tileCount i 48 k.sat (tileCount i 49 k.flush (tileCount i 50 k.clamp (tileCount i 51 k.nan (tileCount i 52 k.cold c))))
    let c := tileCount i 59 (beyond.filter (fun n => n > 0)).length c
    when (beyond.any (fun n => n > 0)) (raise (Reg.TL_TENSOR_EVENTS_WRITE_SUPPRESSED i)) c) s

/-! ### vq.quant and vq.dequant (R202) -/

def qVA (w : BitVec 64) : Nat := fld w 46 6
def qN (w : BitVec 64) : Nat := fld w 33 4 + 1
def qShift (w : BitVec 64) : Int := sext 8 (fld w 22 8)

/-- The values of R202 that the word alone decides: the registers, and SCALE of a quantize. -/
def vqValid (w : BitVec 64) : Bool := decide (qVA w + qN w - 1 ≤ 63)

/-- Checks of R202 and R183 that need the descriptor, at execution. -/
def vqCheck (q : QItem) (d : Desc) (write : Bool) : Option Nat :=
  let n := qN q.word
  if ¬ (d.rank = 1 ∨ d.rank = 2) then some 0x0202
  else if n * 128 % blockLen d.fmt ≠ 0 then some 0x0202
  else if write ∧ fld q.word 30 2 = 1 ∧ !isBlock d.fmt then some 0x0202
  else if (originOf q.sa).1 % originMultiple d.fmt write ≠ 0 then some 0x020A
  else none

/-- The Detail B of an encoding or alignment fault at execution: the word, or the address. -/
def ngExec (i code : Nat) (q : QItem) (a : Nat) (s : State) : State :=
  ngAt i code q.pc (if code = 0x020A ∨ code = 0x0206 then a else q.word.toNat) s

def formVqQuant (w : BitVec 64) : OpForm := { rsvOk := fz w 0 22, valid := vqValid w && decide (fld w 30 2 < 2), descs := [fld w 42 4] }
def runVqQuant (i : Nat) (q : QItem) (s : State) : State :=
  let d := relocDesc s.c i q.db
  match vqCheck q d true with
  | some code => ngExec i code q d.base s
  | none =>
    let n := qN q.word * 128
    let (i0, r) := originOf q.sa
    match spadFault i (rowRanges d i0 n r) with
    | some e => accessNg i q.pc e s
    | none =>
      let t := tileAt s.c i
      let xs := (List.range n).map (fun k => (f32 (lane (vReg t (qVA q.word + k / 128)) (k % 128))).scale (qShift q.word))
      let (draws, s) := if fld q.word 32 1 = 1 then (fun (x : List Nat × State) => (some x.1, x.2)) (takeDraws i 1 n s) else (none, s)
      let s := onCtl (tileCount i 19 (qN q.word)) s
      convertRows i d (fld q.word 30 2 == 1) [{ r := r, i0 := i0, xs := xs, draws := draws }] s

def formVqDequant (w : BitVec 64) : OpForm := { rsvOk := fz w 0 22 && fz w 30 3, valid := vqValid w, descs := [fld w 42 4] }
def runVqDequant (i : Nat) (q : QItem) (s : State) : State :=
  let d := relocDesc s.c i q.db
  match vqCheck q d false with
  | some code => ngExec i code q d.base s
  | none =>
    let n := qN q.word * 128
    let (i0, r) := originOf q.sa
    match operandRead i (rowRanges d i0 n r) s with
    | (.error e, s) => accessNg i q.pc e s
    | (.ok (), s) =>
      let s := onCtl (tileCount i 19 (qN q.word)) s
      onTile i (fun t => (List.range (qN q.word)).foldl (fun t j =>
        setV (qVA q.word + j) (lanes (fun k =>
          toF32 ((f32 (toF32 (readElem (getByte s.mem) d (i0 + 128 * j + k) r).value)).scale (qShift q.word)))) t) t) s

end Sys2Proof.Machine
end

