-- ==== Sys2Proof/Machine/Matrix.lean ====
section
/-! DEFINITION. The matrix instructions (R177, R178, R186 to R194), accumulation (R220 to R223) and the capture of
streams for check takes (R241, R242). -/

namespace Sys2Proof.Machine

/-! ### Accumulation (R178, R220 to R223) -/

/-- The exact sums of the segments of one dot product, each with its scale factor, in increasing K order (R178). -/
def segments : List WElem → List WElem → Option (Nat × Nat × FVal × FVal) → List (FVal × FVal)
  | w :: ws, a :: as, cur =>
    let p := w.v.mul a.v
    match cur with
    | some (bw, ba, sum, f) =>
      if bw = w.blk ∧ ba = a.blk then segments ws as (some (bw, ba, sum.add p, f))
      else (sum, f) :: segments ws as (some (w.blk, a.blk, p, w.f.mul a.f))
    | none => segments ws as (some (w.blk, a.blk, p, w.f.mul a.f))
  | _, _, some (_, _, sum, f) => [(sum, f)]
  | _, _, none => []

/-- acc ← RNE(acc + σ × f) over the segments (R221, R222). -/
def accumulate (acc : Word) (segs : List (FVal × FVal)) : Word :=
  segs.foldl (fun acc s => toF32 ((f32 acc).add (s.1.mul s.2))) acc

/-- Compensated accumulation (R223): running sum and running error. -/
def accumulateComp (sum err : Word) (segs : List (FVal × FVal)) : Word × Word :=
  segs.foldl (fun (p : Word × Word) s =>
    let x := s.1.mul s.2
    let exact := (f32 p.1).add x
    let t := toF32 exact
    match f32 t with
    | .fin _ _ _ => (t, toF32 ((f32 p.2).add (exact.add (f32 t).negate)))
    | _ => (t, 0)) (sum, err)

/-! ### Fields (R184) -/

def xDA (w : BitVec 64) : Nat := fld w 48 4
def xDB (w : BitVec 64) : Nat := fld w 44 4
def xACC (w : BitVec 64) : Nat := fld w 41 3
def xSA (w : BitVec 64) : Nat := fld w 36 5

/-- The rank a matrix instruction takes (R183). -/
def mxRank (d : Desc) : Bool := d.rank == 1 || d.rank == 2

/-- The origin a matrix instruction takes (R183). -/
def mxOrigin (q : QItem) (d : Desc) : Bool := (originOf q.sa).1 % originMultiple d.fmt false == 0

/-! ### mx.wload, mx.swap (R186, R187) -/

def formMxWload (w : BitVec 64) : OpForm :=
  { rsvOk := fz w 32 4 && fz w 44 4 && fz w 41 3 && fz w 0 32, descs := [xDA w] }

def runMxWload (i : Nat) (q : QItem) (s : State) : State :=
  let d := relocDesc s.c i q.da
  match mxRank d, loadDepth d.fmt with
  | true, some kw =>
    if !mxOrigin q d then ngExec i 0x020A q d.base s
    else
      let (i0, r0) := originOf q.sa
      let rs := (List.range 128).flatMap (fun n => rowRanges d i0 kw (r0 + n))
      match operandRead i rs s with
      | (.error e, s) => accessNg i q.pc e s
      | (.ok (), s) =>
        let rd := getByte s.mem
        let cols := (List.range 128).map (fun n => (List.range kw).map (fun k => readElem rd d (i0 + k) (r0 + n)))
        let bad := if d.fmt = 0x11 then
          sumNat ((List.range 128).map (fun n => ((List.range kw).filter (fun k => kt2Invalid rd d i0 (i0 + k) (r0 + n))).length)) else 0
        let t := tileAt s.c i
        let lost := t.shadow.valid && !t.shadow.swapped
        let s := onCtl (fun c =>
          let c := tileCount i 13 1 (tileCount i 54 bad c)
          when lost (fun c => tileCount i 79 1 (raise (Reg.TL_TENSOR_EVENTS_SHADOW_REPLACED i) c)) c) s
        onTile i (fun t => { t with shadow := {
          valid := true, used := false, swapped := false, fmt := d.fmt, split := d.split, depth := kw, cols := cols,
          raw := rs.flatMap (fun r => getBytes s.mem r.1 r.2) } }) s
  | _, _ => ngExec i 0x0202 q 0 s

def formMxSwap (w : BitVec 64) : OpForm := { rsvOk := fz w 0 52 }

def runMxSwap (i : Nat) (_ : QItem) (s : State) : State :=
  onCtl (tileCount i 14 1) (onTile i (fun t => { t with active := { t.shadow with swapped := true }, shadow := t.active }) s)

/-! ### mx.stream (R188) and check capture (R241 to R243) -/

def formMxStream (w : BitVec 64) : OpForm :=
  { rsvOk := fz w 32 4 && fz w 44 4 && fz w 10 22,
    valid := decide (fld w 0 8 ≤ 127) && !(bit w.toNat 9 && xACC w % 2 == 1), descs := [xDA w] }

/-- The checker tile of a stream of tile `i`: tile p of the spare row of the first die in the order d, d XOR 1,
d XOR 2, d XOR 4 whose spare row is free and in service (R243). -/
def checkerFor (c : Ctl) (i : Nat) : Option Nat :=
  let d := dieOf i
  let dies := [d, Nat.xor d 1, Nat.xor d 2, Nat.xor d 4]
  (dies.map (fun k => 192 + 4 * k + i % 4)).find? (fun k =>
    !c.flt.outC.contains ((k - 192) / 4) && !c.share.spareTaken.contains ((k - 192) / 4) && !c.share.checkersOut.contains k)

/-- The checks pending in the check area of a C-die (R242). -/
def pendingChecks (c : Ctl) (die : Nat) : Nat := (c.share.checks.filter (fun x => dieOf x.tile == die)).length

/-- The check area of a C-die: the first 32 MiB of unit 15 of its even S-die (R242, R256), 1 MiB for each pending check; where in it a
capture lies, and the order of its bytes, are the model's choice (log entry 58). -/
def checkBase (die slot : Nat) : Nat := sramBase + (64 * die + 15) * 0x4000000 + slot * 2 ^ 20

/-- The lowest free place of a check area. -/
def checkSlot (c : Ctl) (die : Nat) : Nat :=
  ((List.range 32).find? (fun k => !c.share.checks.any (fun x => dieOf x.tile == die && x.slot == k))).getD 0

/-- The bytes of rows of words. -/
def wordBytes (l : List (List Word)) : List Byte := l.flatMap (fun r => r.flatMap (fun w => leBytes 4 w.toNat))

/-- A capture: the weight window, the activation rows with their scales, the prior rows where they are added to, the resulting rows; both
sets of each in compensated mode (R242). -/
def captureBytes (x : Check) (weights acts : List Byte) : List Byte :=
  weights ++ acts ++ (if x.accum then wordBytes x.prior ++ (if x.comp then wordBytes x.priorErr else []) else [])
    ++ wordBytes x.result ++ wordBytes x.resultErr

/-- Store a capture and hold its check as pending. -/
def capture (x : Check) (weights acts : List Byte) (s : State) : State :=
  let s := setMem (putRange (checkBase (dieOf x.tile) x.slot) (captureBytes x weights acts)) s
  onCtl (fun c => { c with share := { c.share with checks := c.share.checks ++ [x], nextId := c.share.nextId + 1 } }) s

/-- Select a stream for checking (R241): the generator steps once; the top K bits of the new state are zero. -/
def selectCheck (i : Nat) (s : State) : Option (Nat × DWord) × State :=
  match takeOn s.c i with
  | none => (none, s)
  | some (_, t) =>
    if t.checkK < 6 then (none, s)
    else
      let x := stepGen (genOf (tileAt s.c i) 3)
      let s := onTile i (setGen 3 x) s
      if x.toNat / 2 ^ (64 - t.checkK) ≠ 0 then (none, s)
      else
        match checkerFor s.c i with
        | some k => if pendingChecks s.c (dieOf i) < 32 then (some (k, x), onCtl (tileCount i 55 1) s) else (none, onCtl (tileCount i 58 1) s)
        | none => (none, onCtl (tileCount i 58 1) s)

/-- One row through the array: the new sum row and error row. -/
def streamRow (cols : List (List WElem)) (kw : Nat) (acts : List WElem) (comp : Bool) (sum err : List Word) : List Word × List Word :=
  let r := (List.range 128).map (fun n =>
    let segs := segments ((cols.getD n []).take kw) acts none
    if comp then accumulateComp (lane sum n) (lane err n) segs else (accumulate (lane sum n) segs, lane err n))
  (r.map (fun p => p.1), r.map (fun p => p.2))

def runMxStream (i : Nat) (q : QItem) (s : State) : State :=
  let d := relocDesc s.c i q.da
  let t := tileAt s.c i
  let rows := fld q.word 0 8 + 1
  let accum := bit q.word.toNat 8
  let comp := bit q.word.toNat 9
  let n := xACC q.word
  let (pick, s) := selectCheck i s
  let packedOnly := fun (fmt : Nat) (split : Bool) => split && (fmt == 0x10 || fmt == 0x11)
  if !mxRank d || !t.active.valid then ngExec i 0x0202 q 0 s
  else match streamDepth t.active.fmt d.fmt with
      | none => ngExec i 0x0202 q 0 (onCtl (raise (Reg.TL_TENSOR_EVENTS_FORMAT_PAIR i)) s)
      | some kw =>
        if packedOnly d.fmt d.split || packedOnly t.active.fmt t.active.split || decide (kw > t.active.depth) then ngExec i 0x0202 q 0 s
        else if !mxOrigin q d then ngExec i 0x020A q d.base s
        else
          let (i0, r0) := originOf q.sa
          let rs := (List.range rows).flatMap (fun j => rowRanges d i0 kw (r0 + j))
          match operandRead i rs s with
          | (.error e, s) => accessNg i q.pc e s
          | (.ok (), s) =>
            let rd := getByte s.mem
            let acts := (List.range rows).map (fun j => (List.range kw).map (fun k => readElem rd d (i0 + k) (r0 + j)))
            let prior := (List.range rows).map (fun j => if accum then accRow t n j else zeroLanes)
            let priorErr := (List.range rows).map (fun j => if accum && comp then accRow t (n + 1) j else zeroLanes)
            let res := (List.range rows).map (fun j =>
              streamRow t.active.cols kw (acts.getD j []) comp (prior.getD j zeroLanes) (priorErr.getD j zeroLanes))
            let s := onTile i (fun u =>
              let u := (List.range rows).foldl (fun u j =>
                let u := setAccRow n j (res.getD j ([], [])).1 u
                if comp then setAccRow (n + 1) j (res.getD j ([], [])).2 u else u) u
              { u with
                       accWritten := Nat.lor u.accWritten (Nat.lor (2 ^ n) (if comp then 2 ^ (n + 1) else 0)),
                       active := { u.active with used := true } }) s
            let s := onCtl (fun c => tileCount i 12 1 (tileCount i 6 (rows * kw * 128 / 1024) c)) s
            match pick, takeOn s.c i with
            | some (k, x), some (key, _) =>
              let ch : Check := {
                id := s.c.share.nextId, take := key, tile := i, pc := q.pc, checker := k, slot := checkSlot s.c (dieOf i), rows := rows, acc := n,
                accum := accum, comp := comp, wideRow := bits x.toNat 40 8 % rows, actFmt := d.fmt,
                weights := t.active.cols.map (fun l => l.take kw), acts := acts, prior := prior, priorErr := priorErr,
                result := res.map (fun p => p.1), resultErr := if comp then res.map (fun p => p.2) else [] }
              capture ch t.active.raw (rs.flatMap (fun r => getBytes s.mem r.1 r.2)) s
            | _, _ => s

/-! ### mx.drain, mx.zero (R189, R190, R193) -/

def formMxDrain (w : BitVec 64) : OpForm :=
  { rsvOk := fz w 32 4 && fz w 48 4 && fz w 13 3,
    valid := decide (fld w 0 8 ≤ 127) && !(bit w.toNat 10 && xACC w % 2 == 1) && (bit w.toNat 12 || fz w 16 8), descs := [xDB w] }

/-- The value a drain reads for a column of a row (R189, R223). -/
def drainValue (t : Tile) (n j k : Nat) (comp : Bool) : FVal :=
  let a := f32 (lane (accRow t n j) k)
  if comp then
    match a with
    | .fin _ _ _ => a.add (f32 (lane (accRow t (n + 1) j) k))
    | v => v
  else a

/-- mx.drain but for its relay: converts the rows and writes them. Gives the ranges of each row written, for the relay,
and none where the take ended. -/
def drainRows (i : Nat) (q : QItem) (s : State) : Option (List (Nat × Nat)) × State :=
  let d := relocDesc s.c i q.db
  let rows := fld q.word 0 8 + 1
  let n := xACC q.word
  let delayed := bit q.word.toNat 8
  let stoch := bit q.word.toNat 9
  let comp := bit q.word.toNat 10
  let shift := sext 8 (fld q.word 24 8)
  if mxRank d = false ∨ d.fmt = 0x11 ∨ (delayed = true ∧ isBlock d.fmt = false) ∨ (stoch = true ∧ d.fmt = 0) then (none, ngExec i 0x0202 q 0 s)
  else if !mxOrigin q d then (none, ngExec i 0x020A q d.base s)
  else
      let (i0, r0) := originOf q.sa
      let rs := (List.range rows).flatMap (fun j => rowRanges d i0 128 (r0 + j))
      match spadFault i rs with
      | some e => (none, accessNg i q.pc e s)
      | none =>
        let t := tileAt s.c i
        let (draws, s) := if stoch then takeDraws i 0 (rows * 128) s else ([], s)
        let rws := (List.range rows).map (fun j =>
          { r := r0 + j, i0 := i0, xs := (List.range 128).map (fun k => (drainValue t n j k comp).scale shift),
            draws := if stoch then some ((draws.drop (128 * j)).take 128) else none : ConvRow })
        let s := convertRows i d delayed rws s
        let s := onTile i (fun u =>
          if bit q.word.toNat 11 then
            (List.range rows).foldl (fun u j =>
              let u := setAccRow n j zeroLanes u
              if comp then setAccRow (n + 1) j zeroLanes u else u) u
          else u) s
        (some rs, onCtl (tileCount i 15 rows) s)

def formMxZero (w : BitVec 64) : OpForm :=
  { rsvOk := fz w 32 4 && fz w 36 16 && fz w 8 24, valid := !fz w 0 8 }

def runMxZero (i : Nat) (q : QItem) (s : State) : State :=
  let mask := fld q.word 0 8
  onTile i (fun t =>
    { t with acc := t.acc.filter (fun e => !bit mask (e.1 / 128)),
             accWritten := (List.range 8).foldl (fun a k => if bit mask k && bit a k then a - 2 ^ k else a) t.accWritten }) s

end Sys2Proof.Machine
end

