-- ==== Sys2Proof/Machine/Dolly.lean ====
section
/-! DEFINITION. The dolly instructions (R181, R204 to R207). -/

namespace Sys2Proof.Machine

/-! ### Fields (R184) -/

def dDA (w : BitVec 64) : Nat := fld w 48 4
def dDB (w : BitVec 64) : Nat := fld w 44 4
def dSA (w : BitVec 64) : Nat := fld w 39 5
def dSB (w : BitVec 64) : Nat := fld w 34 5

/-- An engine of the serving M-die runs a move or gather (R275). -/
def countMove (i : Nat) (s : State) : State :=
  onCtl (fun c => tileCount i 25 1 (modCount (288 + 16 * mdieOfTile i + 12) 1 (bump (Reg.DLY_DMA_MOVES_COUNT (mdieOfTile i)) 1 c))) s

/-- The pieces, as address and length, that one row of a tensor occupies: blocks with their entries, or one run of
elements (R180, R213). -/
def rowPieces (d : Desc) (i1 i2 i3 i4 : Nat) : List (Nat × Nat) :=
  let row := rowAddr d i1 i2 i3 i4
  if isBlock d.fmt then
    let l := if d.fmt = 0x10 then 64 else if d.fmt = 0x11 then 32 else 32 * elemBits d.fmt / 8
    let e := scaleEntry d.fmt
    (List.range (d.size 0 / blockLen d.fmt)).flatMap (fun b =>
      if d.split then [(row + l * b, l), (scaleAddr d b i1 i2 i3 i4, e)]
      else [(row + (l + e) * b, l), (row + (l + e) * b + l, e)])
  else [(row, rowBytes d)]

/-- How a pair of descriptors is moved (R205): bytes, elements, or not at all. -/
inductive MoveKind where
  | bytes | elements | refused
  deriving DecidableEq, Repr

def moveKind (a b : Desc) : MoveKind :=
  let plain := fun (f : Nat) => f == 0x00 || f == 0x01 || f == 0x03 || f == 0x04
  if a.fmt = b.fmt ∧ a.split = b.split then .bytes
  else if a.fmt = b.fmt ∧ (a.fmt = 0x10 ∨ a.fmt = 0x11) then .bytes
  else if plain a.fmt && plain b.fmt then .elements
  else .refused

/-- Copy pieces of equal lengths, in order, up to the first fault. -/
def copyPieces (i : Nat) : List ((Nat × Nat) × (Nat × Nat)) → State → Except (Nat × Nat) Unit × State
  | [], s => (.ok (), s)
  | (x, y) :: l, s =>
    match tileRead i x.1 x.2 s with
    | (.error e, s) => (.error e, s)
    | (.ok bs, s) =>
      match tileWrite i y.1 bs s with
      | (.error e, s) => (.error e, s)
      | (.ok (), s) => copyPieces i l s

/-- Convert one row of elements (R205, R224): the counts and the state, or the first fault. -/
def convertRow (i : Nat) (a b : Desc) (rnd : Bool) (x y : Nat) (s : State) : Except (Nat × Nat) ConvCounts × State :=
  let n := a.size 0
  let wa := elemBits a.fmt
  match tileRead i x (rowBytes a) s with
  | (.error e, s) => (.error e, s)
  | (.ok bs, s) =>
    let vals := (List.range n).map (fun k => (elemFmt a.fmt).decode (leAt bs (k * (wa / 8)) (wa / 8)))
    let (draws, s) := if rnd then takeDraws i 2 n s else ([], s)
    let convs := (List.range n).map (fun k =>
      convElem b.fmt (rndAt (if rnd then some draws else none) k) (vals.getD k .zero))
    match tileWrite i y (packCodes (elemBits b.fmt) (convs.map (fun c => c.code))) s with
    | (.error e, s) => (.error e, s)
    | (.ok (), s) => (.ok { countConvs convs with nan := (vals.filter FVal.isNan).length, elements := n }, s)

/-- Move rows, given as the indices of dimensions 1 to 4 in the source and in the destination. -/
def moveRows (i : Nat) (a b : Desc) (rnd : Bool) :
    List ((Nat × Nat × Nat × Nat) × (Nat × Nat × Nat × Nat)) → ConvCounts → State → Except (Nat × Nat) ConvCounts × State
  | [], k, s => (.ok k, s)
  | (x, y) :: l, k, s =>
    match moveKind a b with
    | .elements =>
      match convertRow i a b rnd (rowAddr a x.1 x.2.1 x.2.2.1 x.2.2.2) (rowAddr b y.1 y.2.1 y.2.2.1 y.2.2.2) s with
      | (.error e, s) => (.error e, s)
      | (.ok c, s) => moveRows i a b rnd l (k.add c) s
    | _ =>
      match copyPieces i ((rowPieces a x.1 x.2.1 x.2.2.1 x.2.2.2).zip (rowPieces b y.1 y.2.1 y.2.2.1 y.2.2.2)) s with
      | (.error e, s) => (.error e, s)
      | (.ok (), s) => moveRows i a b rnd l k s

/-- Count the conversions of a move under the destination's tensor ID (R205, R238). -/
def countMoved (i : Nat) (a b : Desc) (rows : Nat) (k : ConvCounts) (s : State) : State :=
  let s := onCtl (fun c => tileCount i 26 (ceilDiv (rows * rowBytes a) 64) (tileCount i 27 (ceilDiv (rows * rowBytes b) 64) c)) s
  if moveKind a b = .elements then
    let (e, t, evicted) := histIndex b.tid (tileAt s.c i)
    let s := onTile i (fun _ => setHist e (census k (histAt t e)) t) s
    onCtl (fun c =>
      let c := tileCount i 82 (b2n evicted) (tileCount i 83 (k.elements / 1024) c)
      tileCount i 48 k.sat (tileCount i 49 k.flush (tileCount i 51 k.nan c))) s
  else s

/-- Every row of a tensor, dimension 1 fastest. -/
def allRows (d : Desc) : List (Nat × Nat × Nat × Nat) :=
  (List.range (d.size 4)).flatMap (fun i4 => (List.range (d.size 3)).flatMap (fun i3 =>
    (List.range (d.size 2)).flatMap (fun i2 => (List.range (d.size 1)).map (fun i1 => (i1, i2, i3, i4)))))

def formDlyMove (w : BitVec 64) : OpForm :=
  { rsvOk := fz w 32 2 && fz w 34 10 && fz w 1 31, descs := [dDA w, dDB w] }

def runDlyMove (i : Nat) (q : QItem) (s : State) : State :=
  let a := relocDesc s.c i q.da
  let b := relocDesc s.c i q.db
  if (List.range 5).any (fun k => a.size k != b.size k) || moveKind a b == .refused then ngExec i 0x0202 q 0 s
  else
    let rows := (allRows a).map (fun r => (r, r))
    match moveRows i a b (bit q.word.toNat 0) rows ConvCounts.zero (countMove i s) with
    | (.error e, s) => accessNg i q.pc e s
    | (.ok k, s) => countMoved i a b rows.length k s

def formDlyGather (w : BitVec 64) : OpForm := { rsvOk := fz w 32 2 && fz w 1 31, descs := [dDA w, dDB w] }

/-- Read the index list entry by entry (R206). -/
def readIndices (i base limit : Nat) : Nat → List Nat → State → Except (Nat × Nat) (List Nat) × State
  | 0, acc, s => (.ok acc.reverse, s)
  | n + 1, acc, s =>
    let a := base + 4 * acc.length
    match tileRead i a 4 s with
    | (.error e, s) => (.error e, s)
    | (.ok bs, s) =>
      if leNat bs ≥ limit then (.error (0x0206, a), onCtl (raise (Reg.TL_TENSOR_EVENTS_INDEX_FAULT i)) s)
      else readIndices i base limit n (leNat bs :: acc) s

def runDlyGather (i : Nat) (q : QItem) (s : State) : State :=
  let a := relocDesc s.c i q.da
  let b := relocDesc s.c i q.db
  let n := q.sb.toNat
  let base := relocate s.c i q.sa.toNat
  if n = 0 ∨ n > 65536 ∨ n > b.size 1 ∨ a.rank ≠ 2 ∨ b.rank ≠ 2 ∨ a.size 0 ≠ b.size 0 ∨ moveKind a b = .refused then ngExec i 0x0202 q 0 s
  else if base % 4 ≠ 0 then ngExec i 0x020A q base s
  else
    match readIndices i base (a.size 1) n [] (countMove i s) with
    | (.error e, s) => accessNg i q.pc e s
    | (.ok idx, s) =>
      let s := onCtl (tileCount i 84 n) s
      let rows := ((List.range n).zip idx).map (fun e => ((e.2, 0, 0, 0), (e.1, 0, 0, 0)))
      match moveRows i a b (bit q.word.toNat 0) rows ConvCounts.zero s with
      | (.error e, s) => accessNg i q.pc e s
      | (.ok k, s) => countMoved i a b n k s

def formDlyDsc (w : BitVec 64) : OpForm := { rsvOk := fz w 32 5, descs := [fld w 48 4] }

/-- dly.dsc: loads 64 bytes, replaces Base when RB is set, and checks (R181). -/
def runDlyDsc (i : Nat) (q : QItem) (s : State) : State :=
  let a := relocate s.c i (effAddr q.sa (sfld q.word 0 32)).toNat
  let ends := fun (s : State) => when (takeOn s.c i).isSome (raise (Reg.TL_TENSOR_EVENTS_DESCRIPTOR_FAULT i)) s.c
  if a ≥ 2 ^ 48 then ngExec i 0x0206 q a { s with c := ends s }
  else
    match tileRead i a 64 s with
    | (.error e, s) => accessNg i q.pc e { s with c := ends s }
    | (.ok bs, s) =>
      let raw := leNat bs
      let raw := if bit q.word.toNat 37 then raw - raw % 2 ^ 64 + q.sb.toNat % 2 ^ 48 else raw
      let d : Desc := ⟨BitVec.ofNat 512 raw⟩
      match d.check with
      | some code => ngExec i code q a { s with c := ends s }
      | none => onTile i (setD (fld q.word 48 4) d) s

end Sys2Proof.Machine
end

