-- ==== Sys2Proof/Machine/Scalar.lean ====
section
/-! DEFINITION. The instructions the sequencer executes: scalar, branch, end, predicate (R143 to R148), sem.rd (R149),
cnt.rd (R162); and what the semaphore instructions do to a count. -/

namespace Sys2Proof.Machine

/-! ### Fields of the formats A, I, M, B, Y (R139) -/

def aSD (w : BitVec 64) : Nat := fld w 47 5
def aSA (w : BitVec 64) : Nat := fld w 42 5
def aSB (w : BitVec 64) : Nat := fld w 37 5
def aFN (w : BitVec 64) : Nat := fld w 31 6
def iFN (w : BitVec 64) : Nat := fld w 38 4
def iIMM (w : BitVec 64) : DWord := sfld w 0 32
def mSZ (w : BitVec 64) : Nat := fld w 40 2
def yFN (w : BitVec 64) : Nat := fld w 48 4
def yQ (w : BitVec 64) : Nat := fld w 43 5
def yUNIT (w : BitVec 64) : Nat := fld w 40 3
def ySA (w : BitVec 64) : Nat := fld w 35 5

/-- An instruction with its opcode forced: the row of the table that names it fixes bits [63:56]. -/
def sVal (s : State) (i n : Nat) : DWord := sReg (tileAt s.c i) n

/-! ### s.alu, s.lih (R143, R144) -/

/-- The operation of R143. -/
def aluOp (fn : Nat) (a b : DWord) : DWord :=
  match fn with
  | 0 => a + b
  | 1 => a - b
  | 2 => a &&& b
  | 3 => a ||| b
  | 4 => a ^^^ b
  | 5 => a <<< (b.toNat % 64)
  | 6 => a >>> (b.toNat % 64)
  | 7 => a.sshiftRight (b.toNat % 64)
  | 8 => a * b
  | 9 => BitVec.ofInt 64 (a.toInt * b.toInt / (2 ^ 64 : Nat))
  | 10 => if a.slt b then a else b
  | 11 => if a.slt b then b else a
  | 12 => if a < b then a else b
  | 13 => if a < b then b else a
  | 14 => if a.slt b then 1 else 0
  | _ => if a < b then 1 else 0

def formSAluReg (w : BitVec 64) : OpForm := { rsvOk := fz w 0 31 && decide (aFN w < 16), srcs := [aSA w, aSB w] }
def runSAluReg (i : Nat) (w : BitVec 64) (s : State) : State :=
  onTile i (setS (aSD w) (aluOp (aFN w) (sVal s i (aSA w)) (sVal s i (aSB w)))) s

def formSAluImm (w : BitVec 64) : OpForm := { rsvOk := fz w 32 6, srcs := [aSA w] }
def runSAluImm (i : Nat) (w : BitVec 64) (s : State) : State :=
  onTile i (setS (aSD w) (aluOp (iFN w) (sVal s i (aSA w)) (iIMM w))) s

def formSLih (w : BitVec 64) : OpForm := { rsvOk := fz w 32 15, srcs := [aSD w] }
def runSLih (i : Nat) (w : BitVec 64) (s : State) : State :=
  onTile i (setS (aSD w) (BitVec.ofNat 64 (fld w 0 32 * 2 ^ 32 + (sVal s i (aSD w)).toNat % 2 ^ 32))) s

/-! ### s.ld, s.st, s.amo (R145) -/

/-- The effective address of a scalar access. -/
def sAddr (s : State) (i : Nat) (w : BitVec 64) : Nat := (effAddr (sVal s i (aSA w)) (sfld w 0 32)).toNat

/-- The size of a scalar access in bytes. -/
def sSize (w : BitVec 64) : Nat := 2 ^ mSZ w

/-- The address of the instruction that runs: the one issued last. -/
def pcOf (s : State) (i : Nat) : Nat := (tileAt s.c i).lastPc

def formSLd (w : BitVec 64) : OpForm := { rsvOk := fz w 32 7, srcs := [aSA w] }
def runSLd (i : Nat) (w : BitVec 64) (s : State) : State :=
  let a := sAddr s i w
  let n := sSize w
  let s := onCtl (tileCount i 29 1) s
  match addrFault s.c i false a a n with
  | some e => accessNg i (pcOf s i) e s
  | none =>
    match tileRead i a n s with
    | (.error e, s) => accessNg i (pcOf s i) e s
    | (.ok bs, s) =>
      let v := leNat bs
      onTile i (setS (aSD w) (if bit w.toNat 39 then BitVec.ofInt 64 (sext (8 * n) v) else BitVec.ofNat 64 v)) s

def formSSt (w : BitVec 64) : OpForm := { rsvOk := fz w 32 8, srcs := [aSA w, aSD w] }
def runSSt (i : Nat) (w : BitVec 64) (s : State) : State :=
  let a := sAddr s i w
  let n := sSize w
  let s := onCtl (tileCount i 30 1) s
  match addrFault s.c i true a a n with
  | some e => accessNg i (pcOf s i) e s
  | none =>
    match tileWrite i a (leBytes n (sVal s i (aSD w)).toNat) s with
    | (.error e, s) => accessNg i (pcOf s i) e s
    | (.ok (), s) => s

/-- The operation of s.amo (R145). -/
def amoOp (fn : Nat) (old x : DWord) : DWord :=
  match fn with
  | 0 => x
  | 1 => old + x
  | 2 => old &&& x
  | 3 => old ||| x
  | 4 => if old.slt x then x else old
  | _ => if old.slt x then old else x

/-- The places s.amo reaches: scratchpads and bonded SRAM in scratch mode. -/
def amoPlace (c : Ctl) (a : Nat) : Bool :=
  match regionOf c a with
  | .spad _ => true
  | .sram u => !bit c.memory.cfg.unitMode u
  | _ => false

def formSAmo (w : BitVec 64) : OpForm :=
  { rsvOk := fz w 32 3 && decide (fld w 35 4 < 6), valid := mSZ w == 3, srcs := [aSA w, aSD w] }
def runSAmo (i : Nat) (w : BitVec 64) (s : State) : State :=
  let a := sAddr s i w
  let s := onCtl (tileCount i 30 1) s
  if (takeOn s.c i).isNone && (regionOf s.c a == .control || regionOf s.c a == .unmapped) then onTile i (setS (aSD w) 0) (onCtl (stray i a 8) s)
  else if !amoPlace s.c a then accessNg i (pcOf s i) (0x0206, a) s
  else
    match addrFault s.c i true a a 8 with
    | some e => accessNg i (pcOf s i) e s
    | none =>
      match tileRead i a 8 s with
      | (.error e, s) => accessNg i (pcOf s i) e s
      | (.ok bs, s) =>
        let old := BitVec.ofNat 64 (leNat bs)
        match tileWrite i a (leBytes 8 (amoOp (fld w 35 4) old (sVal s i (aSD w))).toNat) s with
        | (.error e, s) => accessNg i (pcOf s i) e s
        | (.ok (), s) => onTile i (setS (aSD w) old) s

/-! ### Branches (R146) -/

/-- The condition codes. -/
def condOk (cc : Nat) (a b : DWord) : Bool :=
  match cc with
  | 0 => true
  | 1 => a == b
  | 2 => a != b
  | 3 => a.slt b
  | 4 => !(a.slt b)
  | 5 => decide (a < b)
  | _ => !decide (a < b)

/-- PC + 8 × DISP. -/
def branchTarget (pc : Nat) (w : BitVec 64) : Nat := (BitVec.ofNat 64 pc + 8 * sfld w 0 32).toNat

/-- Continue at a target. -/
def jump (i target : Nat) (s : State) : State :=
  onCtl (tileCount i 67 1) (onTile i (fun t => { t with pc := target }) s)

def formBCond (w : BitVec 64) : OpForm := { rsvOk := fz w 32 6 && decide (fld w 38 4 < 7), srcs := [fld w 47 5, fld w 42 5] }
def runBCond (i : Nat) (w : BitVec 64) (s : State) : State :=
  if condOk (fld w 38 4) (sVal s i (fld w 47 5)) (sVal s i (fld w 42 5)) then jump i (branchTarget (pcOf s i) w) s else s

def formBLink (w : BitVec 64) : OpForm := { rsvOk := fz w 32 1 && fz w 38 14 }
def runBLink (i : Nat) (w : BitVec 64) (s : State) : State :=
  let pc := pcOf s i
  jump i (branchTarget pc w) (onTile i (setS (fld w 33 5) (BitVec.ofNat 64 (pc + 8))) s)

def formBReg (w : BitVec 64) : OpForm := { rsvOk := fz w 0 42, srcs := [aSA w] }
def runBReg (i : Nat) (w : BitVec 64) (s : State) : State :=
  let pc := pcOf s i
  let a := (sVal s i (aSA w)).toNat
  if a % 8 ≠ 0 then ngAt i 0x020A pc a s
  else jump i a (onTile i (setS (aSD w) (BitVec.ofNat 64 (pc + 8))) s)

/-! ### end (R147, R153) -/

def formEnd (w : BitVec 64) : OpForm := { rsvOk := fz w 0 52 }
def runEnd (i : Nat) (_ : BitVec 64) (s : State) : State :=
  match (tileAt s.c i).take with
  | none => onTile i (fun t => { t with ended := true }) s
  | some k =>
    let root := rootOf s.c k
    if (Map.get? s.c.share.clappers root).isSome then ngAt i 0x0207 (pcOf s i) 0 s
    else (gangOf s.c i).foldl (fun s j => onTile j (fun t => { t with ended := true }) s) s

/-! ### Predicates (R148) -/

def predAll (b : Bool) : BitVec 128 := if b then BitVec.allOnes 128 else 0

/-- Write a predicate of every member: the vector unit of each uses its own. -/
def setPred (i n : Nat) (v : Nat → BitVec 128) (s : State) : State :=
  (gangOf s.c i).foldl (fun s j => onTile j (fun t => setP n (v j) t) s) s

def formPCmp (w : BitVec 64) : OpForm := { rsvOk := fz w 50 2 && fz w 0 31 && decide (aFN w < 7), srcs := [aSA w, aSB w] }
def runPCmp (i : Nat) (w : BitVec 64) (s : State) : State :=
  let b := condOk (aFN w) (sVal s i (aSA w)) (sVal s i (aSB w))
  setPred i (fld w 47 3) (fun _ => predAll b) s

def formPCmpi (w : BitVec 64) : OpForm := { rsvOk := fz w 50 2 && fz w 32 6 && decide (iFN w < 7), srcs := [aSA w] }
def runPCmpi (i : Nat) (w : BitVec 64) (s : State) : State :=
  let b := condOk (iFN w) (sVal s i (aSA w)) (iIMM w)
  setPred i (fld w 47 3) (fun _ => predAll b) s

/-- p.log lane by lane. -/
def logOp (fn : Nat) (a b : BitVec 128) : BitVec 128 :=
  match fn with
  | 0 => a &&& b
  | 1 => a ||| b
  | 2 => a ^^^ b
  | 3 => a &&& (~~~ b)
  | _ => ~~~ a

def formPLog (w : BitVec 64) : OpForm :=
  { rsvOk := fz w 50 2 && fz w 45 2 && fz w 40 2 && fz w 0 31 && decide (aFN w < 5) }
def runPLog (i : Nat) (w : BitVec 64) (s : State) : State :=
  let t := fun j => tileAt s.c j
  setPred i (fld w 47 3) (fun j => logOp (aFN w) (pReg (t j) (fld w 42 3)) (pReg (t j) (fld w 37 3))) s

/-! ### Semaphores (R149 to R151, R173) -/

/-- The value checks the semaphore instructions share. -/
def semAllowed (c : Ctl) (i : Nat) (w : BitVec 64) : Bool := decide (yQ w < 24) || sharedAllowed c i

def formSemPost (c : Ctl) (i : Nat) (w : BitVec 64) : OpForm :=
  { rsvOk := fz w 32 3 && fz w 16 16, valid := !fz w 0 16 && decide (yUNIT w < 6) && semAllowed c i w }

def formSemWait (c : Ctl) (i : Nat) (w : BitVec 64) : OpForm := formSemPost c i w

def formSemRd (c : Ctl) (i : Nat) (w : BitVec 64) : OpForm :=
  { rsvOk := fz w 32 3 && fz w 16 16, valid := yUNIT w == 0 && semAllowed c i w }

def runSemRd (i : Nat) (w : BitVec 64) (s : State) : State :=
  onTile i (setS (ySA w) (BitVec.ofNat 64 (semCount s.c i (yQ w)))) s

/-- A post takes effect on one tile; a count above 65,535 ends the take (R149). -/
def postOn (i n k pc : Nat) (w : BitVec 64) (s : State) : State :=
  match postSem i n k s with
  | some s => s
  | none => ngAt i 0x0202 pc w.toNat s

/-- A wait on a set of tiles is met: each member's own count, or the shared one (R151, R173). -/
def waitMet (c : Ctl) (tiles : List Nat) (n k : Nat) : Bool := tiles.all (fun j => decide (k ≤ semCount c j n))

/-- Subtract a wait: every member's own count, or once from the shared one. -/
def waitTake (tiles : List Nat) (n k : Nat) (s : State) : State :=
  let ts := if n < 24 then tiles else tiles.take 1
  ts.foldl (fun s j => setSem j n (semCount s.c j n - k) s) s

/-- A post in the sequencer: each member of a gang posts its own count (log entry 46), a shared one once. -/
def runSemPostNow (i : Nat) (w : BitVec 64) (s : State) : State :=
  let ts := if yQ w < 24 then gangOf s.c i else [i]
  ts.foldl (fun s j => postOn j (yQ w) (fld w 0 16) (pcOf s i) w s) s

/-! ### cnt.rd (R162) -/

/-- The reel of the take on a tile may read counters. -/
def countersAllowed (c : Ctl) (i : Nat) : Bool :=
  match takeOn c i with
  | none => true
  | some (_, t) => reelFlag c t Reg.AD_REEL_CFG_COUNTERS_READ

def formCntRd (c : Ctl) (i : Nat) (w : BitVec 64) : OpForm :=
  let n := fld w 0 10
  let last := if bit w.toNat 15 then 1023 else 95
  { rsvOk := fz w 32 6 && fz w 42 5 && fz w 10 5 && fz w 16 16 && decide (iFN w < 2),
    crewOnly := !countersAllowed c i,
    valid := decide (n ≤ last) && !(iFN w == 1 && n == last) }

def runCntRd (i : Nat) (w : BitVec 64) (s : State) : State :=
  let n := fld w 0 10
  let get := fun (k : Nat) => if bit w.toNat 15 then (if modReserved k then 0 else rd s.c (Reg.CNT_COUNT k)) else rd s.c (Reg.TL_CNT_COUNT i k)
  let v := if iFN w = 0 then get n else get n + 2 ^ 32 * get (n + 1)
  onTile i (setS (aSD w) (BitVec.ofNat 64 v)) s

end Sys2Proof.Machine
end

