-- ==== Sys2Proof/Machine/Fabric.lean ====
section
/-! DEFINITION. The Wilef fabric: packets (R304 to R306), the route table and isolation (R307 to R311), contexts at the
source and at the destination (R312 to R322), messages (R157 to R161), fencing (R326). -/

namespace Sys2Proof.Machine

/-! ### Packets (R304, R305, R306) -/

/-- Header, payload and trailer of a packet. -/
def pktBytes (p : Pkt) : List Byte :=
  let w0 := p.dst % 4096 + 2 ^ 16 * (p.src % 4096) + 2 ^ 32 * (p.slice % 4096) + 2 ^ 44 * (p.tc % 8) + 2 ^ 48 * (p.typ % 32)
    + 2 ^ 53 * (p.len % 128) + 2 ^ 60 * b2n p.opn + 2 ^ 61 * b2n p.last + 2 ^ 62 * b2n p.ecn + 2 ^ 63 * b2n p.echo
  let body := leBytes 8 w0 ++ leBytes 4 p.msgId ++ leBytes 4 p.seq ++ leBytes 2 p.gen ++ leBytes 1 p.entropy ++ [0]
    ++ leBytes 6 p.addr ++ leBytes 3 p.arg ++ [0, 0, 0] ++ p.payload
  body ++ leBytes 8 (crc64 body).toNat

/-- TC, LEN and ARG are those of the packet's type (R306). -/
def typeOk (typ tc len arg : Nat) : Bool :=
  match typ with
  | 1 => decide (tc < 3 ∧ 1 ≤ len ∧ arg = 0)
  | 2 => decide (tc < 3 ∧ len = 1 ∧ arg = 0)
  | 3 | 4 => decide (tc = 2 ∧ len = 0 ∧ arg < 4)
  | 5 => decide (tc = 2 ∧ len = 0 ∧ arg < 2 ^ 16 ∧ arg % 256 < 4)
  | 6 => decide (tc = 1)
  | 7 => decide (tc = 2 ∧ 1 ≤ len ∧ len ≤ 4 ∧ arg = 0)
  | 8 => decide (tc = 3 ∧ len = 1 ∧ arg = 0)
  | 9 => decide (tc = 3 ∧ len = 0 ∧ arg = 0)
  | _ => false

/-- A packet from its bytes; none where CRC, LEN, TYPE or a reserved bit is bad (R304 to R306). A TC, LEN or ARG other than its
type's counts as a bad type (DESIGN CHOICE, log entry 58). -/
def parsePkt (bs : List Byte) : Option Pkt :=
  let w0 := leAt bs 0 8
  let len := bits w0 53 7
  let n := 32 + 64 * len
  let typ := bits w0 48 5
  let good := decide (len ≤ 64) && bs.length == n + 8 && leAt bs n 8 == (crc64 (bs.take n)).toNat &&
    bits w0 12 4 == 0 && bits w0 28 4 == 0 && bits w0 47 1 == 0 && typeOk typ (bits w0 44 3) len (leAt bs 26 3) &&
    leAt bs 19 1 == 0 && leAt bs 29 3 == 0
  if good then
    some { dst := bits w0 0 12, src := bits w0 16 12, slice := bits w0 32 12, tc := bits w0 44 3, typ := typ, len := len,
           opn := bit w0 60, last := bit w0 61, ecn := bit w0 62, echo := bit w0 63, msgId := leAt bs 8 4, seq := leAt bs 12 4,
           gen := leAt bs 16 2, entropy := leAt bs 18 1, addr := leAt bs 20 6, arg := leAt bs 26 3, payload := sub bs 32 (64 * len) }
  else none

/-! ### Routes and isolation -/

def ownPhys (c : Ctl) : Nat := rd c Reg.FAB_ID_PHYS
def rtPhys (c : Ctl) (n : Nat) : Nat := rd c (Reg.FAB_RT_ENTRY_PHYS n)
def rtValid (c : Ctl) (n : Nat) : Bool := rdb c (Reg.FAB_RT_ENTRY_VALID n)
def rtFenced (c : Ctl) (n : Nat) : Bool := rdb c (Reg.FAB_RT_ENTRY_FENCED n)

/-- The valid route entries, in order. -/
def rtEntries (c : Ctl) : List Nat := (List.range 4096).filter (fun n => rtValid c n)

/-- This module's logical IDs: the entries that map to its physical ID. -/
def ownLogical (c : Ctl) : Nat := ((rtEntries c).find? (fun n => rtPhys c n == ownPhys c)).getD 0xFFFF

/-- A logical ID names this module (R308). -/
def isLocal (c : Ctl) (m : Nat) : Bool := m == 0xFFFF || (decide (m < 4096) && rtValid c m && rdb c Reg.FAB_ID_VALID && rtPhys c m == ownPhys c)

/-- F-dies in service and the owner of a context (R312). -/
def fdiesUp (c : Ctl) : List Nat := (List.range 6).filter (fun f => bit (rd c Reg.FAB_STATUS_FDIES) f)
def ownerOf (c : Ctl) (phys : Nat) : Nat := (fdiesUp c).getD (phys % Nat.max 1 (fdiesUp c).length) 0

def portsUp (c : Ctl) : List Nat := (List.range 18).filter (fun q => rd c (Reg.FAB_PORT_STATE_STATE q) == 3)

def countF (f i k : Nat) (c : Ctl) : Ctl := modCount (192 + 16 * f + i) k c

def senderAllowed (c : Ctl) (src : Nat) : Bool := bit (Map.getD 0 c.fab.allow (src / 32)) (src % 32)

/-- Whether the module takes a packet in (R310), and the count of one it drops. -/
def accepts (src slice : Nat) (c : Ctl) : Bool × Ctl :=
  if !rdb c Reg.FAB_ID_VALID || slice != sliceNow c || sliceNow c == 0 || !senderAllowed c src then
    (false, bump Reg.FAB_DROP_SLICE_COUNT 1 c)
  else if (List.range 4096).any (fun n => rtFenced c n && rtPhys c n == src) then (false, bump Reg.FAB_DROP_FENCED_COUNT 1 c)
  else (true, c)

/-- The route table, the bitmap or the slice changed: the hash is no longer current (R311). -/
def routeChanged (c : Ctl) : Ctl := wr Reg.FAB_STATUS_RT_HASH_VALID 0 c

/-! ### Sending -/

/-- A port in proportion to the spray weights, by a free value; another than `avoid` where one is in service (R314, R319). -/
def pickPort (avoid : Option Nat) (c : Ctl) : Option Nat × Ctl :=
  let ps := portsUp c
  let ps := match avoid with
    | some a => if (ps.filter (fun q => q != a)).isEmpty then ps else ps.filter (fun q => q != a)
    | none => ps
  let (w, c) := fresh c
  let ws := ps.map (fun q => (q, rd c (Reg.FAB_PORT_WEIGHT_WEIGHT q)))
  let total := sumNat (ws.map (fun e => e.2))
  let r := w.toNat % Nat.max 1 total
  let res := ws.foldl (fun (a : Nat × Option Nat) e =>
    match a.2 with
    | some _ => a
    | none => if a.1 < e.2 then (0, some e.1) else (a.1 - e.2, none)) (r, none)
  ((match res.2 with
    | some q => some q
    | none => ps.head?), c)

/-- The port a packet goes out on: none before FAB_ID is valid (R307) or while no port is up. -/
def portFor (avoid : Option Nat) (c : Ctl) : Option Nat × Ctl := if !rdb c Reg.FAB_ID_VALID then (none, c) else pickPort avoid c

/-- A packet goes out on a port, with entropy of the generator of the F-die (R314). -/
def outOn (q : Nat) (o : Nat → Out) (phys : Nat) (c : Ctl) : Ctl :=
  let (e, c) := fresh c
  emit (o (e.toNat % 256)) (countF (ownerOf c phys) 0 1 (bump (Reg.FAB_PORT_TX_PKTS_COUNT q) 1 c))

/-- Put a packet on a port, 18 where there is none. -/
def putOnPort (avoid : Option Nat) (o : Nat → Out) (phys : Nat) (c : Ctl) : Nat × Ctl :=
  match portFor avoid c with
  | (none, c) => (18, c)
  | (some q, c) => (q, outOn q o phys c)

/-- A packet without a context: ACK, NAK, REFUSE (R306, R318, R319, R161). -/
def sendControl (typ phys seq gen arg msgId : Nat) (echo : Bool) (c : Ctl) : Ctl :=
  let p : Pkt := {
    dst := phys, src := ownPhys c, slice := sliceNow c, tc := 2, typ := typ, len := 0, opn := false, last := false, ecn := false,
    echo := echo, msgId := msgId, seq := seq, gen := gen, entropy := 0, addr := 0, arg := arg, payload := [] }
  (putOnPort none (fun e => .packet phys (pktBytes { p with entropy := e })) phys c).2

/-- A cut or DEPART packet goes out on every port in service (R315). -/
def sendEverywhere (typ phys msgId : Nat) (payload : List Byte) (c : Ctl) : Ctl :=
  if !rdb c Reg.FAB_ID_VALID then c
  else
    let p : Pkt := {
      dst := phys, src := ownPhys c, slice := sliceNow c, tc := 3, typ := typ, len := payload.length / 64, opn := false, last := true,
      ecn := false, echo := false, msgId := msgId, seq := 0, gen := moduleGen c, entropy := 0, addr := 0, arg := 0, payload := payload }
    forEach (portsUp c) (fun q c =>
      let (e, c) := fresh c
      emit (.packet phys (pktBytes { p with entropy := e.toNat % 256 })) (countF (ownerOf c phys) 0 1 (bump (Reg.FAB_PORT_TX_PKTS_COUNT q) 1 c))) c

/-- The next message count of a source (R304). -/
def nextCount (src : Nat) (c : Ctl) : Nat × Ctl :=
  let n := (Map.getD 0 c.fab.counts src + 1) % 2 ^ 24
  (n, { c with fab := { c.fab with counts := Map.put c.fab.counts src n } })

def setFabSrc (l : List SrcCtx) (c : Ctl) : Ctl := { c with fab := { c.fab with src := l } }
def setFabDst (l : List DstCtx) (c : Ctl) : Ctl := { c with fab := { c.fab with dst := l } }

def isSrc (phys cls : Nat) (x : SrcCtx) : Bool := x.dst == phys && x.cls == cls
def isDst (phys cls : Nat) (x : DstCtx) : Bool := x.src == phys && x.cls == cls

/-- The payload of a packet as its source gives it now (R319). -/
def bodyBytes (s : State) (b : Body) (len : Nat) : List Byte :=
  match b with
  | .mem i a => (List.range (64 * len)).map (fun k => tileByte s i (a + k))
  | .bytes l => l
  | .coll _ => []

/-- What goes out for a packet of a context, given its entropy. -/
def pktOut (phys cls : Nat) (x : SrcPkt) (s : State) (e : Nat) : Out :=
  match x.body with
  | .coll o => o
  | b => .packet phys (pktBytes {
    dst := phys, src := ownPhys s.c, slice := sliceNow s.c, tc := cls, typ := x.typ, len := x.len, opn := x.seq == 0, last := x.last,
    ecn := false, echo := false, msgId := x.msgId, seq := x.seq, gen := moduleGen s.c, entropy := e, addr := x.addr, arg := x.arg,
    payload := bodyBytes s b x.len })

/-- Send one packet of a context, on a port other than the one last used when it is sent again. -/
def sendPkt (phys cls : Nat) (x : SrcPkt) (s : State) : SrcPkt × State :=
  let (q, c) := putOnPort (if x.port < 18 then some x.port else none) (pktOut phys cls x s) phys s.c
  ({ x with port := q, sentAt := now s.c }, { s with c := c })

/-- The context of a destination and class, opened where it is not. -/
def srcCtx (phys cls : Nat) (c : Ctl) : SrcCtx :=
  (c.fab.src.find? (isSrc phys cls)).getD { dst := phys, cls := cls, next := 0, unacked := [], backlog := [], at_ := now c }

def putSrc (x : SrcCtx) (c : Ctl) : Ctl := setFabSrc (c.fab.src.filter (fun y => !isSrc x.dst x.cls y) ++ [x]) c

/-- Give a packet to its context, which opens where it is not: numbered, and sent by `send` while fewer than 4,096 are
unacknowledged (R313). -/
def queueBy (send : SrcPkt → State → SrcPkt × State) (phys cls : Nat) (x : SrcPkt) (s : State) : State :=
  let ctx := srcCtx phys cls s.c
  let x := { x with seq := ctx.next }
  let ctx := { ctx with next := (ctx.next + 1) % 2 ^ 32, at_ := now s.c }
  if ctx.unacked.length < 4096 then
    let (x, s) := send x s
    onCtl (putSrc { ctx with unacked := ctx.unacked ++ [x] }) s
  else onCtl (putSrc { ctx with backlog := ctx.backlog ++ [x] }) s

def queuePkt (phys cls : Nat) (x : SrcPkt) (s : State) : State := queueBy (sendPkt phys cls) phys cls x s

/-- Send what the window now admits. -/
def pumpCtx (phys cls : Nat) (s : State) : State :=
  match s.c.fab.src.find? (isSrc phys cls) with
  | none => s
  | some ctx =>
    let room := 4096 - ctx.unacked.length
    let go := ctx.backlog.take room
    let (sent, s) := go.foldl (fun (a : List SrcPkt × State) x =>
      let (y, t) := sendPkt phys cls x a.2
      (a.1 ++ [y], t)) ([], s)
    onCtl (setFabSrc (s.c.fab.src.map (fun y =>
      if isSrc phys cls y then { y with unacked := y.unacked ++ sent, backlog := y.backlog.drop room } else y))) s

/-! ### Control traffic of the AD (R37, R118) -/

/-- The packets of one message: CTRL packets of the control class, at most 256 bytes each, the last marked (R306). The payload
is kind, length and bytes, padded with zeros to 64-byte units (log entry 29). -/
def ctlPackets (id kind : Nat) (bytes : List Byte) : List SrcPkt :=
  let raw := leBytes 2 kind ++ leBytes 2 bytes.length ++ bytes
  let n := ceilDiv raw.length 256
  (List.range n).map (fun k =>
    let part := (raw.drop (256 * k)).take 256
    let len := ceilDiv part.length 64
    { seq := 0, typ := 7, last := k + 1 == n, len := len, msgId := 0xFF000000 + id, addr := 0, arg := 0,
      body := .bytes (part ++ List.replicate (64 * len - part.length) 0), owner := .ad, tries := 0, port := 18, sentAt := 0 })

/-- Send one message to the AD of another module: one that no valid entry names is gone, and the packets of one to a fenced entry
are dropped and counted (R326). -/
def sendCtl (kind dst : Nat) (bytes : List Byte) (s : State) : State :=
  if dst ≥ 4096 ∨ !rtValid s.c dst then s
  else if rtFenced s.c dst then onCtl (bump Reg.FAB_DROP_FENCED_COUNT (ctlPackets 0 kind bytes).length) s
  else
    let (id, c) := nextCount 0xFF s.c
    (ctlPackets id kind bytes).foldl (fun s x => queuePkt (rtPhys s.c dst) 2 x s) { s with c := c }

/-- Send what the AD has to tell other modules, in order. -/
def flushCtl (s : State) : State :=
  if s.c.ad.ctlDue.isEmpty then s
  else s.c.ad.ctlDue.foldl (fun s e => sendCtl e.1 e.2.1 e.2.2 s) { s with c := { s.c with ad := { s.c.ad with ctlDue := [] } } }

/-! ### Notifications (R159) -/

/-- Apply a notification here, or hold it: none where it was taken, or the reason of the refusal. -/
def applyNotice (slice step tile n : Nat) (c : Ctl) : Option Nat × Ctl :=
  let t := tileAt c tile
  let runs : Bool := match takeOn c tile with
    | some (_, k) => k.stepGroup == some step && sliceNow c == slice && k.st == TakeState.started
    | none => false
  if runs then
    let v := qReg t (16 + n) + 1
    if v > 65535 then (some 3, c)
    else (none, tileCount tile 45 1 (setTile tile (setQ (16 + n) v t) c))
  else if c.share.notices.length ≥ 256 then (some 2, c)
  else (none, { c with share := { c.share with notices := c.share.notices ++ [{ slice := slice, step := step, tile := tile, sem := n, frame := frameNow c }] } })

/-! ### Messages (R157, R158, R160, R161, R321) -/

/-- The step group of the take on a tile. -/
def stepOf (c : Ctl) (i : Nat) : Option Nat := (takeOn c i).bind (fun k => k.2.stepGroup)

/-- The checks of R157 and R158 on the register values. -/
def msgValues (c : Ctl) (i cls : Nat) (send : Bool) (sa sb sc : DWord) : Bool :=
  let len := sc.toNat % 2 ^ 32
  len % 64 == 0 && decide (64 ≤ len ∧ len ≤ 2 ^ 24) && sa.toNat % 64 == 0 && sb.toNat % 2 ^ 48 % 64 == 0 &&
    !(cls == 2 && decide (len > 256)) &&
    (if send then bits sc.toNat 43 21 == 0 && decide (bits sc.toNat 32 8 ≤ 191) && (stepOf c i).isSome else bits sc.toNat 32 32 == 0)

/-- A destination on this module outside the take's reach (R157). -/
def msgReach (c : Ctl) (i : Nat) (sb sc : DWord) : Option (Nat × Nat) :=
  match takeOn c i with
  | none => none
  | some (_, t) => if isLocal c (sb.toNat / 2 ^ 48) then reachFault c t true (relocate c i (sb.toNat % 2 ^ 48)) (sc.toNat % 2 ^ 32) else none

def setMsgs (i : Nat) (f : List OutMsg → List OutMsg) (c : Ctl) : Ctl := setTile i { tileAt c i with msgs := f (tileAt c i).msgs } c

/-- Give a message's packets to the fabric; a poisoned source ends the take. -/
def beginMsg (i : Nat) (m : OutMsg) (s : State) : State :=
  let s := onCtl (setMsgs i (fun l => l.map (fun x => if x.id = m.id then { x with begun := true } else x))) s
  match tileRead i m.src m.len s with
  | (.error e, s) => accessNg i m.pc e s
  | (.ok _, s) =>
    let phys := rtPhys s.c m.dst
    let n := ceilDiv m.len 4096
    let mk := fun (k : Nat) =>
      let l := Nat.min 4096 (m.len - 4096 * k)
      ({ seq := 0, typ := 1, last := m.notify.isNone && k + 1 == n, len := l / 64, msgId := 2 ^ 24 * i + m.id, addr := m.addr + 4096 * k, arg := 0,
         body := .mem i (m.src + 4096 * k), owner := .tile i m.id, tries := 0, port := 18, sentAt := 0 } : SrcPkt)
    let s := (List.range n).foldl (fun s k => queuePkt phys m.cls (mk k) s) s
    match m.notify with
    | none => s
    | some (t, k) =>
      let pay := leBytes 4 ((stepOf s.c i).getD 0) ++ [BitVec.ofNat 8 t, BitVec.ofNat 8 k] ++ List.replicate 58 0
      queuePkt phys m.cls { seq := 0, typ := 2, last := true, len := 1, msgId := 2 ^ 24 * i + m.id, addr := 0, arg := 0, body := .bytes pay,
                            owner := .tile i m.id, tries := 0, port := 18, sentAt := 0 } s

/-- Begin the messages of a tile that wait no longer: the earlier ones to the module are complete, or the one before is
begun and of the same class (R321). -/
def beginMsgs (i : Nat) (s : State) : State :=
  (tileAt s.c i).msgs.foldl (fun s m0 =>
    let l := (tileAt s.c i).msgs
    match l.find? (fun x => x.id == m0.id) with
    | none => s
    | some m =>
      if m.begun then s
      else
        let before := (l.takeWhile (fun x => x.id != m.id)).filter (fun x => x.dst == m.dst)
        match before.getLast? with
        | none => beginMsg i m s
        | some p => if p.begun && p.cls == m.cls then beginMsg i m s else s) s

/-- A message within the module lands at once (R308). -/
def localMsg (i : Nat) (pc : Nat) (q sa addr len : Nat) (notify : Option (Nat × Nat)) (s : State) : State :=
  match tileRead i sa len s with
  | (.error e, s) => accessNg i pc e s
  | (.ok bs, s) =>
    let s := if (takeOn s.c i).isNone && (List.range len).any (fun k => regionOf s.c (addr + k) == .control)
      then onCtl (raise (Reg.TL_EVENTS_CREW_REFUSED i)) s else s
    match bypassWrite addr bs s with
    | (some b, s) => ngAt i 0x0301 pc b s
    | (none, s) =>
      let s := match postSem i q 1 s with
        | some s => s
        | none => ngAt i 0x0202 pc 0 s
      match notify with
      | none => s
      | some (t, n) =>
        match applyNotice (sliceNow s.c) ((stepOf s.c i).getD 0) t n s.c with
        | (none, c) => { s with c := c }
        | (some _, c) => ngAt i 0x0404 pc 0xFFFF { s with c := c }

/-- msg.post and msg.send when the message queue starts them. -/
def runMsg (send : Bool) (i : Nat) (q : QItem) (s : State) : State :=
  let m := q.sb.toNat / 2 ^ 48
  let addr := q.sb.toNat % 2 ^ 48
  let len := q.sc.toNat % 2 ^ 32
  let sem := fld q.word 32 5
  let cls := fld q.word 30 2
  let src := relocate s.c i q.sa.toNat
  let notify := if send then some (bits q.sc.toNat 32 8, bits q.sc.toNat 40 3) else none
  let s := onCtl (fun c => tileCount i 43 1 (tileCount i 44 (len / 64) c)) s
  if isLocal s.c m then localMsg i q.pc sem src (relocate s.c i addr) len notify s
  else if m ≥ 4096 ∨ !rtValid s.c m then ngAt i 0x0404 q.pc m s
  else if rtFenced s.c m then ngAt i 0x0401 q.pc m s
  else
    let (n, c) := nextCount i s.c
    let x : OutMsg := {
      id := n, pc := q.pc, sem := sem, cls := cls, dst := m, src := src, addr := addr, len := len, notify := notify, begun := false }
    beginMsgs i (onCtl (setMsgs i (fun l => l ++ [x])) { s with c := c })

def formMsg (w : BitVec 64) : OpForm :=
  { rsvOk := fz w 0 30, valid := decide (fld w 32 5 < 24) && decide (fld w 30 2 < 3) }

/-- A message is complete: its semaphore is posted, in the order of issue, and held messages go on (R160, R318, R321). -/
def completeMsg (i n : Nat) (s : State) : State :=
  match (tileAt s.c i).msgs.find? (fun x => x.id == n) with
  | none => s
  | some m =>
    let s := onCtl (setMsgs i (fun l => l.filter (fun x => x.id != n))) s
    let s := match postSem i m.sem 1 s with
      | some s => s
      | none => ngAt i 0x0202 m.pc 0 s
    beginMsgs i s

/-- End the take of a message. -/
def failMsg (i n code : Nat) (s : State) : State :=
  match (tileAt s.c i).msgs.find? (fun x => x.id == n) with
  | none => s
  | some m => ngAt i code m.pc m.dst s

/-! ### Acknowledgement at the source (R318, R319, R322) -/

/-- Sequence `a` is at or before `b`. -/
def seqLe (a b : Nat) : Bool := decide ((b + 2 ^ 32 - a) % 2 ^ 32 < 2 ^ 31)

/-- The owners of packets: what an acknowledgement or a failure concerns. -/
def ownersOf (l : List SrcPkt) : List Owner := (l.map (fun x => x.owner)).eraseDups

/-- A cumulative ACK of a context: packets released, tiles' messages completed; gives the collective owners whose last
packet it covers. -/
def ackCtx (phys cls seq : Nat) (s : State) : List Owner × State :=
  match s.c.fab.src.find? (isSrc phys cls) with
  | none => ([], s)
  | some ctx =>
    let gone := ctx.unacked.filter (fun x => seqLe x.seq seq)
    let s := onCtl (setFabSrc (s.c.fab.src.map (fun y =>
      if isSrc phys cls y then { y with unacked := y.unacked.filter (fun x => !seqLe x.seq seq), at_ := now s.c } else y))) s
    let s := gone.foldl (fun s x => if x.last then (match x.owner with
      | .tile i n => completeMsg i n s
      | _ => s) else s) s
    (ownersOf (gone.filter (fun x => x.last)), pumpCtx phys cls s)

/-- The messages of owners end their takes in 0x0404; gives the collective owners. -/
def failOwners (os : List Owner) (s : State) : State :=
  os.foldl (fun s o => match o with
    | .tile i n => failMsg i n 0x0404 s
    | _ => s) s

def setReady (l : List (Nat × Nat × Nat × SrcPkt)) (c : Ctl) : Ctl := { c with fab := { c.fab with ready := l } }

/-- The owners of the collective packets that wait for a destination. -/
def readyOwners (phys : Nat) (c : Ctl) : List Owner := ownersOf ((c.fab.ready.filter (fun e => e.2.1 == phys)).map (fun e => e.2.2.2))

/-- Nothing waits for a destination any more. -/
def dropReady (p : Nat → Bool) (c : Ctl) : Ctl := setReady (c.fab.ready.filter (fun e => !p e.2.1)) c

/-- How many packets wait for a destination that has become fenced: they stop here (R326). -/
def waitingFor (phys : Nat) (c : Ctl) : Nat :=
  sumNat ((c.fab.src.filter (fun x => x.dst == phys)).map (fun x => x.backlog.length)) + (c.fab.ready.filter (fun e => e.2.1 == phys)).length

/-- Close source contexts that pass. -/
def closeSrc (p : SrcCtx → Bool) (c : Ctl) : Ctl := setFabSrc (c.fab.src.filter (fun x => !p x)) c

/-- Close destination contexts that pass. -/
def closeDst (p : DstCtx → Bool) (c : Ctl) : Ctl := setFabDst (c.fab.dst.filter (fun x => !p x)) c

/-- Retransmit a packet, or find its context unreachable (R319): the owners that then fail. -/
def resend (phys cls seq : Nat) (s : State) : List Owner × State :=
  match s.c.fab.src.find? (isSrc phys cls) with
  | none => ([], s)
  | some ctx =>
    match ctx.unacked.find? (fun x => x.seq == seq) with
    | none => ([], s)
    | some x =>
      if x.tries ≥ rd s.c Reg.FAB_REORDER_RETRY_LIMIT then
        let os := (ownersOf (ctx.unacked ++ ctx.backlog) ++ (if cls = 1 then readyOwners phys s.c else [])).eraseDups
        let s := onCtl (fun c => raise Reg.FAB_EVENTS_UNREACHABLE (bump Reg.FAB_UNREACH_COUNT 1
          (when (cls == 1) (dropReady (fun x => x == phys)) (closeSrc (isSrc phys cls) c)))) s
        (os, failOwners os s)
      else
        let (y, s) := sendPkt phys cls { x with tries := x.tries + 1 } s
        let s := onCtl (fun c => countF (ownerOf c phys) 4 1 (bump Reg.FAB_RETX_COUNT 1 c)) s
        ([], onCtl (setFabSrc (s.c.fab.src.map (fun z =>
          if isSrc phys cls z then { z with unacked := z.unacked.map (fun w => if w.seq = seq then y else w) } else z))) s)

/-! ### The destination (R316 to R318) -/

/-- Deliver a packet at its turn: DATA into the allotment, NOTIFY to its tile; refusals go back (R317). -/
def deliver (p : Pkt) (s : State) : State :=
  let refuse := fun (reason : Nat) (s : State) =>
    onCtl (fun c => raise Reg.FAB_EVENTS_REFUSED (sendControl 5 p.src p.seq p.gen (p.tc + 256 * reason) p.msgId false c)) s
  if p.typ = 1 then
    if (List.range p.payload.length).all (fun k => inAllotment s.c (p.addr + k)) then
      match bypassWrite p.addr p.payload s with
      | (none, s) => s
      | (some _, s) => refuse 1 s
    else refuse 1 s
  else if p.typ = 2 then
    match applyNotice p.slice (leAt p.payload 0 4) (leAt p.payload 4 1 % 192) (leAt p.payload 5 1 % 8) s.c with
    | (none, c) => { s with c := c }
    | (some r, c) => refuse r { s with c := c }
  else s

/-- Send the cumulative ACK of a destination context (R318, R325). -/
def ackNow (src cls : Nat) (s : State) : State :=
  match s.c.fab.dst.find? (isDst src cls) with
  | none => s
  | some x =>
    let s := onCtl (fun c => sendControl 3 src ((x.expect + 2 ^ 32 - 1) % 2 ^ 32) x.gen cls 0xFF000000 (x.echo && rdb c Reg.FAB_CTRL_CC_EN) c) s
    onCtl (setFabDst (s.c.fab.dst.map (fun y => if isDst src cls y then { y with sinceAck := 0, echo := false, owedAt := none } else y))) s

def heldBytes (x : DstCtx) : Nat := sumNat (x.held.map (fun p => p.payload.length))

/-- Data held by the contexts one F-die owns. -/
def dieHeld (c : Ctl) (f : Nat) : Nat := sumNat ((c.fab.dst.filter (fun x => ownerOf c x.src == f)).map heldBytes)

/-- Deliver the held packets that are next, in order. -/
def drainHeld : Nat → DstCtx → State → Bool × DstCtx × State
  | 0, x, s => (false, x, s)
  | n + 1, x, s =>
    match x.held.find? (fun p => p.seq == x.expect) with
    | none => (false, x, s)
    | some p =>
      let y := { x with held := x.held.filter (fun q => q.seq != x.expect), expect := (x.expect + 1) % 2 ^ 32, sinceAck := x.sinceAck + 1 }
      let (l, z, s) := drainHeld n y (deliver p s)
      (l || p.last, z, s)

/-- A generation is older than another, modulo 2^16. -/
def genOlder (a b : Nat) : Bool := a != b && decide ((b + 2 ^ 16 - a) % 2 ^ 16 < 2 ^ 15)

/-- Put a context in the place of what was there. -/
def putDst (x : DstCtx) (c : Ctl) : Ctl := setFabDst (c.fab.dst.filter (fun y => !isDst x.src x.cls y) ++ [x]) c

/-- The timers of a context after a packet: the gap timer runs while something is held, the other while a delivery is not
acknowledged (R316, R318). -/
def clockDst (t : Nat) (x : DstCtx) : DstCtx :=
  { x with gapAt := if x.held.isEmpty then none else some (x.gapAt.getD t),
           owedAt := if x.sinceAck = 0 then none else some (x.owedAt.getD t) }

/-- The context of a source and class as a first packet finds it. -/
def newDst (src cls gen t : Nat) : DstCtx :=
  { src := src, cls := cls, gen := gen, expect := 0, held := [], sinceAck := 0, echo := false, at_ := t, gapAt := none, owedAt := none }

/-- How many destination contexts the F-die that owns one from `src` holds (R312). -/
def dstCount (src : Nat) (c : Ctl) : Nat := (c.fab.dst.filter (fun x => ownerOf c x.src == ownerOf c src)).length

/-- A packet of a context arrives (R316). One that would open a context where 4,096 are held is dropped as for want of buffer
space (R312; DESIGN CHOICE, log entry 58); one that is held already is held once. -/
def receive (p : Pkt) (s : State) : State :=
  let cls := p.tc
  let f := ownerOf s.c p.src
  let drop := fun (c : Ctl) => countF f 5 1 (bump Reg.FAB_DROP_WINDOW_COUNT 1 c)
  let old := s.c.fab.dst.find? (isDst p.src cls)
  let x := old.getD (newDst p.src cls p.gen (now s.c))
  if genOlder p.gen x.gen then onCtl (bump Reg.FAB_DROP_GEN_COUNT 1) s
  else if old.isNone && decide (dstCount p.src s.c ≥ 4096) then onCtl drop s
  else
    let x := if genOlder x.gen p.gen || (p.opn && p.seq == 0) then { x with held := [], gen := p.gen, expect := 0, gapAt := none } else x
    let x := { x with echo := x.echo || p.ecn, at_ := now s.c }
    let d := (p.seq + 2 ^ 32 - x.expect) % 2 ^ 32
    if d ≥ 2 ^ 31 then ackNow p.src cls (onCtl (fun c => bump Reg.FAB_DUP_COUNT 1 (putDst x c)) s)
    else if d = 0 then
      let y := { x with expect := (x.expect + 1) % 2 ^ 32, sinceAck := x.sinceAck + 1 }
      let (l, z, s) := drainHeld (x.held.length + 1) y (deliver p s)
      let s := onCtl (putDst (clockDst (now s.c) z)) s
      if p.last || l || decide (z.sinceAck ≥ 16) then ackNow p.src cls s else s
    else
      let room := decide (d < 2 ^ 16) && decide (dieHeld s.c f + p.payload.length ≤ 2 ^ 23) && decide (heldBytes x + p.payload.length ≤ 2 ^ 19)
      if x.held.any (fun q => q.seq == p.seq) then onCtl (putDst x) s
      else if room then onCtl (putDst (clockDst (now s.c) { x with held := x.held ++ [p] })) s
      else onCtl (fun c => drop (putDst x c)) s

/-- Every packet that comes in on a port: counted, checked, accepted or dropped (R304, R305, R310). A port that is not up carries
none (R299, R300). `typ` is the type of the command's row: another type is not this command. -/
def arrive (port : Fin 18) (typ : Nat) (bytes : List Byte) (run : Pkt → State → State) (s : State) : State :=
  if rd s.c (Reg.FAB_PORT_STATE_STATE port) ≠ 3 then s
  else
    match parsePkt bytes with
    | none => onCtl (bump Reg.FAB_DROP_CRC_COUNT 1) s
    | some p =>
      if p.typ ≠ typ then s
      else
        let s := onCtl (fun c => when p.ecn (bump (Reg.FAB_PORT_ECN_RX_COUNT port) 1)
          (countF (port / 3) 2 1 (bump (Reg.FAB_PORT_RX_PKTS_COUNT port) 1 c))) s
        match accepts p.src p.slice s.c with
        | (false, c) => { s with c := c }
        | (true, c) => run p { s with c := c }

/-- An answer of a generation other than the module's is dropped (R322). -/
def answerOf (p : Pkt) (run : State → State) (s : State) : State :=
  if p.gen ≠ moduleGen s.c then onCtl (bump Reg.FAB_DROP_GEN_COUNT 1) s else run s

/-! ### Fencing (R326) -/

/-- Fence entries: their messages end in 0x0401, their contexts stop. -/
def fenceEntry (n : Nat) (s : State) : State :=
  let phys := rtPhys s.c n
  let s := onCtl (fun c => routeChanged (wr (Reg.FAB_RT_ENTRY_FENCED n) 1 c)) s
  let s := (s.c.tiles.map (fun e => e.1)).foldl (fun s i =>
    match (tileAt s.c i).msgs.find? (fun m => m.dst == n) with
    | none => s
    | some m => ngAt i 0x0401 m.pc n s) s
  onCtl (fun c => dropReady (fun x => x == phys) (closeSrc (fun x => x.dst == phys) (bump Reg.FAB_DROP_FENCED_COUNT (waitingFor phys c) c))) s

/-- Clear a fence: the contexts to and from the physical ID close. -/
def unfenceEntry (n : Nat) (s : State) : State :=
  let phys := rtPhys s.c n
  onCtl (fun c => closeDst (fun x => x.src == phys) (dropReady (fun x => x == phys) (closeSrc (fun x => x.dst == phys) (routeChanged (wr (Reg.FAB_RT_ENTRY_FENCED n) 0 c))))) s

/-- A write of a route-table entry is refused where it changes PHYS and the entry is neither fenced nor invalid (R309). -/
def routeRefused (n v : Nat) (c : Ctl) : Bool := decide (bits v 0 12 ≠ rtPhys c n) && rtValid c n && !rtFenced c n

/-- PHYS and VALID of a route-table entry take a value. -/
def setRoute (n v : Nat) (c : Ctl) : Ctl := routeChanged (wrb (Reg.FAB_RT_ENTRY_VALID n) (bit v 12) (wr (Reg.FAB_RT_ENTRY_PHYS n) (bits v 0 12) c))

/-- SHA3-256 over the route table, the bitmap and the slice (R311). -/
def routeHash (c : Ctl) : List Byte :=
  let entry := fun n => leBytes 4 (rtPhys c n + 4096 * b2n (rtValid c n) + 8192 * b2n (rtFenced c n))
  sha3_256 ((List.range 4096).flatMap entry ++ (List.range 128).flatMap (fun w => leBytes 4 (Map.getD 0 c.fab.allow w)) ++ leBytes 2 (sliceNow c))

end Sys2Proof.Machine
end

