-- ==== Sys2Proof/Machine/Collective.lean ====
section
/-! DEFINITION. The collective engines (R334 to R366): units of data and their reduction, the flow of each algorithm,
signatures, completion, failure, creation. Data move in units: an element, the least whole bytes of narrow elements, or a
block with its entry. -/

namespace Sys2Proof.Machine

/-! ### Units and their reduction (R356) -/

def unitElems (fmt : Nat) : Nat := if fmt = 0x05 ∨ fmt = 0x06 then 4 else if fmt = 0x07 ∨ fmt = 0x09 then 2 else blockLen fmt

def unitBytes (fmt : Nat) : Nat :=
  if fmt = 0x10 then 72 else if fmt = 0x11 then 36
  else if isMx fmt then 32 * elemBits fmt / 8 + 1 else unitElems fmt * elemBits fmt / 8

/-- The pieces of each unit of a tensor, row by row. -/
def unitPieces (d : Desc) : List (List (Nat × Nat)) :=
  (allRows d).flatMap (fun r =>
    let ps := rowPieces d r.1 r.2.1 r.2.2.1 r.2.2.2
    if isBlock d.fmt then (List.range (ps.length / 2)).map (fun k => (ps.drop (2 * k)).take 2)
    else
      let b := unitBytes d.fmt
      ps.flatMap (fun p => (List.range (p.2 / Nat.max 1 b)).map (fun k => [(p.1 + k * b, b)])))

/-- The elements of a unit. -/
def decodeUnit (fmt : Nat) (bs : List Byte) : List FVal :=
  let rd := fun k => bs.getD k 0
  if isBlock fmt then
    let l := if fmt = 0x10 then 64 else if fmt = 0x11 then 32 else 32 * elemBits fmt / 8
    -- a one-block split descriptor over the unit's own bytes: elements at 0, entry behind them
    let raw := fmt * 2 ^ 64 + 2 ^ 69 + 2 ^ 80 + blockLen fmt * 2 ^ 128 + 2 ^ 160 + 2 ^ 192 + 2 ^ 224 + 2 ^ 256 + l * 2 ^ 416
    (List.range (blockLen fmt)).map (fun j => (readElem rd ⟨BitVec.ofNat 512 raw⟩ j 0).value)
  else
    (List.range (unitElems fmt)).map (fun j =>
      let code := packedCode rd 0 (elemBits fmt) j
      if fmt = 0x08 then intVal 8 code else if fmt = 0x09 then intVal 4 code else (elemFmt fmt).decode code)

/-- A unit from its elements, rounded to nearest even under current scaling. -/
def encodeUnit (fmt : Nat) (xs : List FVal) : List Byte × ConvCounts :=
  if isBlock fmt then
    let b := convBlock fmt (blockStat fmt xs) none xs
    ((if fmt = 0x11 then packKt2 32 b.codes else packCodes (elemBits fmt) b.codes) ++ b.entry, b.counts)
  else
    let cs := xs.map (fun v => convElem fmt .rne v)
    (packCodes (elemBits fmt) (cs.map (fun c => c.code)), countConvs cs)

/-- One add of a reduction: sum, maximum or minimum. -/
def reduceVal (red : Nat) (a b : FVal) : FVal :=
  if red = 0 then a.add b
  else if a.isNan || b.isNan then .nan
  else if red = 1 then (if a.lt true b then b else a) else (if b.lt true a then b else a)

def reduceUnit (fmt red : Nat) (a b : List Byte) : List Byte × ConvCounts :=
  let xs := decodeUnit fmt a
  let ys := decodeUnit fmt b
  encodeUnit fmt ((List.range xs.length).map (fun k => reduceVal red (xs.getD k .zero) (ys.getD k .zero)))

/-! ### Source and destination units of an operation -/

def entryUnits (addr count fmt : Nat) : List (List (Nat × Nat)) :=
  (List.range (count / Nat.max 1 (unitElems fmt))).map (fun k => [(addr + k * unitBytes fmt, unitBytes fmt)])

def srcPieces (op : CollOp) : List (List (Nat × Nat)) :=
  if op.fn = 11 then op.entries.flatMap (fun e => entryUnits e.1 e.2.2.1 e.2.2.2) else unitPieces op.da

def dstPieces (op : CollOp) : List (List (Nat × Nat)) :=
  if op.fn = 11 then op.entries.flatMap (fun e => entryUnits e.2.1 e.2.2.1 e.2.2.2) else unitPieces op.db

/-- The format of a source unit. -/
def unitFmt (op : CollOp) (u : Nat) : Nat :=
  if op.fn = 11 then (op.entries.flatMap (fun e => List.replicate (e.2.2.1 / Nat.max 1 (unitElems e.2.2.2)) e.2.2.2)).getD u 0 else op.fmt

/-- Units of the whole vector an operation reduces or divides: from its count. -/
def opUnits (op : CollOp) : Nat :=
  if op.fn = 11 then (srcPieces op).length else op.count / Nat.max 1 (unitElems op.fmt)

/-- The chunk a unit lies in: N parts in unit order (log entry 43). -/
def chunkOf (total n u : Nat) : Nat := ((u + 1) * n - 1) / Nat.max 1 total

def chunkStart (total n c : Nat) : Nat := c * total / Nat.max 1 n

/-! ### The engine -/

/-- An operation as it runs: what it sends (member, kind, unit, value), what it writes, what it counts. -/
structure Eng where
  g : Group
  op : CollOp
  outs : List (Nat × Nat × Nat × List Byte)
  writes : List (Nat × List Byte)
  counts : ConvCounts

def Eng.n (e : Eng) : Nat := e.g.members.length
def Eng.me (e : Eng) : Nat := e.g.index
def Eng.next (e : Eng) : Nat := (e.me + 1) % Nat.max 1 e.n
def Eng.send (dst kind u : Nat) (v : List Byte) (e : Eng) : Eng := { e with outs := e.outs ++ [(dst, kind, u, v)] }
def Eng.chunk (e : Eng) (u : Nat) : Nat := chunkOf (opUnits e.op) e.n u
/-- The first tree carries the first half of the data. -/
def Eng.tree (e : Eng) (u : Nat) : Nat := if 2 * u < opUnits e.op then 0 else 1
def Eng.parent (e : Eng) (u : Nat) : Option Nat := Config.treeParent e.n (e.tree u) e.me
def Eng.children (e : Eng) (u : Nat) : List Nat := Config.treeChildren e.n (e.tree u) e.me
def Eng.ownUnit (e : Eng) (u : Nat) : Option (List Byte) := Map.get? e.op.own u
def Eng.partsOf (e : Eng) (u : Nat) : List (Nat × List Byte) := Map.getD [] e.op.parts u
def Eng.mark (u : Nat) (e : Eng) : Eng := { e with op := { e.op with reduced := u :: e.op.reduced } }

/-- Reduce two values of a unit. -/
def Eng.reduce (u : Nat) (a b : List Byte) (e : Eng) : List Byte × Eng :=
  let (v, k) := reduceUnit (unitFmt e.op u) e.op.red a b
  (v, { e with counts := e.counts.add k })

/-- A destination unit has its value. -/
def Eng.result (u : Nat) (v : List Byte) (e : Eng) : Eng :=
  if e.op.written.contains u then e
  else { e with writes := e.writes ++ [(u, v)], op := { e.op with written := u :: e.op.written } }

def Eng.toAll (l : List Nat) (kind u : Nat) (v : List Byte) (e : Eng) : Eng := l.foldl (fun e m => e.send m kind u v) e

/-- Hand a final value on from the member that has it first (R354). -/
def Eng.spread (u : Nat) (v : List Byte) (e : Eng) : Eng :=
  if e.op.alg = 1 then e.send e.next 1 u v
  else if e.op.alg = 2 then
    match e.parent u with
    | none => e.toAll (e.children u) 1 u v
    | some p => e.send p 1 u v
  else e.toAll ((List.range e.n).filter (fun m => m != e.me)) 1 u v

/-- A unit is fully reduced here. -/
def Eng.final (u : Nat) (v : List Byte) (e : Eng) : Eng :=
  if e.op.fn = 3 then
    if e.chunk u = e.me then e.result (u - chunkStart (opUnits e.op) e.n e.me) v
    else e.toAll (e.children u) 1 u v
  else if e.op.fn = 6 then
    if e.me = e.op.root then e.result u v else e.send e.op.root 1 u v
  else (e.result u v).spread u v

/-- The ring adds in ring order, from the member behind the chunk's (R354). -/
def Eng.tryRing (u : Nat) (e : Eng) : Eng :=
  if e.op.reduced.contains u then e
  else
    match e.ownUnit u, e.partsOf u with
    | some v, parts =>
      let c := e.chunk u
      if e.me = (c + 1) % Nat.max 1 e.n then (e.mark u).send e.next 0 u v
      else match parts with
        | [] => e
        | p :: _ =>
          let (w, e) := e.reduce u p.2 v
          if c = e.me then (e.mark u).final u w else (e.mark u).send e.next 0 u w
    | none, _ => e

/-- A tree node adds its children in increasing index. -/
def Eng.tryTree (u : Nat) (e : Eng) : Eng :=
  if e.op.reduced.contains u then e
  else
    match e.ownUnit u with
    | none => e
    | some v =>
      let ps := e.partsOf u
      if (e.children u).all (fun m => ps.any (fun p => p.1 == m)) then
        let (w, e) := (e.children u).foldl (fun (a : List Byte × Eng) m =>
          match ps.find? (fun p => p.1 == m) with
          | some p => a.2.reduce u a.1 p.2
          | none => a) (v, e)
        match e.parent u with
        | none => (e.mark u).final u w
        | some p => (e.mark u).send p 0 u w
      else e

/-- The owner of a chunk adds the contributions in order of arrival. -/
def Eng.tryDirect (u : Nat) (e : Eng) : Eng :=
  if e.op.reduced.contains u then e
  else
    match e.partsOf u with
    | p :: ps =>
      if ps.length + 1 = e.n then
        let (w, e) := ps.foldl (fun (a : List Byte × Eng) q => a.2.reduce u a.1 q.2) (p.2, e)
        (e.mark u).final u w
      else e
    | [] => e

def Eng.stash (m u : Nat) (v : List Byte) (e : Eng) : Eng :=
  { e with op := { e.op with parts := Map.put e.op.parts u (e.partsOf u ++ [(m, v)]) } }

def Eng.try_ (u : Nat) (e : Eng) : Eng :=
  if e.op.alg = 1 then e.tryRing u else if e.op.alg = 2 then e.tryTree u else e.tryDirect u

/-- A source unit of this member is there to send (R354, R358). -/
def Eng.ready (u : Nat) (v : List Byte) (e : Eng) : Eng :=
  let e := { e with op := { e.op with own := Map.put e.op.own u v } }
  let total := opUnits e.op
  match e.op.fn with
  | 4 => (e.result (e.me * total + u) v).spread (e.me * total + u) v
  | 5 => (e.result u v).spread u v
  | 7 =>
    let k := total / Nat.max 1 e.n
    let j := u / Nat.max 1 k
    if j = e.me then e.result u v else e.send j 1 (e.me * k + u % Nat.max 1 k) v
  | 9 => e.send e.op.root 1 u v
  | _ =>
    if e.op.alg = 3 then
      if e.chunk u = e.me then (e.stash e.me u v).tryDirect u else e.send (e.chunk u) 0 u v
    else e.try_ u

/-- Data of another member are applied, forwarded or written (R351, R354). -/
def Eng.take (m kind u : Nat) (v : List Byte) (e : Eng) : Eng :=
  if kind = 0 then (e.stash m u v).try_ u
  else if e.op.fn = 3 then
    if e.chunk u = e.me then e.result (u - chunkStart (opUnits e.op) e.n e.me) v
    else if e.op.alg = 2 then e.toAll (e.children u) 1 u v else e
  else
    let e1 := e.result u v
    let pass := e.op.fn == 2 || e.op.fn == 4 || e.op.fn == 5 || e.op.fn == 11
    if pass && e.op.alg == 1 then
      let origin := if e.op.fn = 4 then u / Nat.max 1 (opUnits e.op) else if e.op.fn = 5 then e.op.root else e.chunk u
      if e1.next = origin then e1 else e1.send e1.next 1 u v
    else if pass && e.op.alg == 2 then
      if e.parent u = some m then e1.toAll (e.children u) 1 u v
      else match e.parent u with
        | some p => e1.send p 1 u v
        | none => e1.toAll (e.children u) 1 u v
    else e1

/-! ### The slots -/

def groupAt (c : Ctl) (k : Nat) : Group := Map.getD Group.free c.coll.groups k
def setGroup (k : Nat) (g : Group) (c : Ctl) : Ctl := { c with coll := { c.coll with groups := Map.setD Group.free c.coll.groups k g } }

/-! ### What goes out (R348, R349) -/

/-- How many members send data to member `d` in an operation. -/
def sendersTo (n : Nat) (op : CollOp) (d : Nat) : Nat :=
  if op.fn = 9 ∨ op.fn = 10 ∨ op.alg = 1 then 1
  else if op.alg = 2 then
    ([0, 1].flatMap (fun t => (Config.treeParent n t d).toList ++ Config.treeChildren n t d)).eraseDups.length
  else n - 1

/-- The credits of 4 KiB that the buffer of member `d` gives each of its senders (R348). -/
def creditsAt (g : Group) (op : CollOp) (d : Nat) : Nat :=
  Nat.max 1 (g.bufKib / 4 / Nat.max 1 (sendersTo g.members.length op d))

/-- Whether a packet carries data, which needs a credit. -/
def isData (x : SrcPkt) : Bool := match x.body with
  | .coll (.coll kind _ _ _ _ _ _) => decide (kind ≤ 1)
  | _ => false

/-- The credits a packet of kind `kind` is sent against: 0 where it needs none. -/
def creditFor (c : Ctl) (slot dst kind seq : Nat) : Nat :=
  let g := groupAt c slot
  match g.ops.find? (fun o => o.seq == seq), findFrom (fun m => m == dst) g.members 0 with
  | some op, some d => if kind ≤ 1 then creditsAt g op d else 0
  | _, _ => 0

/-- A collective packet for a member: ready in the collective class, or FAIL in the control class (R348, R349, R364). -/
def sendColl (slot dst kind gid seq a b : Nat) (bytes : List Byte) (s : State) : State :=
  let phys := rtPhys s.c dst
  let x : SrcPkt := {
    seq := 0, typ := 6, last := true, len := ceilDiv bytes.length 64, msgId := 0xFF000000, addr := 0, arg := 0,
    body := .coll (.coll kind dst gid seq a b bytes), owner := .coll slot seq, tries := 0, port := 18, sentAt := 0 }
  if kind = 4 then queuePkt phys 2 x s
  else onCtl (fun c => setReady (c.fab.ready ++ [(slot, phys, creditFor c slot dst kind seq, x)]) c) s

/-- A ready packet can go: its context has room, and its receiver a credit. A credit comes back when the packet is acknowledged
(log entry 58). -/
def canGo (c : Ctl) (e : Nat × Nat × Nat × SrcPkt) : Bool :=
  let out := (srcCtx e.2.1 1 c).unacked
  decide (out.length < 4096) &&
    (e.2.2.1 == 0 || decide ((out.filter (fun x => isData x && x.owner == e.2.2.2.owner)).length < e.2.2.1))

/-- The first packet of a group that can go, by its place; none goes before an earlier one of the group to the same module. -/
def nextOf (c : Ctl) (slot : Nat) : Nat → List Nat → List (Nat × Nat × Nat × SrcPkt) → Option Nat
  | _, _, [] => none
  | k, held, e :: l =>
    if e.1 ≠ slot ∨ held.contains e.2.1 then nextOf c slot (k + 1) held l
    else if canGo c e then some k
    else nextOf c slot (k + 1) (e.2.1 :: held) l

/-- The groups with data ready, in slot order, each with the place of its next packet; slot 256 stands for the creations of
`CollSt.roots`. -/
def readySlots (c : Ctl) : List (Nat × Nat) :=
  (List.range 257).filterMap (fun k =>
    if c.fab.ready.any (fun e => e.1 == k) then (nextOf c k 0 [] c.fab.ready).map (fun p => (k, p)) else none)

/-- Whose packet a port takes next, by weighted round-robin: the group whose turn it is while it has packets left in it and data ready,
then the next one in slot order, for as many packets as its weight (R334, R349). -/
def takeTurn (q : Nat) (slots : List (Nat × Nat)) (c : Ctl) : Option (Nat × Nat) × Ctl :=
  let turn := Map.getD (256, 0) c.fab.turns q
  let next := match slots.find? (fun e => e.1 == turn.1 && decide (0 < turn.2)) with
    | some e => some (e, turn.2 - 1)
    | none => ((slots.find? (fun e => decide (turn.1 < e.1))).orElse (fun _ => slots.head?)).map (fun e =>
        (e, Nat.max 1 (groupAt c e.1).weight - 1))
  match next with
  | none => (none, c)
  | some (e, left) => (some e, { c with fab := { c.fab with turns := Map.put c.fab.turns q (e.1, left) } })

/-- Send the ready packet at a place, on a port or on none. -/
def sendReady (q : Option Nat) (place : Nat) (s : State) : State :=
  match s.c.fab.ready[place]? with
  | none => s
  | some e =>
    let send := fun (x : SrcPkt) (s : State) => match q with
      | none => (x, s)
      | some q => ({ x with port := q, sentAt := now s.c }, onCtl (outOn q (pktOut e.2.1 1 x s) e.2.1) s)
    queueBy send e.2.1 1 e.2.2.2 (onCtl (fun c => setReady (c.fab.ready.eraseIdx place) c) s)

/-- Send what is ready and can go, packet by packet: the port of each is drawn first, then the group whose share it is. -/
def flushLoop : Nat → State → State
  | 0, s => s
  | n + 1, s =>
    match readySlots s.c with
    | [] => s
    | e :: l =>
      match portFor none s.c with
      | (none, c) => flushLoop n (sendReady none e.2 { s with c := c })
      | (some q, c) =>
        match takeTurn q (e :: l) c with
        | (some x, c) => flushLoop n (sendReady (some q) x.2 { s with c := c })
        | (none, c) => { s with c := c }

def flushColl (s : State) : State := flushLoop s.c.fab.ready.length s

/-- The data of a group that waited to go are dropped with its operations. -/
def dropData (slot : Nat) (c : Ctl) : Ctl := setReady (c.fab.ready.filter (fun e => !(e.1 == slot && isData e.2.2.2))) c

/-- Send to members of a group by index; a fenced one, and one without a valid entry, is skipped (R327). -/
def sendMembers (slot : Nat) (g : Group) (l : List Nat) (kind seq a b : Nat) (bytes : List Byte) (s : State) : State :=
  l.foldl (fun s m =>
    let d := g.members.getD m 0xFFFF
    if m = g.index ∨ rtFenced s.c d ∨ !rtValid s.c d then s else sendColl slot d kind g.gid seq a b bytes s) s

def others (g : Group) : List Nat := (List.range g.members.length).filter (fun m => m != g.index)

/-- What coll.wait is to write for a tile (R346). -/
def noteWait (i slot v : Nat) (c : Ctl) : Ctl := setTile i { tileAt c i with colWait := Map.put (tileAt c i).colWait slot v } c

/-- End the take of an operation. -/
def endOp (op : CollOp) (code a b : Nat) (c : Ctl) : Ctl := endTake op.take code op.tile a b c

/-- A group breaks: its operations end their takes, `head` the one in progress and `rest` those behind it (R364). -/
def breakGroup (slot code member : Nat) (nga : Nat × Nat × Nat) (c : Ctl) : Ctl :=
  let g := groupAt c slot
  if g.state ≠ 2 then c
  else
    let c := dropData slot (setGroup slot { g with state := 3, ops := [], inbox := [], failCode := code, failMember := member } c)
    let c := raise Reg.COL_EVENTS_GROUP_BROKEN c
    forEach g.ops (fun op c => endOp op nga.1 nga.2.1 nga.2.2 c) c

/-- A failure this member sees first: FAIL to every member, then the group breaks here (R352, R364). -/
def failGroup (slot code : Nat) (nga : Nat × Nat × Nat) (detail : Nat) (s : State) : State :=
  let g := groupAt s.c slot
  if g.state ≠ 2 then s
  else
    let seq := (g.ops.head?.map (fun o => o.seq)).getD g.seq
    let s := sendMembers slot g (others g) 4 seq code (g.index + 2 ^ 16 * detail) [] s
    onCtl (breakGroup slot code g.index nga) s

/-- The NG of a FAIL received (R364). -/
def failNg (g : Group) (reason member seq detail : Nat) : Nat × Nat × Nat :=
  if reason = 0x0501 then (0x0501, g.gid, seq)
  else if reason = 0x0503 then (0x0503, g.gid, detail)
  else if reason = 0x0502 then (0x0502, g.gid, 0)
  else (0x0402, g.step, g.members.getD member 0xFFFF)

/-! ### Signatures (R350, R351) -/

def sigOf (g : Group) (seq fn red alg fmt root count : Nat) : Nat :=
  let f := if fn = 10 then 9 else fn
  leAt (sha3_256 (leBytes 4 g.gid ++ leBytes 8 seq ++ leBytes 1 (f + 16 * red + 64 * alg) ++ leBytes 1 fmt ++ leBytes 2 root ++ leBytes 8 count)) 0 8

/-- The members a SIG goes to: the ring successor and every member this one sends data to; to the root of a broadcast;
back to the sender of a receive (R351, R353). -/
def sigTargets (g : Group) (op : CollOp) : List Nat :=
  let n := g.members.length
  let data :=
    if op.fn = 9 ∨ op.fn = 10 then [op.root]
    else if op.alg = 3 then (if op.fn = 5 ∧ g.index ≠ op.root then [op.root] else List.range n)
    else if op.alg = 2 then
      [0, 1].flatMap (fun t => (match Config.treeParent n t g.index with
        | some p => [p]
        | none => []) ++ Config.treeChildren n t g.index)
    else []
  let root := if op.fn = 5 ∨ op.fn = 6 then [op.root] else []
  ((((g.index + 1) % Nat.max 1 n) :: data) ++ root).eraseDups

def sigOk (g : Group) (op : CollOp) (m : Nat) : Bool := g.sigs.any (fun x => x.1 == m && x.2.1 == op.seq && x.2.2 == op.sig)

def sigBad (g : Group) (op : CollOp) : Bool := g.sigs.any (fun x => x.2.1 == op.seq && x.2.2 != op.sig)

/-- The ring check: the predecessor's signature has come and agrees (R351, R353). -/
def ringOk (g : Group) (op : CollOp) : Bool :=
  let n := Nat.max 1 g.members.length
  sigOk g op ((g.index + n - 1) % n)

/-- The conditions of R353. -/
def opComplete (g : Group) (op : CollOp) : Bool :=
  let all := decide (op.written.length ≥ (dstPieces op).length)
  op.begun && ringOk g op &&
  (if op.fn = 8 then op.done
   else if op.fn = 6 then (if g.index = op.root then all else op.done)
   else if op.fn = 5 then all && op.done
   else if op.fn = 9 then op.acked && sigOk g op op.root
   else all)

/-! ### Running the operation at the head of a group -/

/-- Pack what an operation sends: consecutive units for one member share a packet of at most 4,096 bytes. -/
def packOuts : List (Nat × Nat × Nat × List Byte) → List (Nat × Nat × Nat × List Byte) → List (Nat × Nat × Nat × List Byte)
  | [], acc => acc.reverse
  | (d, k, u, v) :: l, acc =>
    match acc with
    | (d', k', u', v') :: rest =>
      if d = d' ∧ k = k' ∧ v.length ≠ 0 ∧ u' * v.length + v'.length = u * v.length ∧ v'.length + v.length ≤ 4096
      then packOuts l ((d', k', u', v' ++ v) :: rest)
      else packOuts l ((d, k, u, v) :: acc)
    | [] => packOuts l [(d, k, u, v)]

/-- Write a destination unit's value over its pieces, past the cache; the block of the first write that fails (R286, R289). -/
def writePieces : List (Nat × Nat) → List Byte → Option Nat × State → Option Nat × State
  | [], _, b => b
  | p :: l, v, b =>
    let (x, s) := bypassWrite p.1 (v.take p.2) b.2
    writePieces l (v.drop p.2) (b.1.orElse (fun _ => x), s)

/-- Carry out what the engine decided: counts, writes past the cache, packets; a write that fails ends the operation. -/
def applyEng (slot : Nat) (e : Eng) (s : State) : State :=
  let dst := dstPieces e.op
  let (bad, s) := e.writes.foldl (fun (b : Option Nat × State) w => writePieces (dst.getD w.1 []) w.2 b) (none, s)
  let f := (fdiesUp s.c).getD (slot % Nat.max 1 (fdiesUp s.c).length) 0
  let s := onCtl (fun c =>
    let c := bump (Reg.COL_GROUP_SAT_COUNT slot) e.counts.sat (bump (Reg.COL_GROUP_FLUSH_COUNT slot) e.counts.flush
      (bump (Reg.COL_GROUP_CLAMP_COUNT slot) e.counts.clamp c))
    let c := countF f 10 e.counts.sat c
    let g := groupAt c slot
    setGroup slot { g with ops := g.ops.map (fun o => if o.seq = e.op.seq then e.op else o) } c) s
  let s := (packOuts e.outs []).foldl (fun s o => sendColl slot (e.g.members.getD o.1 0xFFFF) o.2.1 e.g.gid e.op.seq o.2.2.1 e.g.index o.2.2.2 s) s
  match bad with
  | none => s
  | some b => failGroup slot 0x0301 (0x0301, e.op.pc, b) 0 s

/-- Read the pieces of a source unit past the cache; the block at fault where one is poisoned (R286). -/
def readPieces : List (Nat × Nat) → State → Except Nat (List Byte) × State
  | [], s => (.ok [], s)
  | p :: l, s =>
    match bypassRead p.1 p.2 s with
    | (.error b, s) => (.error b, s)
    | (.ok x, s) => match readPieces l s with
      | (.error b, s) => (.error b, s)
      | (.ok y, s) => (.ok (x ++ y), s)

/-- Read source units, up to the first fault. -/
def readUnits : List (List (Nat × Nat)) → State → Except Nat (List (List Byte)) × State
  | [], s => (.ok [], s)
  | u :: l, s =>
    match readPieces u s with
    | (.error b, s) => (.error b, s)
    | (.ok v, s) => match readUnits l s with
      | (.error b, s) => (.error b, s)
      | (.ok vs, s) => (.ok (v :: vs), s)

/-- The members whose memory this member sends from. -/
def readsSource (g : Group) (op : CollOp) : Bool :=
  !op.relay && (op.fn == 2 || op.fn == 3 || op.fn == 4 || op.fn == 6 || op.fn == 7 || op.fn == 9 || op.fn == 11 ||
    (op.fn == 5 && g.index == op.root))

def engOf (g : Group) (op : CollOp) : Eng := { g := g, op := op, outs := [], writes := [], counts := ConvCounts.zero }

/-! ### The line producer at a clapper (R432, R434) -/

/-- The group contains the line producer. -/
def lpIn (c : Ctl) (g : Group) : Bool := g.members.contains (rd c Reg.GAF_LP_CTRL_LP)

/-- This module's record: slack, assured clock at E, cap floor and tray ceiling in 8 W. -/
def clapRecord (c : Ctl) (g : Group) : List Byte :=
  leBytes 4 g.slack ++ leBytes 2 (assuredClock (rd c Reg.GAF_LEVEL_E)) ++ leBytes 1 (ceilDiv (rd c Reg.GAF_LIMITS_FLOOR) 8)
    ++ leBytes 1 (rd c Reg.GAF_LIMITS_CEIL / 8)

/-- The line producer takes in the record of a member. -/
def noteRecord (m : Nat) (b : List Byte) (c : Ctl) : Ctl :=
  if rdb c Reg.GAF_LP_CTRL_ROLE then
    let r : LpRecord := { member := m, slack := leAt b 0 4, clock := leAt b 4 2, floor := 8 * leAt b 6 1, ceiling := 8 * leAt b 7 1,
                          frame := frameNow c }
    { c with gaf := { c.gaf with lpRecords := r :: c.gaf.lpRecords.filter (fun x => x.member != m) } }
  else c

/-- U: the lowest assured clock among the latest records; 0 outside uniform-clock mode (R434, R436). -/
def uniformClock (c : Ctl) : Nat :=
  match rdb c Reg.GAF_LP_CTRL_UNIFORM, c.gaf.lpRecords with
  | true, r :: l => l.foldl (fun a x => Nat.min a x.clock) r.clock
  | _, _ => 0

/-- The table the line producer attaches to the next clapper of a group after each computation. -/
def lpTable (c : Ctl) (slot : Nat) (g : Group) : List Byte :=
  if rdb c Reg.GAF_LP_CTRL_ROLE && !c.gaf.lpAlloc.isEmpty && !c.gaf.lpSent.contains slot then
    g.members.flatMap (fun m => leBytes 2 (Map.getD 0 c.gaf.lpAlloc m) ++ leBytes 2 (uniformClock c))
  else []

/-- A member takes the entry at its own index: a lower allocation is due at its next ramp step, a higher one two frames
after its receipt (R434). -/
def takeAlloc (g : Group) (table : List Byte) (c : Ctl) : Ctl :=
  if table.isEmpty || !rdb c Reg.GAF_LP_CTRL_ENABLE then c
  else
    let w := leAt table (4 * g.index) 2
    let held := rd c Reg.GAF_LP_ALLOC_ALLOC
    let from_ := if held = 0 ∨ w ≤ held then 0 else now c + 2 ^ 23
    modCount 397 1 { c with gaf := { c.gaf with allocDue := some (w, leAt table (4 * g.index + 2) 2, from_) } }

/-- The record goes with the contribution, and to the line producer's module. -/
def sendRecord (slot seq : Nat) (g : Group) (s : State) : State :=
  let lp := rd s.c Reg.GAF_LP_CTRL_LP
  if !lpIn s.c g then s
  else if g.members.getD g.index 0xFFFF = lp then onCtl (fun c => noteRecord lp (clapRecord c g) c) s
  else sendColl slot lp 9 g.gid seq 0 0 (clapRecord s.c g) (onCtl (modCount 398 1) s)

/-- The release of a clapper is set at this member: its slack, and its allocation. One that has passed is late (R362). -/
def setRelease (slot r : Nat) (op : CollOp) (table : List Byte) (s : State) : State :=
  onCtl (fun c =>
    let late := decide (r < now c)
    let c := when late (fun c => modCount 613 1 (bump Reg.COL_CLAP_LATE_COUNT 1 c)) c
    let g := groupAt c slot
    let c := takeAlloc g table (setGroup slot { g with
      ops := g.ops.map (fun x => if x.seq = op.seq then { x with release := some r, done := late } else x),
      slack := (r - op.arrive) / 2 ^ 10 } c)
    if late then c else armClap slot r c) s

/-- The clapper's contribution once every child has been heard: up the tree, or the release down from its root (R361). -/
def clapStep (slot : Nat) (s : State) : State :=
  let g := groupAt s.c slot
  match g.ops.head? with
  | none => s
  | some op =>
    let n := g.members.length
    let kids := Config.treeChildren n 0 g.index
    if op.fn ≠ 8 ∨ op.done ∨ op.release.isSome ∨ op.acked ∨ !kids.all (fun m => op.heard.any (fun h => h.1 == m) && sigOk g op m) then s
    else
      let t := op.heard.foldl (fun a h => Nat.max a h.2.1) op.arrive
      let w := op.heard.foldl (fun a h => Nat.max a h.2.2) op.want
      let own := lpTable s.c slot g
      let table := if own.isEmpty then op.table else own
      let s := onCtl (fun c => when (!own.isEmpty) (fun c => { c with gaf := { c.gaf with lpSent := slot :: c.gaf.lpSent } }) c) s
      let s := onCtl (setGroup slot { g with ops := { op with acked := true } :: g.ops.tail }) s
      let s := sendRecord slot op.seq g s
      match Config.treeParent n 0 g.index with
      | some p =>
        let rec_ := if lpIn s.c g then clapRecord s.c g else leBytes 4 g.slack
        sendMembers slot g [p] 7 op.seq t w (rec_ ++ table) s
      | none =>
        let r := slotCeil (Nat.max (t + rd s.c Reg.COL_CLAP_LEAD_TU) w)
        sendMembers slot g kids 8 op.seq r 0 table (setRelease slot r op table s)

/-- The first member an operation cannot reach: fenced, which its first multicast would list as skipped, or without a valid entry
(R308, R327). -/
def unreachable (c : Ctl) (g : Group) : Option Nat :=
  g.members.find? (fun m => m != g.members.getD g.index 0xFFFF && (rtFenced c m || !rtValid c m))

/-- Start the operation at the head: signatures out, sources read, own data ready (R347, R351). A member that cannot be reached
ends it (R327, R364; DEDUCED, log entry 58). -/
def beginOp (slot : Nat) (s : State) : State :=
  let g := groupAt s.c slot
  match g.ops.head? with
  | none => s
  | some op =>
    if op.begun ∨ g.state ≠ 2 then s
    else match unreachable s.c g with
    | some m => if rtFenced s.c m then failGroup slot 0x0503 (0x0503, g.gid, m) m s else failGroup slot 0x0404 (0x0404, op.pc, m) 0 s
    | none =>
      let op := { op with begun := true }
      let s := onCtl (setGroup slot { g with ops := op :: g.ops.tail }) s
      let s := sendMembers slot g (sigTargets g op) 2 op.seq g.index op.sig [] s
      if op.fn = 8 then s
      else if readsSource g op then
        match readUnits (srcPieces op) s with
        | (.error b, s) => failGroup slot (poisonNg b).1 ((poisonNg b).1, op.pc, b) 0 s
        | (.ok vs, s) =>
          let e := ((List.range vs.length).zip vs).foldl (fun (e : Eng) uv => e.ready uv.1 uv.2) (engOf (groupAt s.c slot) op)
          applyEng slot e s
      else applyEng slot (op.own.foldl (fun (e : Eng) uv => e.ready uv.1 uv.2) (engOf (groupAt s.c slot) op)) s

/-- Apply the data whose signature has come and agrees (R351). -/
def applyInbox (slot : Nat) (s : State) : State :=
  let g := groupAt s.c slot
  match g.ops.head? with
  | none => s
  | some op =>
    if !op.begun then s
    else
      let use := g.inbox.filter (fun x => x.seq == op.seq && sigOk g op x.from_)
      let keep := g.inbox.filter (fun x => !(x.seq == op.seq && sigOk g op x.from_))
      let s := onCtl (setGroup slot { g with inbox := keep }) s
      if use.isEmpty then s
      else applyEng slot (use.foldl (fun (e : Eng) x => e.take x.from_ x.kind x.unit x.val) (engOf (groupAt s.c slot) op)) s

/-- Whether the root of a reduce or broadcast now owes DONE (R353). -/
def owesDone (g : Group) (op : CollOp) : Bool :=
  !op.done && g.index == op.root &&
    (if op.fn = 5 then (others g).all (sigOk g op)
     else op.fn == 6 && ringOk g op && decide (op.written.length ≥ (dstPieces op).length))

/-- The operation at the head completes: counted, noted for coll.wait (R346, R353). -/
def finishOp (slot : Nat) (op : CollOp) (s : State) : State :=
  onCtl (fun c =>
    let g := groupAt c slot
    let c := setGroup slot { g with
      ops := g.ops.tail, lastDone := op.seq, sigs := g.sigs.filter (fun x => decide (op.seq < x.2.1)),
      inbox := g.inbox.filter (fun x => decide (op.seq < x.seq)) } c
    let f := (fdiesUp c).getD (slot % Nat.max 1 (fdiesUp c).length) 0
    let bytes := sumNat ((srcPieces op).map (fun u => sumNat (u.map (fun p => p.2))))
    let c := countF f 8 1 (countF f 9 (ceilDiv bytes 64) (modCount 610 1 (bump (Reg.COL_GROUP_OPS_COUNT slot) 1 c)))
    let c := when (op.fn == 11) (modCount 615 1) c
    let v := match op.release with
      | some r => r
      | none => op.seq * 256
    noteWait op.tile slot v c) s

/-- Run a group as far as it goes: one operation at a time, in sequence order (R347). -/
def runGroup (slot : Nat) : Nat → State → State
  | 0, s => s
  | fuel + 1, s =>
    let s := clapStep slot (applyInbox slot (beginOp slot s))
    let g := groupAt s.c slot
    match g.ops.head? with
    | none => s
    | some op =>
      if sigBad g op then
        let s := onCtl (fun c => modCount 611 1 (bump Reg.COL_SIG_MISMATCH_COUNT 1 c)) s
        failGroup slot 0x0501 (0x0501, g.gid, op.seq) 0 s
      else
        let (op, s) := if owesDone g op then
            let op := { op with done := true }
            (op, sendMembers slot g (others g) 3 op.seq 0 0 [] (onCtl (setGroup slot { g with ops := op :: g.ops.tail }) s))
          else (op, s)
        if opComplete (groupAt s.c slot) op then runGroup slot fuel (finishOp slot op s) else s

def goGroup (slot : Nat) (s : State) : State := runGroup slot 9 s

end Sys2Proof.Machine
end

