-- ==== Sys2Proof/Machine/CollStart.lean ====
section
/-! DEFINITION. coll.start and coll.wait (R342 to R346), creation and destruction of groups (R334 to R341), relay from
mx.drain (R194, R358). -/

namespace Sys2Proof.Machine

/-! ### Fields (R342) -/

def cGRP (w : BitVec 64) : Nat := fld w 44 8
def cDA (w : BitVec 64) : Nat := fld w 40 4
def cDB (w : BitVec 64) : Nat := fld w 36 4
def cSA (w : BitVec 64) : Nat := fld w 31 5
def cFN (w : BitVec 64) : Nat := fld w 27 4
def cALG (w : BitVec 64) : Nat := fld w 25 2
def cRED (w : BitVec 64) : Nat := fld w 23 2
def cRLY (w : BitVec 64) : Bool := bit w.toNat 22

/-- The register fields each FN uses (R343). -/
def usesDA (fn : Nat) : Bool := [2, 3, 4, 5, 6, 7, 9].contains fn
def usesDB (fn : Nat) : Bool := [2, 3, 4, 5, 6, 7, 10].contains fn
def usesSA (fn : Nat) : Bool := [0, 5, 6, 8, 9, 10, 11].contains fn
def usesRED (fn : Nat) : Bool := [2, 3, 6, 11].contains fn

def formCollStart (w : BitVec 64) : OpForm :=
  let fn := cFN w
  { rsvOk := fz w 0 22 && decide (fn < 12) && decide (cRED w < 3) && (usesDA fn || cDA w == 0) && (usesDB fn || cDB w == 0) &&
      (usesSA fn || cSA w == 0) && (usesRED fn || cRED w == 0),
    valid := !cRLY w || [2, 3, 4, 6, 9].contains fn,
    descs := (if usesDA fn then [cDA w] else []) ++ (if usesDB fn then [cDB w] else []) }

def formCollWait (w : BitVec 64) : OpForm := { rsvOk := fz w 0 39 }

/-! ### Operands (R344) -/

def countOf (d : Desc) : Nat := d.size 0 * d.size 1 * d.size 2 * d.size 3 * d.size 4

/-- The algorithm an operation uses (R355). -/
def resolveAlg (g : Group) (alg fn bytes : Nat) : Nat :=
  let n := g.members.length
  if alg ≠ 0 then alg
  else if fn = 7 ∨ fn = 9 ∨ fn = 10 then 3
  else if fn = 5 ∨ fn = 6 ∨ fn = 8 then 2
  else if n ≤ 256 ∧ g.bufKib / Nat.max 1 (n - 1) ≥ 4 then 3
  else if bytes ≤ 64 * 2 ^ 20 then 2 else 1

/-- The first byte of pieces that passes. -/
def pieceFault (ps : List (List (Nat × Nat))) (bad : Nat → Bool) : Option Nat :=
  (ps.flatMap id).findSome? (fun p => ((List.range p.2).find? (fun k => bad (p.1 + k))).map (fun k => p.1 + k))

def inSpad (c : Ctl) (a : Nat) : Bool :=
  match regionOf c a with
  | .spad _ => true
  | _ => false

/-- The checks of R344 on the descriptors the member reads, in 0x0202 or 0x0206. -/
def operandFault (c : Ctl) (i : Nat) (g : Group) (op : CollOp) (alg : Nat) : Option (Nat × Nat) :=
  let n := g.members.length
  let fn := op.fn
  let readsA := usesDA fn && (fn != 5 || g.index == op.root)
  let readsB := usesDB fn && (fn != 6 || g.index == op.root)
  let ca := countOf op.da
  let cb := countOf op.db
  let l := blockLen op.fmt
  let sizes :=
    match fn with
    | 2 => ca == cb
    | 3 => ca % n == 0 && cb == ca / n && ca / n % l == 0
    | 4 => cb == n * ca && ca % l == 0
    | 5 => !readsA || ca == cb
    | 6 => !readsB || ca == cb
    | 7 => ca % n == 0 && ca == cb && ca / n % l == 0
    | _ => true
  if (readsA && readsB && (op.da.fmt != op.db.fmt)) || !sizes || (op.fmt == 0x11 && usesRED fn) ||
      ((fn == 5 || fn == 6 || fn == 9 || fn == 10) && decide (op.root ≥ n)) || (alg == 3 && decide (g.bufKib / Nat.max 1 (n - 1) < 4))
  then some (0x0202, 0)
  else
    let src := if fn = 11 then srcPieces op else if readsA then unitPieces op.da else []
    let dst := if fn = 11 then dstPieces op else if readsB then unitPieces op.db else []
    match pieceFault dst (inSpad c) with
    | some a => some (0x0206, a)
    | none =>
      match takeOn c i with
      | none => none
      | some (_, t) => (pieceFault src (fun a => !castReaches c t false a)).map (fun a => (0x0206, a))

/-! ### The fuse list (R360) -/

/-- The entries of a fuse list, none where it breaks the rules. -/
def parseFuse (hdr body : List Byte) : Option (List (Nat × Nat × Nat × Nat)) :=
  let e := leAt hdr 0 2
  let es := (List.range e).map (fun k =>
    let b := sub body (32 * k) 32
    (leAt b 0 8, leAt b 8 8, leAt b 16 4, leAt b 20 1))
  let size := fun (x : Nat × Nat × Nat × Nat) => x.2.2.1 / Nat.max 1 (unitElems x.2.2.2) * unitBytes x.2.2.2
  let good := decide (1 ≤ e ∧ e ≤ 64) && (hdr.drop 2).all (fun b => b == 0) &&
    (List.range e).all (fun k => (sub body (32 * k + 21) 11).all (fun b => b == 0)) &&
    es.all (fun x => decide (x.2.2.2 < 0x11) && x.2.2.1 % unitElems x.2.2.2 == 0 && decide (size x ≤ 65536)) &&
    decide (sumNat (es.map size) ≤ 2 ^ 20)
  if good then some es else none

/-! ### Creation (R334 to R339) -/

/-- The pool lies within the allotment and outside the cached range (R336). -/
def poolValid (c : Ctl) : Bool :=
  let b := rd c Reg.COL_POOL_BASE_MIB
  let n := rd c Reg.COL_POOL_SIZE_MIB
  let lo := b * 2 ^ 20
  let hi := (b + n) * 2 ^ 20
  let cfg := c.memory.cfg
  n != 0 && decide (cfg.base * 2 ^ 30 ≤ lo ∧ hi ≤ cfg.limit * 2 ^ 30) &&
    (decide (hi ≤ cfg.cacheBase * 2 ^ 30) || decide (cfg.cacheLimit * 2 ^ 30 ≤ lo) || decide (cfg.cacheBase = cfg.cacheLimit))

def poolUsed (c : Ctl) : Nat := sumNat (c.coll.groups.map (fun e => if e.2.state = 0 then 0 else e.2.bufKib))
def poolFree (c : Ctl) : Nat := rd c Reg.COL_POOL_SIZE_MIB * 1024 - poolUsed c

/-- The members of a group record, and the indices that name this module (R334, R335). -/
def recordMembers (r : List Byte) : List Nat := (List.range (Nat.min 4096 (leAt r 4 2))).map (fun m => leAt r (64 + 2 * m) 2)
def ownIndices (c : Ctl) (ms : List Nat) : List Nat :=
  (List.range ms.length).filter (fun m => let l := ms.getD m 0; decide (l < 4096) && rtValid c l && rtPhys c l == ownPhys c)

/-- A group record is well formed (R334, R335). -/
def recordOk (c : Ctl) (step : Nat) (r : List Byte) : Bool :=
  let n := leAt r 4 2
  let w := leAt r 6 1
  let buf := leAt r 8 4
  let ms := recordMembers r
  leAt r 0 4 != 0 && decide (2 ≤ n ∧ n ≤ 4096) && decide (1 ≤ w ∧ w ≤ 15) && leAt r 7 1 == 0 && decide (64 ≤ buf ∧ buf ≤ 65536) &&
    buf % 4 == 0 && leAt r 12 4 == step && (sub r 16 48).all (fun b => b == 0) && (ownIndices c ms).length == 1 &&
    decide (ms.eraseDups.length = n) && ms.all (fun l => decide (l < 4096) && rtValid c l && !rtFenced c l)

/-- The status of a creation (R339) at member 0, once every member has joined. -/
def createStatus (js : List Join) (m : Nat) : Nat :=
  let mine := js.find? (fun j => j.from_ == m)
  match mine.map (fun j => j.status) with
  | some 0 =>
    if js.any (fun j => j.status != 0) then 6
    else if (js.map (fun j => j.hash)).eraseDups.length > 1 then 4 else 0
  | some s => s
  | none => 5

/-- A member learns the result: open, or its slot and buffer are free again (R338 step 5, R340). -/
def applyResult (slot status : Nat) (table : List Nat) (c : Ctl) : Ctl :=
  let g := groupAt c slot
  if g.state ≠ 1 then c
  else
    let c := noteWait g.creator slot status c
    if status = 0 then modCount 608 1 (setGroup slot { g with state := 2, slots := table } c)
    else modCount 609 1 (raise Reg.COL_EVENTS_CREATE_FAILED (setGroup slot Group.free c))

/-- The creation of a group that this module coordinates: at its slot, or at 256 where its own step 1 failed. -/
def rootAt (c : Ctl) (gid : Nat) : Option (Nat × Group) :=
  (c.coll.groups.find? (fun e => e.2.gid == gid && e.2.state == 1 && e.2.index == 0)).orElse (fun _ =>
    (c.coll.roots.find? (fun g => g.gid == gid)).map (fun g => (256, g)))

/-- Member 0 multicasts the result of a creation and drops its JOINs (R338 step 4). -/
def finishCreate (slot : Nat) (g : Group) (s : State) : State :=
  let js := s.c.coll.joins.filter (fun j => j.gid == g.gid)
  let n := g.members.length
  let table := (List.range n).map (fun m => ((js.find? (fun j => j.from_ == m)).map (fun j => j.slot)).getD 0)
  let full := decide (js.length ≥ n)
  let status := fun m => if full then createStatus js m else 5
  let s := (others g).foldl (fun s m => sendMembers slot g [m] 6 0 (status m) 0 (table.map (fun x => BitVec.ofNat 8 x)) s) s
  onCtl (fun c => applyResult slot (status g.index) table { c with coll := { c.coll with
    joins := c.coll.joins.filter (fun j => j.gid != g.gid), roots := c.coll.roots.filter (fun x => x.gid != g.gid) } }) s

/-- The JOINs held for groups that this module does not know (R338). -/
def strangers (c : Ctl) : List Join := c.coll.joins.filter (fun x => (rootAt c x.gid).isNone)

def holdJoin (j : Join) (c : Ctl) : Ctl :=
  { c with coll := { c.coll with joins := c.coll.joins.filter (fun x => !(x.gid == j.gid && x.from_ == j.from_)) ++ [j] } }

/-- Member 0 takes a JOIN (R338 step 3); one for a group it does not know waits in a table of 64. -/
def takeJoin (j : Join) (s : State) : State :=
  match rootAt s.c j.gid with
  | some (slot, g) =>
    let s := onCtl (holdJoin j) s
    if (s.c.coll.joins.filter (fun x => x.gid == j.gid)).length ≥ g.members.length then finishCreate slot g s else s
  | none => onCtl (if (strangers s.c).length ≥ 64 then raise Reg.COL_EVENTS_JOIN_FULL else holdJoin j) s

/-- Step 1 has ended with a status: the creation fails here, or the group joins; then the JOIN, to member 0, or of member 0 itself,
which brings the others to their result although its own step failed (R338, R339). A record that does not name this module once
sends none. -/
def joinGroup (i slot status : Nat) (g : Group) (s : State) : State :=
  let s := if status = 0 then onCtl (setGroup slot g) s
    else onCtl (fun c => modCount 609 1 (raise Reg.COL_EVENTS_CREATE_FAILED (noteWait i slot status c))) s
  if g.gid = 0 ∨ (ownIndices s.c g.members).length ≠ 1 then s
  else if g.index = 0 then
    let s := if status = 0 then s
      else onCtl (fun c => { c with coll := { c.coll with roots := c.coll.roots.filter (fun x => x.gid != g.gid) ++ [g] } }) s
    takeJoin { gid := g.gid, from_ := 0, slot := slot, status := status, hash := g.hash, frame := frameNow s.c } s
  else sendMembers slot g [0] 5 0 slot (g.index + 2 ^ 16 * status) (leBytes 8 g.hash) s

/-- The status of step 1 of a creation (R338, R339). -/
def createCheck (c : Ctl) (slot : Nat) (wellFormed : Bool) (g : Group) : Nat :=
  if !wellFormed then 3
  else if c.coll.groups.any (fun e => e.2.state != 0 && e.2.gid == g.gid) then 7
  else if (groupAt c slot).state ≠ 0 then 2
  else if !poolValid c || decide (poolFree c < g.bufKib) then 1 else 0

/-- coll.start CREATE when it leaves the queue (R338 steps 1 and 2). -/
def runCreate (i : Nat) (q : QItem) (s : State) : State :=
  let slot := cGRP q.word
  let a := relocate s.c i q.sa.toNat
  match stepOf s.c i, takeOn s.c i with
  | some step, some (_, t) =>
    if a % 64 ≠ 0 then ngAt i 0x020A q.pc a s
    else
      match reachFault s.c t false a 64 with
      | some e => accessNg i q.pc e s
      | none =>
        match bypassRead a 64 s with
        | (.error b, s) => accessNg i q.pc (poisonNg b) s
        | (.ok h, s) =>
          let n := Nat.min 4096 (leAt h 4 2)
          match reachFault s.c t false a (64 + 2 * n) with
          | some e => accessNg i q.pc e s
          | none =>
            match bypassRead a (64 + 2 * n) s with
            | (.error b, s) => accessNg i q.pc (poisonNg b) s
            | (.ok r, s) =>
              let ms := recordMembers r
              let g : Group := { Group.free with
                state := 1, gid := leAt r 0 4, weight := leAt r 6 1, index := (ownIndices s.c ms).headD 0, members := ms, step := step,
                slice := sliceNow s.c, bufKib := leAt r 8 4, creator := i, hash := leAt (sha3_256 r) 0 8, since := frameNow s.c }
              joinGroup i slot (createCheck s.c slot (recordOk s.c step r) g) g s
  | _, _ => ngAt i 0x0202 q.pc q.word.toNat s

/-- Free a slot: the operation in progress ends its take in 0x0502 (R341). -/
def destroySlot (slot : Nat) (c : Ctl) : Ctl :=
  let g := groupAt c slot
  if g.state = 0 then c
  else forEach g.ops (fun op c => endOp op 0x0502 g.gid 0 c) (dropData slot (setGroup slot Group.free c))

/-! ### Starting an operation (R345, R350) -/

/-- The operation that a coll.start begins, with the operands it captured: its sequence number is the group's next (R345); its
algorithm and signature follow from it. -/
def startOp (c : Ctl) (i key : Nat) (q : QItem) (g : Group) (da db : Desc) (entries : List (Nat × Nat × Nat × Nat)) : CollOp :=
  let fn := cFN q.word
  let useB := fn == 10 || fn == 5
  { seq := g.seq + 1, fn := fn, alg := 0, red := cRED q.word, fmt := if fn = 11 then 0x1F else if useB then db.fmt else da.fmt,
    count := if fn = 8 then 0 else if fn = 11 then sumNat (entries.map (fun e => e.2.2.1)) else if useB then countOf db else countOf da,
    root := if fn = 5 ∨ fn = 6 ∨ fn = 9 ∨ fn = 10 then q.sa.toNat % 2 ^ 16 else 0, tile := i, take := key, pc := q.pc,
    da := da, db := db, relay := cRLY q.word, entries := entries, sig := 0, begun := false, own := [], parts := [], reduced := [],
    written := [], relayed := [], done := false, acked := false, arrive := now c, want := if fn = 8 then q.sa.toNat else 0,
    heard := [], table := [], release := none }

/-- The entries of the fuse list at an address, their sources relocated for a member of a gang (R172, R360); or the NG of reading it. -/
def readFuse (i : Nat) (q : QItem) (a : Nat) (s : State) : MRes (List (Nat × Nat × Nat × Nat)) :=
  let reach := fun (n : Nat) => (takeOn s.c i).bind (fun k => reachFault s.c k.2 false a n)
  match reach 64 with
  | some e => (.error e, s)
  | none =>
    match bypassRead a 64 s with
    | (.error b, s) => (.error (poisonNg b), s)
    | (.ok h, s) =>
      let n := 32 * Nat.min 64 (leAt h 0 2)
      match reach (64 + n) with
      | some e => (.error e, s)
      | none =>
        match bypassRead (a + 64) n s with
        | (.error b, s) => (.error (poisonNg b), s)
        | (.ok b, s) => match parseFuse h b with
          | none => (.error (0x0202, q.word.toNat), s)
          | some es => (.ok (es.map (fun e => (relocate s.c i e.1, e.2))), s)

/-- coll.start when it leaves the message queue; none while eight operations are in progress. -/
def runCollStart (i : Nat) (q : QItem) (s : State) : Option State :=
  let w := q.word
  let slot := cGRP w
  let fn := cFN w
  let g := groupAt s.c slot
  if fn = 0 then some (runCreate i q s)
  else
    let mine := g.slice == sliceNow s.c && some g.step == stepOf s.c i
    match takeOn s.c i with
    | none => some s
    | some (key, _) =>
      let no := some (ngOn i 0x0502 q.pc g.gid 0 s)
      if fn = 1 then (if (g.state = 2 ∨ g.state = 3) ∧ mine then some (onCtl (destroySlot slot) s) else no)
      else if g.state ≠ 2 ∨ !mine then no
      else if g.ops.length ≥ 8 then none
      else
        let da := if usesDA fn then relocDesc s.c i q.da else Desc.none
        let db := if usesDB fn then relocDesc s.c i q.db else Desc.none
        match if fn = 11 then readFuse i q (relocate s.c i q.sa.toNat) s else (.ok [], s) with
        | (.error e, s) => some (accessNg i q.pc e s)
        | (.ok entries, s) =>
          let seq := g.seq + 1
          let op0 := startOp s.c i key q g da db entries
          let bytes := if fn = 11 then sumNat ((srcPieces op0).map (fun u => sumNat (u.map (fun p => p.2)))) else opUnits op0 * unitBytes op0.fmt
          match operandFault s.c i g op0 (cALG w) with
          | some e => some (if e.1 = 0x0202 then ngAt i 0x0202 q.pc w.toNat s else accessNg i q.pc e s)
          | none =>
            let rootField := if fn = 5 ∨ fn = 6 ∨ fn = 10 then op0.root else if fn = 9 then g.index else if fn = 11 then entries.length else 0
            let op := { op0 with
              alg := resolveAlg g (cALG w) fn bytes, sig := sigOf g seq fn (cRED w) (cALG w) op0.fmt rootField op0.count }
            let s := onCtl (setGroup slot { g with seq := seq, ops := g.ops ++ [op] }) s
            some (goGroup slot s)

/-- coll.wait at the head of its queue: none while an operation of the tile on the slot is in progress (R346). -/
def runCollWait (i : Nat) (q : QItem) (s : State) : Option State :=
  let slot := cGRP q.word
  let g := groupAt s.c slot
  if g.ops.any (fun o => o.tile == i) || (g.state == 1 && g.creator == i) then none
  else some (onTile i (setS (fld q.word 39 5) (BitVec.ofNat 64 (Map.getD 0 (tileAt s.c i).colWait slot))) s)

/-! ### Relay (R194, R358) -/

/-- Post drained rows to the operation of a group this take started: none where there is no such operation; the bytes'
place is their offset from the base of its source. -/
def relayRows (i : Nat) (slot : Nat) (q : QItem) (ranges : List (Nat × Nat)) (s : State) : State :=
  let g := groupAt s.c slot
  match takeOn s.c i, g.ops.find? (fun o => o.relay && some o.take == (tileAt s.c i).take) with
  | some _, none => ngOn i 0x0502 q.pc g.gid 0 (onCtl (raise (Reg.TL_TENSOR_EVENTS_RELAY_NO_OP i)) s)
  | none, _ => s
  | some _, some op =>
    let src := srcPieces op
    let inside := fun (a : Nat) => src.any (fun u => u.any (fun p => p.1 ≤ a && a < p.1 + p.2))
    let offs := ranges.map (fun r => (r.1 - op.da.base, r.2))
    let twice := offs.any (fun r => op.relayed.any (fun o => r.1 < o.1 + o.2 && o.1 < r.1 + r.2))
    if ranges.any (fun r => (List.range r.2).any (fun k => !inside (r.1 + k))) || twice then ngAt i 0x0202 q.pc q.word.toNat s
    else
      let relayed := op.relayed ++ offs
      let has := fun (a : Nat) => relayed.any (fun o => op.da.base + o.1 ≤ a && a < op.da.base + o.1 + o.2)
      -- a unit is ready once every byte of the 4 KiB chunks it lies in has been relayed
      let chunkOk := fun (a : Nat) =>
        let b := op.da.base + (a - op.da.base) / 4096 * 4096
        (List.range 4096).all (fun k => !inside (b + k) || has (b + k))
      let fresh := ((List.range src.length).zip src).filter (fun u =>
        (Map.get? op.own u.1).isNone && u.2.all (fun p => chunkOk p.1 && chunkOk (p.1 + p.2 - 1)))
      let s := onCtl (fun c => tileCount i 76 1 (modCount 614 (b2n (!fresh.isEmpty)) c)) s
      let op := { op with relayed := relayed }
      let vals := fresh.map (fun u => (u.1, u.2.flatMap (fun p => getBytes s.mem p.1 p.2)))
      let e := if op.begun then vals.foldl (fun (e : Eng) u => e.ready u.1 u.2) (engOf g op)
        else engOf g { op with own := vals.foldl (fun m u => Map.put m u.1 u.2) op.own }
      goGroup slot (applyEng slot e s)

def runMxDrain (i : Nat) (q : QItem) (s : State) : State :=
  match drainRows i q s with
  | (none, s) => s
  | (some rs, s) => if bit q.word.toNat 12 then relayRows i (fld q.word 16 8) q rs s else s

end Sys2Proof.Machine
end

