-- ==== Sys2Proof/Machine/Drain.lean ====
section
/-! DEFINITION. The queues of the tiles run (R129 to R132): each starts its instructions in order, waits hold it, posts
take effect behind what came before; fences (R155, R264), claps (R152, R153), cue waits (R154). -/

namespace Sys2Proof.Machine

/-- Opcode of a queued word. -/
def opOf (q : QItem) : Nat := q.word.toNat / 2 ^ 56

/-- Queued instructions that read or write memory (R155). -/
def touchesMemory (q : QItem) : Bool :=
  [0x50, 0x51, 0x60, 0x61, 0x68, 0x6A, 0x6B, 0x80, 0x81, 0x82, 0x30, 0x31, 0x32].contains (opOf q)

/-- A message of a tile whose source has not been read to its end: it is held, or packets of it wait for their window. -/
def unreadMsg (c : Ctl) (i : Nat) : Bool :=
  (tileAt c i).msgs.any (fun m => !m.begun ||
    c.fab.src.any (fun x => x.backlog.any (fun p => p.owner == .tile i m.id)))

/-- The front of a queue goes. -/
def popQueue (i u : Nat) (s : State) : State := onTile i (fun t => setQueue u (queueOf t u).tail t) s

/-- The head of a unit's queue on a tile. -/
def headOf (c : Ctl) (i u : Nat) : Option QItem := (queueOf (tileAt c i) u).head?

/-- Every member of the gang has the same instruction at the head of the queue (R151, R173). -/
def gangAtHead (c : Ctl) (l : List Nat) (u : Nat) (q : QItem) : Bool :=
  l.all (fun j => match headOf c j u with
    | some x => x.pc == q.pc && x.word == q.word
    | none => false)

/-! ### Semaphores in a queue (R149 to R151, R173) -/

/-- A post waits for every earlier instruction of its queue, the messages of queue 5 landed included (R131). -/
def runSem (i u : Nat) (q : QItem) (s : State) : Option State :=
  let l := gangOf s.c i
  let n := yQ q.word
  let k := fld q.word 0 16
  if yFN q.word = 0 then
    let landed := fun (j : Nat) => u != 5 || (tileAt s.c j).msgs.isEmpty
    if l.length > 1 ∧ n ≥ 24 then
      if gangAtHead s.c l u q && l.all landed then some (postOn i n k q.pc q.word (l.foldl (fun s j => popQueue j u s) s)) else none
    else if landed i then some (postOn i n k q.pc q.word (popQueue i u s)) else none
  else if gangAtHead s.c l u q && waitMet s.c l n k then
    some (waitTake l n k (l.foldl (fun s j => popQueue j u s) s))
  else none

/-! ### cue.wait (R154) -/

/-- The time a cue.wait waits for. -/
def cueTime (q : QItem) : Nat := (q.sa + sfld q.word 0 32).toNat

def runCue (i u : Nat) (q : QItem) (s : State) : Option State :=
  let t := tileAt s.c i
  if now s.c < cueTime q then
    if t.cueHeld.contains u then none else some (onTile i (fun t => { t with cueHeld := u :: t.cueHeld }) s)
  else
    let late := !t.cueHeld.contains u && decide (cueTime q < now s.c)
    let s := onTile i (fun t => { t with cueHeld := t.cueHeld.filter (fun x => x != u) }) (popQueue i u s)
    some (onCtl (when late (fun c => tileCount i 46 1 (raise (Reg.TL_EVENTS_LATE_WAIT i) c))) s)

/-! ### mem.fence (R155, R264) -/

/-- The range of a flushing fence. -/
def fenceRange (q : QItem) : Nat × Nat := (q.sa.toNat, 256 * fld q.word 0 32)

/-- Lines of a range held in the units that serve a tile (R264). -/
def flushesLine (c : Ctl) (i a n : Nat) (x : CacheLine) : Bool :=
  x.die == copyOf c (dieOf i) && decide (lineAddr x.line < a + n) && decide (a < lineAddr x.line + 256)

def runFence (i : Nat) (q : QItem) (s : State) : Option State :=
  let t := tileAt s.c i
  if [1, 2, 3, 5].any (fun u => (queueOf t u).any touchesMemory) || unreadMsg s.c i then none
  else
    let s := popQueue i 4 s
    if yFN q.word = 0 then some s
    else
      let (a, n) := fenceRange q
      let a := relocate s.c i a
      match (takeOn s.c i).bind (fun k => reachFault s.c k.2 false a n) with
      | some e => some (accessNg i q.pc e s)
      | none => some (flushLines (flushesLine s.c i a n) true s)

/-! ### One queue -/

/-- The instruction at the head of a queue runs; none while it is held. -/
def runHead (i u : Nat) (q : QItem) (s : State) : Option State :=
  let go := fun (f : Nat → QItem → State → State) => some (f i q (popQueue i u s))
  let goV := fun (f : Nat → QItem → State → State) => some (f i q (onCtl (tileCount i 16 1) (popQueue i u s)))
  match opOf q with
  | 0x28 => runSem i u q s
  | 0x2A => runCue i u q s
  | 0x2B => runFence i q s
  | 0x30 => go (runMsg false)
  | 0x31 => go (runMsg true)
  | 0x32 => runCollStart i q (popQueue i u s)
  | 0x33 => runCollWait i q (popQueue i u s)
  | 0x40 => goV runVFp
  | 0x41 => goV runVInt
  | 0x42 => goV runVSfu
  | 0x43 => goV runVCmp
  | 0x44 => goV runVSel
  | 0x45 => goV runVRed
  | 0x46 => goV runVTopk
  | 0x47 => goV runVPerm
  | 0x48 => goV runVCvt
  | 0x50 => goV runVLd
  | 0x51 => goV runVSt
  | 0x52 => goV runVBcast
  | 0x60 => go runVqQuant
  | 0x61 => go runVqDequant
  | 0x68 => go runMxWload
  | 0x69 => go runMxSwap
  | 0x6A => go runMxStream
  | 0x6B => go runMxDrain
  | 0x6C => go runMxZero
  | 0x80 => go runDlyMove
  | 0x81 => go runDlyGather
  | 0x82 => go runDlyDsc
  | _ => some (popQueue i u s)

/-- The first queue, in order of tile and UNIT, whose head moves, has moved; none where none does. Every move starts the order anew, so
that what a post releases is served in that order (R150). -/
def drainOne (s : State) : Option State :=
  (s.c.tiles.flatMap (fun e => e.2.queues.map (fun x => (e.1, x.1)))).findSome? (fun h =>
    (headOf s.c h.1 h.2).bind (fun q => runHead h.1 h.2 q s))

def drainLoop : Nat → State → State
  | 0, s => s
  | fuel + 1, s =>
    match drainOne s with
    | some s => drainLoop fuel s
    | none => s

/-- How many rounds can move something: every queued instruction, twice for a cue wait that first starts. -/
def queued (s : State) : Nat := sumNat (s.c.tiles.map (fun e => sumNat (e.2.queues.map (fun x => x.2.length))))

/-! ### Clappers (R152, R153) -/

/-- The participants of a root take: its tiles here, a gang counted by its leader. -/
def participants (c : Ctl) (root : Nat) : List Nat :=
  (c.tiles.filter (fun e => (match e.2.take with
    | some k => rootOf c k == root
    | none => false) && (e.2.width == 0 || e.2.leader == e.1))).map (fun e => e.1)

/-- Everything before a clap has completed in every queue of the participant, its messages included (R131, R152). -/
def clapDone (c : Ctl) (i : Nat) : Bool :=
  (gangOf c i).all (fun j => (tileAt c j).queues.all (fun x => x.2.isEmpty) && (tileAt c j).msgs.isEmpty)

/-- A participant arrives: an ID that differs ends the take; the last arrival sets the release. -/
def arriveClap (i : Nat) (s : State) : State :=
  let t := tileAt s.c i
  match t.clap, t.take with
  | some (id, _, pc), some k =>
    let root := rootOf s.c k
    let s := onTile i (fun t => { t with arrived := true }) s
    let first := match Map.get? s.c.share.clappers root with
      | some e => e.1
      | none => id
    if first ≠ id then ngAt i 0x0202 pc 0 s
    else
      let ps := participants s.c root
      let rel :=
        if ps.all (fun j => (tileAt s.c j).arrived) then
          some (slotCeil (Nat.max (now s.c + 2 ^ 14) (maxNat (ps.filterMap (fun j => (tileAt s.c j).clap.bind (fun x => x.2.1))))))
        else none
      onCtl (fun c => { c with share := { c.share with clappers := Map.put c.share.clappers root (first, rel) } }) s
  | _, _ => s

def arrivals (s : State) : State :=
  let due := (s.c.tiles.filter (fun e => e.2.clap.isSome && !e.2.arrived && clapDone s.c e.1)).map (fun e => e.1)
  due.foldl (fun s i => arriveClap i s) s

/-- The queues run as far as they go, then the claps whose turn has come arrive. -/
def drain (s : State) : State := arrivals (drainLoop (2 * queued s + 1) s)

end Sys2Proof.Machine
end

