-- ==== Sys2Proof/Machine/Cuts.lean ====
section
/-! DEFINITION. The cut (R481 to R485), the log (R499), and settling everything that follows from the end of a take. -/

namespace Sys2Proof.Machine

/-! ### The log (R499) -/

/-- Write a log entry: class, die code, reason, cell, generation, dailies byte, address. -/
def addLog (cls die code cell gen dump addr : Nat) (c : Ctl) : Ctl :=
  let e := leBytes 8 (now c) ++ leBytes 1 cls ++ leBytes 1 die ++ leBytes 2 code ++ leBytes 4 cell ++ leBytes 2 gen ++ leBytes 1 dump
    ++ [0] ++ leBytes 8 addr ++ List.replicate 4 0
  { c with flt := { c.flt with log := (e :: c.flt.log).take 64 } }

/-! ### The cut -/

/-- A take a cut ends: of the step group, accepted at or before the detection, without an outcome (R484). A composite take
ends through its members (R35). -/
def cutEnds (step tc : Nat) (t : Take) : Bool :=
  t.leaf && t.stepGroup == some step && t.st != .prepared && t.st != .ended && decide (t.acceptTc ≤ tc)

/-- What a cut does here, received or the module's own (R484). -/
def applyCut (step tc origin : Nat) (c : Ctl) : Ctl :=
  let c := { c with flt := { c.flt with cuts := (step, tc) :: c.flt.cuts } }
  let c := endTakes (fun _ t => cutEnds step tc t) 0x0402 (fun _ => (step, origin)) c
  forEach c.coll.groups (fun e c => if e.2.state = 2 ∧ e.2.step = step then breakGroup e.1 0x0402 e.2.index (0x0402, step, origin) c else c) c

/-- A cut for the step group lies within the last 2^22 tu (R485). -/
def cutRecently (step : Nat) (c : Ctl) : Bool := c.flt.cuts.any (fun x => x.1 == step && decide (now c ≤ x.2 + 2 ^ 22))

/-- The payload of a cut (R482). -/
def cutPayload (step reason kind reel num : Nat) (c : Ctl) : List Byte :=
  leBytes 4 step ++ leBytes 2 (sliceNow c) ++ leBytes 2 reason ++ leBytes 8 (now c) ++ leBytes 2 (moduleGen c) ++ leBytes 2 c.flt.cutNo
    ++ leBytes 1 kind ++ [0] ++ leBytes 2 reel ++ leBytes 8 num ++ List.replicate 32 0

/-- The logical IDs a cut goes to: every valid, unfenced entry but the module's own, in order (R483). -/
def cutTargets (c : Ctl) : List Nat := (rtEntries c).filter (fun n => !rtFenced c n && rtPhys c n != ownPhys c)

/-- Send a cut to every peer (R482, R483). -/
def transmitCut (step reason reel num kind : Nat) (c : Ctl) : Ctl :=
  let c := { c with flt := { c.flt with cutNo := (c.flt.cutNo + 1) % 2 ^ 16 } }
  let c := raise Reg.FLT_EVENTS_CUT_SENT (bump Reg.FLT_CUT_TX_COUNT 1 c)
  let (id, c) := nextCount 0xFF c
  let pay := cutPayload step reason kind reel num c
  forEach (cutTargets c) (fun n c => countF (ownerOf c (rtPhys c n)) 11 1 (sendEverywhere 8 (rtPhys c n) (0xFF000000 + id) pay c)) c

/-- Originate a cut, or suppress it (R481, R483, R485). -/
def originateCut (step reason reel num kind : Nat) (c : Ctl) : Ctl :=
  if cutRecently step c then bump Reg.FLT_CUT_SUPPRESSED_COUNT 1 c
  else applyCut step (now c) 0xFFFF (transmitCut step reason reel num kind c)

/-- Originate every cut that is due. -/
def originateCuts (c : Ctl) : Ctl :=
  let due := c.ad.cutsDue
  forEach due (fun x c => originateCut x.1 x.2.1 x.2.2.1 x.2.2.2.1 x.2.2.2.2 c) { c with ad := { c.ad with cutsDue := [] } }

/-! ### Collectives of ended takes (R359, R364) -/

/-- An operation whose take no longer runs: its group fails with that take's reason. -/
def failEnded (s : State) : State :=
  s.c.coll.groups.foldl (fun s e =>
    match (groupAt s.c e.1).ops.find? (fun o => match takeAt s.c o.take with
      | some t => t.st == TakeState.ended
      | none => true) with
    | none => s
    | some o =>
      let reason := match takeAt s.c o.take with
        | some t => t.reason
        | none => 0x0402
      failGroup e.1 reason (0x0402, e.2.step, 0xFFFF) 0 s) s

/-- Everything that follows from endings: outcomes, cuts, collectives, the plan. -/
def settleRounds : Nat → State → State
  | 0, s => onCtl settle s
  | n + 1, s =>
    if s.c.ad.replanDue then settleRounds n (failEnded (onCtl originateCuts (onCtl settle s))) else s

/-- Settle, and give the fabric what the AD has to tell other modules. -/
def settleAll (s : State) : State := flushCtl (flushColl (settleRounds 6 s))

/-- The step groups with an open take, in order of their earliest accepted take (R490), each with that take. -/
def openSteps (c : Ctl) : List (Nat × Take) :=
  let ts := (c.ad.takes.map (fun e => e.2)).filter (fun t => (t.st == .accepted || t.st == .started) && t.stepGroup.isSome)
  let keys := (ts.map (fun t => t.acceptTc)).foldr (fun z l => insertInt (z : Int) l) []
  let order := keys.flatMap (fun k => ts.filter (fun t => (t.acceptTc : Int) == k))
  (order.foldl (fun (a : List (Nat × Take)) t => match t.stepGroup with
    | some g => if a.any (fun x => x.1 == g) then a else a ++ [(g, t)]
    | none => a) [])

/-- Cuts of a kind for step groups with open takes (R469, R481, R490). -/
def cutOpen (limit reason kind : Nat) (c : Ctl) : Ctl :=
  forEach ((openSteps c).take limit) (fun x c => originateCut x.1 reason x.2.reel x.2.num kind c) c

/-- Cuts sent before a module reset or a departure: the module's own open takes end at the replay, in 0x0703, which goes
before a cut (R98, R110, R488, R490). -/
def announceCuts (limit reason kind : Nat) (c : Ctl) : Ctl :=
  forEach ((openSteps c).take limit) (fun x c =>
    if cutRecently x.1 c then bump Reg.FLT_CUT_SUPPRESSED_COUNT 1 c
    else
      let c := transmitCut x.1 reason x.2.reel x.2.num kind c
      { c with flt := { c.flt with cuts := (x.1, now c) :: c.flt.cuts } }) c

end Sys2Proof.Machine
end

