-- ==== Sys2Proof/Machine/RegTable.lean ====
section
/-! DEFINITION. Where each register field stands in control space: for each block window, the rows of its register
table (offset, stride, count, select window, field), from the register tables of the spec. -/

namespace Sys2Proof.Machine

def regRowsTC0 : List RegRow :=
  [⟨0x0, 0, 1, .none, fun _ _ => Reg.TC_NOW_LO_NOW⟩,
   ⟨0x4, 0, 1, .none, fun _ _ => Reg.TC_NOW_HI_NOW⟩,
   ⟨0x8, 0, 1, .none, fun _ _ => Reg.TC_STATE_LOCK⟩,
   ⟨0x8, 0, 1, .none, fun _ _ => Reg.TC_STATE_HOLDOVER⟩,
   ⟨0x8, 0, 1, .none, fun _ _ => Reg.TC_STATE_REF_OK⟩,
   ⟨0x8, 0, 1, .none, fun _ _ => Reg.TC_STATE_PULSE_OK⟩,
   ⟨0x8, 0, 1, .none, fun _ _ => Reg.TC_STATE_PTP_OK⟩,
   ⟨0x8, 0, 1, .none, fun _ _ => Reg.TC_STATE_GRID_OK⟩,
   ⟨0x8, 0, 1, .none, fun _ _ => Reg.TC_STATE_LINKS⟩,
   ⟨0xC, 0, 1, .none, fun _ _ => Reg.TC_CTRL_REF_EN⟩,
   ⟨0xC, 0, 1, .none, fun _ _ => Reg.TC_CTRL_PULSE_EN⟩,
   ⟨0xC, 0, 1, .none, fun _ _ => Reg.TC_CTRL_PTP_EN⟩,
   ⟨0xC, 0, 1, .none, fun _ _ => Reg.TC_CTRL_WILEF_EN⟩,
   ⟨0xC, 0, 1, .none, fun _ _ => Reg.TC_CTRL_DOMAIN_ROOT⟩,
   ⟨0xC, 0, 1, .none, fun _ _ => Reg.TC_CTRL_PTP_DOMAIN⟩,
   ⟨0x10, 0, 1, .none, fun _ _ => Reg.TC_HOLD_HOLD_S⟩,
   ⟨0x10, 0, 1, .none, fun _ _ => Reg.TC_HOLD_HOLD_PTP_S⟩,
   ⟨0x14, 0, 1, .none, fun _ _ => Reg.TC_SLEW_PPM_SLEW⟩,
   ⟨0x18, 0, 1, .none, fun _ _ => Reg.TC_ERR_EST_ERR⟩,
   ⟨0x1C, 0, 1, .none, fun _ _ => Reg.TC_STEP_STEP⟩,
   ⟨0x1C, 0, 1, .none, fun _ _ => Reg.TC_STEP_PENDING⟩,
   ⟨0x1C, 0, 1, .none, fun _ _ => Reg.TC_STEP_REFUSED⟩,
   ⟨0x20, 0, 1, .none, fun _ _ => Reg.TC_PTP_OFFSET_OFFSET⟩,
   ⟨0x24, 0, 1, .none, fun _ _ => Reg.TC_PULSE_OFFSET_OFFSET⟩,
   ⟨0x28, 0, 1, .none, fun _ _ => Reg.TC_DOMAIN_OFFSET_OFFSET⟩]

def regRowsTC1 : List RegRow :=
  [⟨0x2C, 0, 1, .none, fun _ _ => Reg.TC_EVENTS_STATE_DROP⟩,
   ⟨0x2C, 0, 1, .none, fun _ _ => Reg.TC_EVENTS_HOLDOVER_EV⟩,
   ⟨0x2C, 0, 1, .none, fun _ _ => Reg.TC_EVENTS_STEPPED⟩,
   ⟨0x2C, 0, 1, .none, fun _ _ => Reg.TC_EVENTS_LABEL_CONFLICT⟩,
   ⟨0x2C, 0, 1, .none, fun _ _ => Reg.TC_EVENTS_DOMAIN_CONFLICT⟩,
   ⟨0x2C, 0, 1, .none, fun _ _ => Reg.TC_EVENTS_PULSE_SPACING⟩,
   ⟨0x2C, 0, 1, .none, fun _ _ => Reg.TC_EVENTS_REF_RANGE⟩,
   ⟨0x2C, 0, 1, .none, fun _ _ => Reg.TC_EVENTS_GRID_STALE⟩,
   ⟨0x2C, 0, 1, .none, fun _ _ => Reg.TC_EVENTS_LATE_CUES⟩,
   ⟨0x30, 0, 1, .none, fun _ _ => Reg.TC_GRID_PERIOD_VALUE⟩,
   ⟨0x34, 0, 1, .none, fun _ _ => Reg.TC_GRID_LAST_LO_VALUE⟩,
   ⟨0x38, 0, 1, .none, fun _ _ => Reg.TC_GRID_LAST_HI_VALUE⟩,
   ⟨0x1000, 16, 18, .none, fun _ n => Reg.TC_LINK_OFFSET n⟩,
   ⟨0x1004, 16, 18, .none, fun _ n => Reg.TC_LINK_DELAY n⟩,
   ⟨0x1008, 16, 18, .none, fun _ n => Reg.TC_LINK_ASYM n⟩,
   ⟨0x100C, 16, 18, .none, fun _ n => Reg.TC_LINK_IN_SERVICE n⟩,
   ⟨0x100C, 16, 18, .none, fun _ n => Reg.TC_LINK_EXCLUDED n⟩,
   ⟨0x100C, 16, 18, .none, fun _ n => Reg.TC_LINK_PARTNER_VALID n⟩,
   ⟨0x100C, 16, 18, .none, fun _ n => Reg.TC_LINK_RUN n⟩,
   ⟨0x2000, 32, 64, .none, fun _ n => Reg.TC_CUE_TIME_LO n⟩,
   ⟨0x2004, 32, 64, .none, fun _ n => Reg.TC_CUE_TIME_HI n⟩,
   ⟨0x2008, 32, 64, .none, fun _ n => Reg.TC_CUE_CTRL_ARM n⟩,
   ⟨0x2008, 32, 64, .none, fun _ n => Reg.TC_CUE_CTRL_FIRED n⟩,
   ⟨0x2008, 32, 64, .none, fun _ n => Reg.TC_CUE_CTRL_LATE n⟩,
   ⟨0x2008, 32, 64, .none, fun _ n => Reg.TC_CUE_CTRL_PHASE_MODE n⟩]

def regRowsTC2 : List RegRow :=
  [⟨0x2008, 32, 64, .none, fun _ n => Reg.TC_CUE_CTRL_GRID_MISS n⟩,
   ⟨0x2008, 32, 64, .none, fun _ n => Reg.TC_CUE_CTRL_ACTION n⟩,
   ⟨0x2008, 32, 64, .none, fun _ n => Reg.TC_CUE_CTRL_PERIOD_LOG2 n⟩,
   ⟨0x200C, 32, 64, .none, fun _ n => Reg.TC_CUE_ARG n⟩,
   ⟨0x2010, 32, 64, .none, fun _ n => Reg.TC_CUE_PHASE n⟩,
   ⟨0xFFFFFC, 0, 1, .none, fun _ _ => Reg.TC_CS_UNMAPPED_COUNT⟩]

/-- The register table of the TC_ window (timecode, R78). -/
def regRowsTC : List RegRow :=
  regRowsTC0 ++ regRowsTC1 ++ regRowsTC2

def regRowsAD0 : List RegRow :=
  [⟨0x0, 0, 1, .none, fun _ _ => Reg.AD_CTRL_PAUSE⟩,
   ⟨0x4, 0, 1, .none, fun _ _ => Reg.AD_STATUS_ADMITTING⟩,
   ⟨0x4, 0, 1, .none, fun _ _ => Reg.AD_STATUS_REPLAYING⟩,
   ⟨0x4, 0, 1, .none, fun _ _ => Reg.AD_STATUS_CAP_UNREACHABLE⟩,
   ⟨0x4, 0, 1, .none, fun _ _ => Reg.AD_STATUS_ACTIVATION_HOLD⟩,
   ⟨0x4, 0, 1, .none, fun _ _ => Reg.AD_STATUS_GENERATION⟩,
   ⟨0x8, 0, 1, .none, fun _ _ => Reg.AD_FLOOR_CLOCK_F⟩,
   ⟨0xC, 0, 1, .none, fun _ _ => Reg.AD_LIMIT_LIMIT⟩,
   ⟨0x10, 0, 1, .none, fun _ _ => Reg.AD_OUTSTANDING_COUNT⟩,
   ⟨0x14, 0, 1, .none, fun _ _ => Reg.AD_TRANSPORT_UDP_PORT⟩,
   ⟨0x14, 0, 1, .none, fun _ _ => Reg.AD_TRANSPORT_IPV6_EN⟩,
   ⟨0x14, 0, 1, .none, fun _ _ => Reg.AD_TRANSPORT_IPV4_EN⟩,
   ⟨0x18, 0, 1, .none, fun _ _ => Reg.AD_ACCEPTS_COUNT⟩,
   ⟨0x1C, 0, 1, .none, fun _ _ => Reg.AD_REJECTS_COUNT⟩,
   ⟨0x20, 0, 1, .none, fun _ _ => Reg.AD_NGS_COUNT⟩,
   ⟨0x24, 0, 1, .none, fun _ _ => Reg.AD_DROPS_COUNT⟩,
   ⟨0x28, 0, 1, .none, fun _ _ => Reg.AD_LAST_REJECT_CODE⟩,
   ⟨0x28, 0, 1, .none, fun _ _ => Reg.AD_LAST_REJECT_REEL⟩,
   ⟨0x2C, 0, 1, .none, fun _ _ => Reg.AD_EVENTS_LEASE_LAPSE⟩,
   ⟨0x2C, 0, 1, .none, fun _ _ => Reg.AD_EVENTS_LIMIT_HIT⟩,
   ⟨0x2C, 0, 1, .none, fun _ _ => Reg.AD_EVENTS_REPLAN_NG⟩,
   ⟨0x2C, 0, 1, .none, fun _ _ => Reg.AD_EVENTS_DEADLINE_NG⟩,
   ⟨0x2C, 0, 1, .none, fun _ _ => Reg.AD_EVENTS_OVERLAP⟩,
   ⟨0x100, 0, 1, .none, fun _ _ => Reg.AD_REEL_SEL_REEL⟩,
   ⟨0x104, 0, 1, .reel, fun _ n => Reg.AD_REEL_CMD_CMD n⟩]

def regRowsAD1 : List RegRow :=
  [⟨0x108, 0, 1, .reel, fun _ n => Reg.AD_REEL_STATE_STATE n⟩,
   ⟨0x108, 0, 1, .reel, fun _ n => Reg.AD_REEL_STATE_ATTACHED n⟩,
   ⟨0x10C, 0, 1, .reel, fun _ n => Reg.AD_REEL_CFG_SLICE n⟩,
   ⟨0x10C, 0, 1, .reel, fun _ n => Reg.AD_REEL_CFG_LOCAL_TIME n⟩,
   ⟨0x10C, 0, 1, .reel, fun _ n => Reg.AD_REEL_CFG_COUNTERS_READ n⟩,
   ⟨0x10C, 0, 1, .reel, fun _ n => Reg.AD_REEL_CFG_CHECK_NG n⟩,
   ⟨0x10C, 0, 1, .reel, fun _ n => Reg.AD_REEL_CFG_HALT_ON_NG n⟩,
   ⟨0x10C, 0, 1, .reel, fun _ n => Reg.AD_REEL_CFG_IPV4 n⟩,
   ⟨0x110, 0, 1, .reel, fun _ n => Reg.AD_REEL_TARGET_CELL n⟩,
   ⟨0x114, 0, 1, .reel, fun _ n => Reg.AD_REEL_ADDR_0 n⟩,
   ⟨0x118, 0, 1, .reel, fun _ n => Reg.AD_REEL_ADDR_1 n⟩,
   ⟨0x11C, 0, 1, .reel, fun _ n => Reg.AD_REEL_ADDR_2 n⟩,
   ⟨0x120, 0, 1, .reel, fun _ n => Reg.AD_REEL_ADDR_3 n⟩,
   ⟨0x124, 0, 1, .reel, fun _ n => Reg.AD_REEL_PORT_PORT n⟩,
   ⟨0x128, 0, 1, .reel, fun _ n => Reg.AD_REEL_NEXT_LO_NEXT n⟩,
   ⟨0x12C, 0, 1, .reel, fun _ n => Reg.AD_REEL_NEXT_HI_NEXT n⟩,
   ⟨0x130, 0, 1, .reel, fun _ n => Reg.AD_REEL_ACKED_LO_ACKED n⟩,
   ⟨0x134, 0, 1, .reel, fun _ n => Reg.AD_REEL_ACKED_HI_ACKED n⟩,
   ⟨0x138, 0, 1, .reel, fun _ n => Reg.AD_REEL_OPEN_COUNT n⟩,
   ⟨0x13C, 0, 1, .reel, fun _ n => Reg.AD_REEL_HELD_COUNT n⟩,
   ⟨0xFFFFFC, 0, 1, .none, fun _ _ => Reg.AD_CS_UNMAPPED_COUNT⟩]

/-- The register table of the AD_ window (admission and scheduling, R124). -/
def regRowsAD : List RegRow :=
  regRowsAD0 ++ regRowsAD1

def regRowsCJ0 : List RegRow :=
  [⟨0x0, 0, 1, .none, fun _ _ => Reg.CJ_STATUS_REPLAY_DONE⟩,
   ⟨0x4, 0, 1, .none, fun _ _ => Reg.CJ_CAPACITY_SLOTS⟩,
   ⟨0x8, 0, 1, .none, fun _ _ => Reg.CJ_IN_USE_SLOTS⟩,
   ⟨0xC, 0, 1, .none, fun _ _ => Reg.CJ_WRITES_LO_COUNT⟩,
   ⟨0x10, 0, 1, .none, fun _ _ => Reg.CJ_WRITES_HI_COUNT⟩,
   ⟨0x14, 0, 1, .none, fun _ _ => Reg.CJ_WEAR_PERCENT⟩,
   ⟨0x18, 0, 1, .none, fun _ _ => Reg.CJ_REPLAY_NG_COUNT⟩,
   ⟨0x18, 0, 1, .none, fun _ _ => Reg.CJ_REPLAY_TIME_MS⟩,
   ⟨0x1C, 0, 1, .none, fun _ _ => Reg.CJ_ERRORS_CORRECTED⟩,
   ⟨0x1C, 0, 1, .none, fun _ _ => Reg.CJ_ERRORS_LOST⟩,
   ⟨0x20, 0, 1, .none, fun _ _ => Reg.CJ_EVENTS_REPLAYED⟩,
   ⟨0x20, 0, 1, .none, fun _ _ => Reg.CJ_EVENTS_SLOT_LOST⟩,
   ⟨0x20, 0, 1, .none, fun _ _ => Reg.CJ_EVENTS_REEL_COPY⟩,
   ⟨0x20, 0, 1, .none, fun _ _ => Reg.CJ_EVENTS_WEAR_WARN⟩,
   ⟨0xFFFFFC, 0, 1, .none, fun _ _ => Reg.CJ_CS_UNMAPPED_COUNT⟩]

/-- The register table of the CJ_ window (continuity journal, R126). -/
def regRowsCJ : List RegRow :=
  regRowsCJ0

def regRowsGAF0 : List RegRow :=
  [⟨0x0, 0, 1, .none, fun _ _ => Reg.GAF_STATUS_MODE⟩,
   ⟨0x0, 0, 1, .none, fun _ _ => Reg.GAF_STATUS_ESTIMATE⟩,
   ⟨0x0, 0, 1, .none, fun _ _ => Reg.GAF_STATUS_SENSOR_FAULT⟩,
   ⟨0x0, 0, 1, .none, fun _ _ => Reg.GAF_STATUS_CAPSTEP⟩,
   ⟨0x0, 0, 1, .none, fun _ _ => Reg.GAF_STATUS_PRESSED⟩,
   ⟨0x0, 0, 1, .none, fun _ _ => Reg.GAF_STATUS_FLOOR_HOLD⟩,
   ⟨0x0, 0, 1, .none, fun _ _ => Reg.GAF_STATUS_UNIFORM⟩,
   ⟨0x4, 0, 1, .none, fun _ _ => Reg.GAF_LIMITS_FLOOR⟩,
   ⟨0x4, 0, 1, .none, fun _ _ => Reg.GAF_LIMITS_CEIL⟩,
   ⟨0x8, 0, 1, .none, fun _ _ => Reg.GAF_CFG_CFG_CEIL⟩,
   ⟨0x8, 0, 1, .none, fun _ _ => Reg.GAF_CFG_ORPHAN⟩,
   ⟨0xC, 0, 1, .none, fun _ _ => Reg.GAF_CAP_CAP⟩,
   ⟨0x10, 0, 1, .none, fun _ _ => Reg.GAF_PROT_CAP_VALUE⟩,
   ⟨0x10, 0, 1, .none, fun _ _ => Reg.GAF_PROT_CAP_VALID⟩,
   ⟨0x14, 0, 1, .none, fun _ _ => Reg.GAF_CAPSTEP_VALUE⟩,
   ⟨0x18, 0, 1, .none, fun _ _ => Reg.GAF_SLOPE_UP⟩,
   ⟨0x18, 0, 1, .none, fun _ _ => Reg.GAF_SLOPE_DN⟩,
   ⟨0x1C, 0, 1, .none, fun _ _ => Reg.GAF_PROT_SLOPE_RATE⟩,
   ⟨0x20, 0, 1, .none, fun _ _ => Reg.GAF_CS_ACTIVE_SLOT⟩,
   ⟨0x20, 0, 1, .none, fun _ _ => Reg.GAF_CS_ACTIVE_BAND⟩,
   ⟨0x20, 0, 1, .none, fun _ _ => Reg.GAF_CS_ACTIVE_FRAC⟩,
   ⟨0x20, 0, 1, .none, fun _ _ => Reg.GAF_CS_ACTIVE_PENDING⟩,
   ⟨0x24, 0, 1, .none, fun _ _ => Reg.GAF_CS_NEXT_SLOT⟩,
   ⟨0x24, 0, 1, .none, fun _ _ => Reg.GAF_CS_NEXT_BAND⟩,
   ⟨0x24, 0, 1, .none, fun _ _ => Reg.GAF_CS_NEXT_FRAC⟩]

def regRowsGAF1 : List RegRow :=
  [⟨0x28, 0, 1, .none, fun _ _ => Reg.GAF_CS_FLOOR_NEXT_FLOOR_W⟩,
   ⟨0x28, 0, 1, .none, fun _ _ => Reg.GAF_CS_FLOOR_FLOOR_W⟩,
   ⟨0x2C, 0, 1, .none, fun _ _ => Reg.GAF_CS_FRAME_LO_FRAME⟩,
   ⟨0x30, 0, 1, .none, fun _ _ => Reg.GAF_CS_FRAME_HI_FRAME⟩,
   ⟨0x40, 0, 1, .none, fun _ _ => Reg.GAF_LEVEL_T⟩,
   ⟨0x40, 0, 1, .none, fun _ _ => Reg.GAF_LEVEL_E⟩,
   ⟨0x44, 0, 1, .none, fun _ _ => Reg.GAF_LEVEL2_Q⟩,
   ⟨0x44, 0, 1, .none, fun _ _ => Reg.GAF_LEVEL2_H⟩,
   ⟨0x48, 0, 1, .none, fun _ _ => Reg.GAF_P_IN_P_IN⟩,
   ⟨0x48, 0, 1, .none, fun _ _ => Reg.GAF_P_IN_V_IN⟩,
   ⟨0x4C, 0, 1, .none, fun _ _ => Reg.GAF_P_EST_P_MOD⟩,
   ⟨0x4C, 0, 1, .none, fun _ _ => Reg.GAF_P_EST_P_RAIL⟩,
   ⟨0x50, 0, 1, .none, fun _ _ => Reg.GAF_P_CTL_P_CTL⟩,
   ⟨0x50, 0, 1, .none, fun _ _ => Reg.GAF_P_CTL_AVG_1S⟩,
   ⟨0x54, 0, 1, .none, fun _ _ => Reg.GAF_TONE_LEVEL⟩,
   ⟨0x54, 0, 1, .none, fun _ _ => Reg.GAF_TONE_MAX⟩,
   ⟨0x58, 0, 1, .none, fun _ _ => Reg.GAF_CLOCK_ACTUAL⟩,
   ⟨0x58, 0, 1, .none, fun _ _ => Reg.GAF_CLOCK_ASSURED⟩,
   ⟨0x5C, 0, 1, .none, fun _ _ => Reg.GAF_THROTTLE_ISSUE⟩,
   ⟨0x60, 0, 1, .none, fun _ _ => Reg.GAF_LAG_FRAMES⟩,
   ⟨0x64, 0, 1, .none, fun _ _ => Reg.GAF_CORR_RATIO⟩,
   ⟨0x64, 0, 1, .none, fun _ _ => Reg.GAF_CORR_CORR_MS⟩,
   ⟨0x70, 4, 4, .none, fun _ n => Reg.GAF_RAIL_CURRENT n⟩,
   ⟨0x70, 4, 4, .none, fun _ n => Reg.GAF_RAIL_LIMIT n⟩,
   ⟨0x80, 0, 1, .none, fun _ _ => Reg.GAF_E_IN_LO_ENERGY⟩]

def regRowsGAF2 : List RegRow :=
  [⟨0x84, 0, 1, .none, fun _ _ => Reg.GAF_E_IN_HI_ENERGY⟩,
   ⟨0x88, 0, 1, .none, fun _ _ => Reg.GAF_E_TONE_LO_ENERGY⟩,
   ⟨0x8C, 0, 1, .none, fun _ _ => Reg.GAF_E_TONE_HI_ENERGY⟩,
   ⟨0x90, 0, 1, .none, fun _ _ => Reg.GAF_E_OVERHEAD_LO_ENERGY⟩,
   ⟨0x94, 0, 1, .none, fun _ _ => Reg.GAF_E_OVERHEAD_HI_ENERGY⟩,
   ⟨0x98, 0, 1, .none, fun _ _ => Reg.GAF_E_SLICE_LO_ENERGY⟩,
   ⟨0x9C, 0, 1, .none, fun _ _ => Reg.GAF_E_SLICE_HI_ENERGY⟩,
   ⟨0xA0, 0, 1, .none, fun _ _ => Reg.GAF_E_REEL_SEL_REEL⟩,
   ⟨0xA4, 0, 1, .energyReel, fun _ n => Reg.GAF_E_REEL_LO_ENERGY n⟩,
   ⟨0xA8, 0, 1, .energyReel, fun _ n => Reg.GAF_E_REEL_HI_ENERGY n⟩,
   ⟨0xB0, 0, 1, .none, fun _ _ => Reg.GAF_LAGS_COUNT⟩,
   ⟨0xB4, 0, 1, .none, fun _ _ => Reg.GAF_PROTECTIVE_COUNT⟩,
   ⟨0xB8, 0, 1, .none, fun _ _ => Reg.GAF_TONE_SHORT_COUNT⟩,
   ⟨0xBC, 0, 1, .none, fun _ _ => Reg.GAF_OVER_CURRENT_COUNT⟩,
   ⟨0xC0, 0, 1, .none, fun _ _ => Reg.GAF_STEP_SKIPS_COUNT⟩,
   ⟨0xC4, 0, 1, .none, fun _ _ => Reg.GAF_UNBOUNDED_FALLS_COUNT⟩,
   ⟨0xD0, 0, 1, .none, fun _ _ => Reg.GAF_EVENTS_CAP_LAG⟩,
   ⟨0xD0, 0, 1, .none, fun _ _ => Reg.GAF_EVENTS_CAP_UNREACHABLE⟩,
   ⟨0xD0, 0, 1, .none, fun _ _ => Reg.GAF_EVENTS_PROTECTIVE⟩,
   ⟨0xD0, 0, 1, .none, fun _ _ => Reg.GAF_EVENTS_MODEL_DIVERGE⟩,
   ⟨0xD0, 0, 1, .none, fun _ _ => Reg.GAF_EVENTS_SENSOR_FAULT⟩,
   ⟨0xD0, 0, 1, .none, fun _ _ => Reg.GAF_EVENTS_TONE_SHORT⟩,
   ⟨0xD0, 0, 1, .none, fun _ _ => Reg.GAF_EVENTS_OVER_CURRENT⟩,
   ⟨0xD0, 0, 1, .none, fun _ _ => Reg.GAF_EVENTS_CEILING_CLAMP⟩,
   ⟨0xD0, 0, 1, .none, fun _ _ => Reg.GAF_EVENTS_SHUTDOWN⟩]

def regRowsGAF3 : List RegRow :=
  [⟨0xD0, 0, 1, .none, fun _ _ => Reg.GAF_EVENTS_LP_SHORT⟩,
   ⟨0xD0, 0, 1, .none, fun _ _ => Reg.GAF_EVENTS_UNIFORM_BREAK⟩,
   ⟨0x100, 0, 1, .none, fun _ _ => Reg.GAF_LP_CTRL_ROLE⟩,
   ⟨0x100, 0, 1, .none, fun _ _ => Reg.GAF_LP_CTRL_UNIFORM⟩,
   ⟨0x100, 0, 1, .none, fun _ _ => Reg.GAF_LP_CTRL_ENABLE⟩,
   ⟨0x100, 0, 1, .none, fun _ _ => Reg.GAF_LP_CTRL_LP⟩,
   ⟨0x104, 0, 1, .none, fun _ _ => Reg.GAF_LP_TOTAL_TOTAL⟩,
   ⟨0x108, 0, 1, .none, fun _ _ => Reg.GAF_LP_SHIFT_MAX_SHIFT⟩,
   ⟨0x10C, 0, 1, .none, fun _ _ => Reg.GAF_LP_ALLOC_ALLOC⟩,
   ⟨0x10C, 0, 1, .none, fun _ _ => Reg.GAF_LP_ALLOC_CLOCK⟩,
   ⟨0x110, 0, 1, .none, fun _ _ => Reg.GAF_LP_STATUS_MEMBERS⟩,
   ⟨0x110, 0, 1, .none, fun _ _ => Reg.GAF_LP_STATUS_RECORDS⟩,
   ⟨0x120, 0, 1, .none, fun _ _ => Reg.GAF_LOG_SEL_ENTRY⟩,
   ⟨0x124, 0, 1, .none, fun _ _ => Reg.GAF_LOG_KIND_KIND⟩,
   ⟨0x124, 0, 1, .none, fun _ _ => Reg.GAF_LOG_KIND_VALUE⟩,
   ⟨0x128, 0, 1, .none, fun _ _ => Reg.GAF_LOG_TIME_LO_TIME⟩,
   ⟨0x12C, 0, 1, .none, fun _ _ => Reg.GAF_LOG_TIME_HI_TIME⟩,
   ⟨0xFFFFFC, 0, 1, .none, fun _ _ => Reg.GAF_CS_UNMAPPED_COUNT⟩]

/-- The register table of the GAF_ window (gaffer, R437). -/
def regRowsGAF : List RegRow :=
  regRowsGAF0 ++ regRowsGAF1 ++ regRowsGAF2 ++ regRowsGAF3

def regRowsCLK0 : List RegRow :=
  [⟨0x0, 0, 1, .none, fun _ _ => Reg.CLK_STATUS_XO_OK⟩,
   ⟨0x0, 0, 1, .none, fun _ _ => Reg.CLK_STATUS_JUDGE⟩,
   ⟨0x0, 0, 1, .none, fun _ _ => Reg.CLK_STATUS_REFCLK_OK⟩,
   ⟨0x0, 0, 1, .none, fun _ _ => Reg.CLK_STATUS_HOLDOVER⟩,
   ⟨0x4, 0, 1, .none, fun _ _ => Reg.CLK_DOM_SEL_DOM⟩,
   ⟨0x8, 0, 1, .domain, fun _ n => Reg.CLK_DOM_CTRL_EN_RUN n⟩,
   ⟨0x8, 0, 1, .domain, fun _ n => Reg.CLK_DOM_CTRL_EN_SLEEP n⟩,
   ⟨0x8, 0, 1, .domain, fun _ n => Reg.CLK_DOM_CTRL_EN_DEEP n⟩,
   ⟨0x8, 0, 1, .domain, fun _ n => Reg.CLK_DOM_CTRL_SOURCE n⟩,
   ⟨0x8, 0, 1, .domain, fun _ n => Reg.CLK_DOM_CTRL_SWITCHING n⟩,
   ⟨0x8, 0, 1, .domain, fun _ n => Reg.CLK_DOM_CTRL_DIV n⟩,
   ⟨0xC, 0, 1, .domain, fun _ n => Reg.CLK_DOM_FREQ_MHZ n⟩,
   ⟨0x10, 0, 1, .none, fun _ _ => Reg.CLK_SW_TIME_LO_TIME⟩,
   ⟨0x14, 0, 1, .none, fun _ _ => Reg.CLK_SW_TIME_HI_TIME⟩,
   ⟨0x18, 0, 1, .none, fun _ _ => Reg.CLK_SW_CMD_DOM⟩,
   ⟨0x18, 0, 1, .none, fun _ _ => Reg.CLK_SW_CMD_SOURCE⟩,
   ⟨0x1C, 0, 1, .none, fun _ _ => Reg.CLK_SW_STATUS_ARMED⟩,
   ⟨0x1C, 0, 1, .none, fun _ _ => Reg.CLK_SW_STATUS_REFUSAL⟩,
   ⟨0x20, 0, 1, .none, fun _ _ => Reg.CLK_OBS_SRC⟩,
   ⟨0x20, 0, 1, .none, fun _ _ => Reg.CLK_OBS_N⟩,
   ⟨0x20, 0, 1, .none, fun _ _ => Reg.CLK_OBS_EN⟩,
   ⟨0x20, 0, 1, .none, fun _ _ => Reg.CLK_OBS_REFUSED⟩,
   ⟨0x24, 0, 1, .none, fun _ _ => Reg.CLK_FCOUNT_SEL_SRC⟩,
   ⟨0x24, 0, 1, .none, fun _ _ => Reg.CLK_FCOUNT_SEL_START⟩,
   ⟨0x28, 0, 1, .none, fun _ _ => Reg.CLK_FCOUNT_KHZ⟩]

def regRowsCLK1 : List RegRow :=
  [⟨0x28, 0, 1, .none, fun _ _ => Reg.CLK_FCOUNT_VALID⟩,
   ⟨0x28, 0, 1, .none, fun _ _ => Reg.CLK_FCOUNT_GATE_XO⟩,
   ⟨0x100, 16, 8, .none, fun _ n => Reg.CLK_DROOP_EVENTS_COUNT n⟩,
   ⟨0x104, 16, 8, .none, fun _ n => Reg.CLK_DROOP_STRETCHED_CYCLES n⟩,
   ⟨0x108, 16, 8, .none, fun _ n => Reg.CLK_DROOP_WORST_MV n⟩,
   ⟨0x108, 16, 8, .none, fun _ n => Reg.CLK_DROOP_WORST_SENSOR n⟩,
   ⟨0x10C, 16, 8, .none, fun _ n => Reg.CLK_LADDER_WAITS_COUNT n⟩,
   ⟨0x200, 16, 8, .none, fun _ n => Reg.CLK_TH_STATE_TMAX n⟩,
   ⟨0x200, 16, 8, .none, fun _ n => Reg.CLK_TH_STATE_VALID n⟩,
   ⟨0x200, 16, 8, .none, fun _ n => Reg.CLK_TH_STATE_THROTTLED n⟩,
   ⟨0x200, 16, 8, .none, fun _ n => Reg.CLK_TH_STATE_ISSUE_LIMIT n⟩,
   ⟨0x200, 16, 8, .none, fun _ n => Reg.CLK_TH_STATE_PINNED n⟩,
   ⟨0x204, 16, 8, .none, fun _ n => Reg.CLK_TH_CEIL_MHZ n⟩,
   ⟨0x208, 16, 8, .none, fun _ n => Reg.CLK_TH_EXCLUDED_SENSORS n⟩,
   ⟨0x20C, 16, 8, .none, fun _ n => Reg.CLK_TH_THROTTLE_MS_MS n⟩,
   ⟨0x300, 0, 1, .none, fun _ _ => Reg.CLK_TH_LIMIT_THROTTLE⟩,
   ⟨0x304, 0, 1, .none, fun _ _ => Reg.CLK_TH_SENSOR_SEL_SENSOR⟩,
   ⟨0x304, 0, 1, .none, fun _ _ => Reg.CLK_TH_SENSOR_SEL_DIE⟩,
   ⟨0x308, 0, 1, .sensor, fun _ n => Reg.CLK_TH_SENSOR_TEMP n⟩,
   ⟨0x308, 0, 1, .sensor, fun _ n => Reg.CLK_TH_SENSOR_VALID n⟩,
   ⟨0x308, 0, 1, .sensor, fun _ n => Reg.CLK_TH_SENSOR_EXCL_COLD n⟩,
   ⟨0x308, 0, 1, .sensor, fun _ n => Reg.CLK_TH_SENSOR_EXCL_FLAT n⟩,
   ⟨0x30C, 0, 1, .none, fun _ _ => Reg.CLK_TH_OTHER_TMAX⟩,
   ⟨0x30C, 0, 1, .none, fun _ _ => Reg.CLK_TH_OTHER_DIE⟩,
   ⟨0x310, 0, 1, .none, fun _ _ => Reg.CLK_TRIP_DIE⟩]

def regRowsCLK2 : List RegRow :=
  [⟨0x310, 0, 1, .none, fun _ _ => Reg.CLK_TRIP_SENSOR⟩,
   ⟨0x310, 0, 1, .none, fun _ _ => Reg.CLK_TRIP_VALID⟩,
   ⟨0x400, 0, 1, .none, fun _ _ => Reg.CLK_LEAK_RES⟩,
   ⟨0x400, 0, 1, .none, fun _ _ => Reg.CLK_LEAK_STATE⟩,
   ⟨0x404, 0, 1, .none, fun _ _ => Reg.CLK_COOL_TEMP⟩,
   ⟨0x404, 0, 1, .none, fun _ _ => Reg.CLK_COOL_VALID⟩,
   ⟨0x404, 0, 1, .none, fun _ _ => Reg.CLK_COOL_OPEN⟩,
   ⟨0x404, 0, 1, .none, fun _ _ => Reg.CLK_COOL_SHORT⟩,
   ⟨0x404, 0, 1, .none, fun _ _ => Reg.CLK_COOL_HIGH⟩,
   ⟨0x408, 0, 1, .none, fun _ _ => Reg.CLK_EVENTS_XO_LOST⟩,
   ⟨0x408, 0, 1, .none, fun _ _ => Reg.CLK_EVENTS_REFCLK_LOST⟩,
   ⟨0x408, 0, 1, .none, fun _ _ => Reg.CLK_EVENTS_REFCLK_BACK⟩,
   ⟨0x408, 0, 1, .none, fun _ _ => Reg.CLK_EVENTS_SWITCH_DONE⟩,
   ⟨0x408, 0, 1, .none, fun _ _ => Reg.CLK_EVENTS_SWITCH_REFUSED⟩,
   ⟨0x408, 0, 1, .none, fun _ _ => Reg.CLK_EVENTS_THROTTLE⟩,
   ⟨0x408, 0, 1, .none, fun _ _ => Reg.CLK_EVENTS_SENSOR_EXCLUDED⟩,
   ⟨0x408, 0, 1, .none, fun _ _ => Reg.CLK_EVENTS_DIE_PINNED⟩,
   ⟨0x408, 0, 1, .none, fun _ _ => Reg.CLK_EVENTS_OTHER_HOT⟩,
   ⟨0x408, 0, 1, .none, fun _ _ => Reg.CLK_EVENTS_LEAK_WET⟩,
   ⟨0x408, 0, 1, .none, fun _ _ => Reg.CLK_EVENTS_LEAK_OPEN⟩,
   ⟨0x408, 0, 1, .none, fun _ _ => Reg.CLK_EVENTS_LEAK_MARGINAL⟩,
   ⟨0x408, 0, 1, .none, fun _ _ => Reg.CLK_EVENTS_COOL_FAULT⟩,
   ⟨0x408, 0, 1, .none, fun _ _ => Reg.CLK_EVENTS_COOL_HIGH⟩,
   ⟨0x408, 0, 1, .none, fun _ _ => Reg.CLK_EVENTS_OBS_REFUSED⟩,
   ⟨0xFFFFFC, 0, 1, .none, fun _ _ => Reg.CLK_CS_UNMAPPED_COUNT⟩]

/-- The register table of the CLK_ window (clocks and thermal, R466). -/
def regRowsCLK : List RegRow :=
  regRowsCLK0 ++ regRowsCLK1 ++ regRowsCLK2

def regRowsFLT0 : List RegRow :=
  [⟨0x0, 0, 1, .none, fun _ _ => Reg.FLT_STATUS_LEVEL⟩,
   ⟨0x0, 0, 1, .none, fun _ _ => Reg.FLT_STATUS_DUMP_BUSY⟩,
   ⟨0x0, 0, 1, .none, fun _ _ => Reg.FLT_STATUS_RESET_BUSY⟩,
   ⟨0x0, 0, 1, .none, fun _ _ => Reg.FLT_STATUS_DEPARTING⟩,
   ⟨0x0, 0, 1, .none, fun _ _ => Reg.FLT_STATUS_FATAL⟩,
   ⟨0x4, 0, 1, .none, fun _ _ => Reg.FLT_COUNT_CORR_COUNT⟩,
   ⟨0x8, 0, 1, .none, fun _ _ => Reg.FLT_COUNT_CONT_COUNT⟩,
   ⟨0xC, 0, 1, .none, fun _ _ => Reg.FLT_COUNT_DOMAIN_COUNT⟩,
   ⟨0x10, 0, 1, .none, fun _ _ => Reg.FLT_COUNT_MODULE_COUNT⟩,
   ⟨0x14, 0, 1, .none, fun _ _ => Reg.FLT_COUNT_FATAL_COUNT⟩,
   ⟨0x18, 0, 1, .none, fun _ _ => Reg.FLT_HANGS_COUNT⟩,
   ⟨0x1C, 0, 1, .none, fun _ _ => Reg.FLT_STALE_COUNT⟩,
   ⟨0x20, 0, 1, .none, fun _ _ => Reg.FLT_RESET_CELL_CELL⟩,
   ⟨0x24, 0, 1, .none, fun _ _ => Reg.FLT_RESET_CMD_CMD⟩,
   ⟨0x28, 0, 1, .none, fun _ _ => Reg.FLT_RESET_STATUS_REFUSAL⟩,
   ⟨0x2C, 0, 1, .none, fun _ _ => Reg.FLT_GEN_SEL_CELL⟩,
   ⟨0x30, 0, 1, .none, fun _ _ => Reg.FLT_GEN_GEN⟩,
   ⟨0x30, 0, 1, .none, fun _ _ => Reg.FLT_GEN_VALID⟩,
   ⟨0x34, 0, 1, .none, fun _ _ => Reg.FLT_LAST_RESET_SOURCE⟩,
   ⟨0x40, 0, 1, .none, fun _ _ => Reg.FLT_CUT_TX_COUNT⟩,
   ⟨0x44, 0, 1, .none, fun _ _ => Reg.FLT_CUT_RX_COUNT⟩,
   ⟨0x48, 0, 1, .none, fun _ _ => Reg.FLT_CUT_SUPPRESSED_COUNT⟩,
   ⟨0x80, 0, 1, .none, fun _ _ => Reg.FLT_LOG_SEL_ENTRY⟩,
   ⟨0x84, 4, 8, .none, fun _ n => Reg.FLT_LOG_WORD_WORD n⟩,
   ⟨0xC0, 0, 1, .none, fun _ _ => Reg.FLT_DLY_SEL_SLOT⟩]

def regRowsFLT1 : List RegRow :=
  [⟨0xC0, 0, 1, .none, fun _ _ => Reg.FLT_DLY_SEL_DIE⟩,
   ⟨0xC4, 0, 1, .dailies, fun _ n => Reg.FLT_DLY_STATE_VALID n⟩,
   ⟨0xC4, 0, 1, .dailies, fun _ n => Reg.FLT_DLY_STATE_COMPLETE n⟩,
   ⟨0xC4, 0, 1, .dailies, fun _ n => Reg.FLT_DLY_STATE_TILES n⟩,
   ⟨0xC4, 0, 1, .dailies, fun _ n => Reg.FLT_DLY_STATE_UNCAPTURED n⟩,
   ⟨0xC8, 0, 1, .dailies, fun _ n => Reg.FLT_DLY_TIME_US n⟩,
   ⟨0xCC, 0, 1, .none, fun _ _ => Reg.FLT_DLY_RELEASE_RELEASE⟩,
   ⟨0xD0, 0, 1, .none, fun _ _ => Reg.FLT_DLY_OVERWRITTEN_COUNT⟩,
   ⟨0x100, 4, 16, .none, fun _ n => Reg.FLT_PROFILE_WORD_WORD n⟩,
   ⟨0x140, 0, 1, .none, fun _ _ => Reg.FLT_PROFILE_ACK_SEQ⟩,
   ⟨0x180, 0, 1, .none, fun _ _ => Reg.FLT_SUSPECT_LO_GROUPS⟩,
   ⟨0x184, 0, 1, .none, fun _ _ => Reg.FLT_SUSPECT_HI_GROUPS⟩,
   ⟨0x188, 0, 1, .none, fun _ _ => Reg.FLT_REPAIR_CMD_DIE⟩,
   ⟨0x188, 0, 1, .none, fun _ _ => Reg.FLT_REPAIR_CMD_GROUP⟩,
   ⟨0x188, 0, 1, .none, fun _ _ => Reg.FLT_REPAIR_CMD_GO⟩,
   ⟨0x18C, 0, 1, .none, fun _ _ => Reg.FLT_REPAIR_STATUS_BUSY⟩,
   ⟨0x18C, 0, 1, .none, fun _ _ => Reg.FLT_REPAIR_STATUS_DONE⟩,
   ⟨0x18C, 0, 1, .none, fun _ _ => Reg.FLT_REPAIR_STATUS_REFUSAL⟩,
   ⟨0x190, 0, 1, .none, fun _ _ => Reg.FLT_EVENTS_HANG⟩,
   ⟨0x190, 0, 1, .none, fun _ _ => Reg.FLT_EVENTS_DOMAIN_RESET⟩,
   ⟨0x190, 0, 1, .none, fun _ _ => Reg.FLT_EVENTS_MODULE_RESET⟩,
   ⟨0x190, 0, 1, .none, fun _ _ => Reg.FLT_EVENTS_ESCALATED⟩,
   ⟨0x190, 0, 1, .none, fun _ _ => Reg.FLT_EVENTS_CUT_SENT⟩,
   ⟨0x190, 0, 1, .none, fun _ _ => Reg.FLT_EVENTS_CUT_RECEIVED⟩,
   ⟨0x190, 0, 1, .none, fun _ _ => Reg.FLT_EVENTS_DUMP_TRUNCATED⟩]

def regRowsFLT2 : List RegRow :=
  [⟨0x190, 0, 1, .none, fun _ _ => Reg.FLT_EVENTS_SUSPECT⟩,
   ⟨0x190, 0, 1, .none, fun _ _ => Reg.FLT_EVENTS_REPAIR_DONE⟩,
   ⟨0x190, 0, 1, .none, fun _ _ => Reg.FLT_EVENTS_PROFILE_CHANGED⟩,
   ⟨0x190, 0, 1, .none, fun _ _ => Reg.FLT_EVENTS_POWER_LOSS⟩,
   ⟨0x190, 0, 1, .none, fun _ _ => Reg.FLT_EVENTS_FATAL⟩,
   ⟨0xFFFFFC, 0, 1, .none, fun _ _ => Reg.FLT_CS_UNMAPPED_COUNT⟩]

/-- The register table of the FLT_ window (faults, R498). -/
def regRowsFLT : List RegRow :=
  regRowsFLT0 ++ regRowsFLT1 ++ regRowsFLT2

def regRowsCNT0 : List RegRow :=
  [⟨0x0, 4, 1024, .none, fun _ n => Reg.CNT_COUNT n⟩,
   ⟨0x1000, 4, 1024, .none, fun _ n => Reg.CNT_CFG_CHAIN n⟩,
   ⟨0x1000, 4, 1024, .none, fun _ n => Reg.CNT_CFG_MODE n⟩,
   ⟨0x1000, 4, 1024, .none, fun _ n => Reg.CNT_CFG_OVF n⟩,
   ⟨0x2000, 4, 1024, .none, fun _ n => Reg.CNT_SAMPLE_VALUE n⟩,
   ⟨0x3000, 0, 1, .none, fun _ _ => Reg.CNT_SAMPLE_TIME_LO_TIME⟩,
   ⟨0x3004, 0, 1, .none, fun _ _ => Reg.CNT_SAMPLE_TIME_HI_TIME⟩,
   ⟨0x3008, 0, 1, .none, fun _ _ => Reg.CNT_SAMPLE_SEQ_SEQ⟩,
   ⟨0x3010, 0, 1, .none, fun _ _ => Reg.CNT_UNMAPPED_COUNT⟩,
   ⟨0x4000, 32, 179, .none, fun _ n => Reg.CNT_PORT_CTRL_K n⟩,
   ⟨0x4000, 32, 179, .none, fun _ n => Reg.CNT_PORT_CTRL_STEPPED n⟩,
   ⟨0x4004, 32, 179, .none, fun _ n => Reg.CNT_PORT_LAST_OUT n⟩,
   ⟨0x4008, 32, 179, .none, fun _ n => Reg.CNT_PORT_LAST_IN n⟩,
   ⟨0x400C, 32, 179, .none, fun _ n => Reg.CNT_PORT_PEAK_OUT n⟩,
   ⟨0x4010, 32, 179, .none, fun _ n => Reg.CNT_PORT_PEAK_IN n⟩,
   ⟨0x4014, 32, 179, .none, fun _ n => Reg.CNT_PORT_PEAK_OUT_AT n⟩,
   ⟨0x4018, 32, 179, .none, fun _ n => Reg.CNT_PORT_PEAK_IN_AT n⟩,
   ⟨0xFFFFFC, 0, 1, .none, fun _ _ => Reg.CNT_CS_UNMAPPED_COUNT⟩]

/-- The register table of the CNT_ window (counters, R515). -/
def regRowsCNT : List RegRow :=
  regRowsCNT0

def regRowsMEM0 : List RegRow :=
  [⟨0x0, 0, 1, .none, fun _ _ => Reg.MEM_STATUS_DEV_IN_SERVICE⟩,
   ⟨0x0, 0, 1, .none, fun _ _ => Reg.MEM_STATUS_INIT_DONE⟩,
   ⟨0x0, 0, 1, .none, fun _ _ => Reg.MEM_STATUS_FLUSH_BUSY⟩,
   ⟨0x0, 0, 1, .none, fun _ _ => Reg.MEM_STATUS_RELEASE_BUSY⟩,
   ⟨0x0, 0, 1, .none, fun _ _ => Reg.MEM_STATUS_APPLY_BUSY⟩,
   ⟨0x0, 0, 1, .none, fun _ _ => Reg.MEM_STATUS_CHANNELS⟩,
   ⟨0x4, 0, 1, .none, fun _ _ => Reg.MEM_SIZE_GIB⟩,
   ⟨0x8, 0, 1, .none, fun _ _ => Reg.MEM_SPEED_TARGET⟩,
   ⟨0x8, 0, 1, .none, fun _ _ => Reg.MEM_SPEED_DEV_BIN⟩,
   ⟨0xC, 0, 1, .none, fun _ _ => Reg.MEM_TRAIN_STORED_USED⟩,
   ⟨0xC, 0, 1, .none, fun _ _ => Reg.MEM_TRAIN_FORCE_COLD⟩,
   ⟨0xC, 0, 1, .none, fun _ _ => Reg.MEM_TRAIN_LAST_MS⟩,
   ⟨0x10, 0, 1, .none, fun _ _ => Reg.MEM_ALLOT_LPDDR_BASE⟩,
   ⟨0x10, 0, 1, .none, fun _ _ => Reg.MEM_ALLOT_LPDDR_LIMIT⟩,
   ⟨0x14, 0, 1, .none, fun _ _ => Reg.MEM_CACHE_RANGE_BASE⟩,
   ⟨0x14, 0, 1, .none, fun _ _ => Reg.MEM_CACHE_RANGE_LIMIT⟩,
   ⟨0x18, 0, 1, .none, fun _ _ => Reg.MEM_CACHE_CFG_PLACEMENT⟩,
   ⟨0x1C, 0, 1, .none, fun _ _ => Reg.MEM_CFG_APPLY_APPLY⟩,
   ⟨0x20, 0, 1, .none, fun _ _ => Reg.MEM_CFG_STATUS_REFUSAL⟩,
   ⟨0x20, 0, 1, .none, fun _ _ => Reg.MEM_CFG_STATUS_APPLIED⟩,
   ⟨0x40, 4, 8, .none, fun _ n => Reg.MEM_UNIT_MODE_CACHE n⟩,
   ⟨0x60, 4, 8, .none, fun _ n => Reg.MEM_ALLOT_SRAM_ALLOT n⟩,
   ⟨0x80, 0, 1, .none, fun _ _ => Reg.MEM_FLUSH_CMD_CMD⟩,
   ⟨0x84, 0, 1, .none, fun _ _ => Reg.MEM_FLUSH_STATUS_BUSY⟩,
   ⟨0x84, 0, 1, .none, fun _ _ => Reg.MEM_FLUSH_STATUS_RESUMED⟩]

def regRowsMEM1 : List RegRow :=
  [⟨0x84, 0, 1, .none, fun _ _ => Reg.MEM_FLUSH_STATUS_UNITS_LEFT⟩,
   ⟨0x88, 0, 1, .none, fun _ _ => Reg.MEM_SCRUB_CTRL_LPDDR_PERIOD_H⟩,
   ⟨0x88, 0, 1, .none, fun _ _ => Reg.MEM_SCRUB_CTRL_SRAM_PERIOD_H⟩,
   ⟨0x8C, 0, 1, .none, fun _ _ => Reg.MEM_SCRUB_STATUS_POSITION_GIB⟩,
   ⟨0x8C, 0, 1, .none, fun _ _ => Reg.MEM_SCRUB_STATUS_PASSES⟩,
   ⟨0x90, 0, 1, .none, fun _ _ => Reg.MEM_RELEASE_CMD_RELEASE⟩,
   ⟨0x94, 0, 1, .none, fun _ _ => Reg.MEM_RELEASE_STATUS_BUSY⟩,
   ⟨0x94, 0, 1, .none, fun _ _ => Reg.MEM_RELEASE_STATUS_DONE⟩,
   ⟨0x94, 0, 1, .none, fun _ _ => Reg.MEM_RELEASE_STATUS_LAST_MS⟩,
   ⟨0x98, 0, 1, .none, fun _ _ => Reg.MEM_ENC_CTRL_ENABLE⟩,
   ⟨0x98, 0, 1, .none, fun _ _ => Reg.MEM_ENC_CTRL_ACTIVE⟩,
   ⟨0x98, 0, 1, .none, fun _ _ => Reg.MEM_ENC_CTRL_KEY_PRESENT⟩,
   ⟨0xA0, 0, 1, .none, fun _ _ => Reg.MEM_ECC_CORR_COUNT⟩,
   ⟨0xA4, 0, 1, .none, fun _ _ => Reg.MEM_ECC_UNCORR_COUNT⟩,
   ⟨0xA8, 0, 1, .none, fun _ _ => Reg.MEM_LINK_ECC_COUNT⟩,
   ⟨0xAC, 0, 1, .none, fun _ _ => Reg.MEM_SRAM_CORR_COUNT⟩,
   ⟨0xB0, 0, 1, .none, fun _ _ => Reg.MEM_SRAM_UNCORR_COUNT⟩,
   ⟨0xB4, 0, 1, .none, fun _ _ => Reg.MEM_RFM_COUNT⟩,
   ⟨0xB8, 0, 1, .none, fun _ _ => Reg.MEM_UNMAPPED_COUNT⟩,
   ⟨0xC0, 0, 1, .none, fun _ _ => Reg.MEM_POISON_LO_ADDR⟩,
   ⟨0xC4, 0, 1, .none, fun _ _ => Reg.MEM_POISON_HI_ADDR⟩,
   ⟨0xC8, 0, 1, .none, fun _ _ => Reg.MEM_REFRESH_MODE⟩,
   ⟨0xC8, 0, 1, .none, fun _ _ => Reg.MEM_REFRESH_DEVICE⟩,
   ⟨0xCC, 0, 1, .none, fun _ _ => Reg.MEM_EVENTS_UNCORR⟩,
   ⟨0xCC, 0, 1, .none, fun _ _ => Reg.MEM_EVENTS_POISON_CONSUMED⟩]

def regRowsMEM2 : List RegRow :=
  [⟨0xCC, 0, 1, .none, fun _ _ => Reg.MEM_EVENTS_SCRUB_PASS⟩,
   ⟨0xCC, 0, 1, .none, fun _ _ => Reg.MEM_EVENTS_TRAIN_FALLBACK⟩,
   ⟨0xCC, 0, 1, .none, fun _ _ => Reg.MEM_EVENTS_DEV_OUT⟩,
   ⟨0xCC, 0, 1, .none, fun _ _ => Reg.MEM_EVENTS_REFRESH_UP⟩,
   ⟨0xCC, 0, 1, .none, fun _ _ => Reg.MEM_EVENTS_FLUSH_DONE⟩,
   ⟨0xCC, 0, 1, .none, fun _ _ => Reg.MEM_EVENTS_UNIT_RECOVERED⟩,
   ⟨0xCC, 0, 1, .none, fun _ _ => Reg.MEM_EVENTS_KEY_MISSING⟩,
   ⟨0xFFFFFC, 0, 1, .none, fun _ _ => Reg.MEM_CS_UNMAPPED_COUNT⟩]

/-- The register table of the MEM_ window (memory, R294). -/
def regRowsMEM : List RegRow :=
  regRowsMEM0 ++ regRowsMEM1 ++ regRowsMEM2

def regRowsDLY0 : List RegRow :=
  [⟨0x0, 0, 1, .none, fun _ _ => Reg.DLY_PF_CTRL_EN⟩,
   ⟨0x0, 0, 1, .none, fun _ _ => Reg.DLY_PF_CTRL_SEQ_ASSUME⟩,
   ⟨0x0, 0, 1, .none, fun _ _ => Reg.DLY_PF_CTRL_DEPTH⟩,
   ⟨0x0, 0, 1, .none, fun _ _ => Reg.DLY_PF_CTRL_MAX_DEPTH⟩,
   ⟨0x4, 0, 1, .none, fun _ _ => Reg.DLY_PF_THROTTLE_QUEUE_LIMIT⟩,
   ⟨0x8, 0, 1, .none, fun _ _ => Reg.DLY_EVENTS_PF_DROPPED⟩,
   ⟨0x8, 0, 1, .none, fun _ _ => Reg.DLY_EVENTS_ENGINES_FULL⟩,
   ⟨0x8, 0, 1, .none, fun _ _ => Reg.DLY_EVENTS_TRACKER_STOLEN⟩,
   ⟨0x100, 64, 4, .none, fun _ n => Reg.DLY_TRK_ACTIVE n⟩,
   ⟨0x100, 64, 4, .none, fun _ n => Reg.DLY_TRK_CONFIRMED n⟩,
   ⟨0x100, 64, 4, .none, fun _ n => Reg.DLY_TRK_ENGINES_BUSY n⟩,
   ⟨0x104, 64, 4, .none, fun _ n => Reg.DLY_PF_ISSUED_COUNT n⟩,
   ⟨0x108, 64, 4, .none, fun _ n => Reg.DLY_PF_USEFUL_COUNT n⟩,
   ⟨0x10C, 64, 4, .none, fun _ n => Reg.DLY_PF_UNUSED_COUNT n⟩,
   ⟨0x110, 64, 4, .none, fun _ n => Reg.DLY_PF_DROPPED_COUNT n⟩,
   ⟨0x114, 64, 4, .none, fun _ n => Reg.DLY_PF_LATE_COUNT n⟩,
   ⟨0x118, 64, 4, .none, fun _ n => Reg.DLY_DMA_MOVES_COUNT n⟩,
   ⟨0xFFFFFC, 0, 1, .none, fun _ _ => Reg.DLY_CS_UNMAPPED_COUNT⟩]

/-- The register table of the DLY_ window (dolly, R295). -/
def regRowsDLY : List RegRow :=
  regRowsDLY0

def regRowsFAB0 : List RegRow :=
  [⟨0x0, 0, 1, .none, fun _ _ => Reg.FAB_ID_PHYS⟩,
   ⟨0x0, 0, 1, .none, fun _ _ => Reg.FAB_ID_VALID⟩,
   ⟨0x0, 0, 1, .none, fun _ _ => Reg.FAB_ID_DOMAIN⟩,
   ⟨0x4, 0, 1, .none, fun _ _ => Reg.FAB_SLICE_SLICE⟩,
   ⟨0x8, 0, 1, .none, fun _ _ => Reg.FAB_STATUS_PORTS_UP⟩,
   ⟨0x8, 0, 1, .none, fun _ _ => Reg.FAB_STATUS_RT_HASH_VALID⟩,
   ⟨0x8, 0, 1, .none, fun _ _ => Reg.FAB_STATUS_FDIES⟩,
   ⟨0xC, 0, 1, .none, fun _ _ => Reg.FAB_CTRL_SPRAY_ADAPT⟩,
   ⟨0xC, 0, 1, .none, fun _ _ => Reg.FAB_CTRL_CC_EN⟩,
   ⟨0x10, 0, 1, .none, fun _ _ => Reg.FAB_TC_WEIGHT_COLL⟩,
   ⟨0x10, 0, 1, .none, fun _ _ => Reg.FAB_TC_WEIGHT_BULK⟩,
   ⟨0x10, 0, 1, .none, fun _ _ => Reg.FAB_TC_WEIGHT_CTRL_SHARE⟩,
   ⟨0x14, 0, 1, .none, fun _ _ => Reg.FAB_CC_MD_EIGHTHS⟩,
   ⟨0x14, 0, 1, .none, fun _ _ => Reg.FAB_CC_AI_GBPS⟩,
   ⟨0x14, 0, 1, .none, fun _ _ => Reg.FAB_CC_PERIOD_US⟩,
   ⟨0x18, 0, 1, .none, fun _ _ => Reg.FAB_REORDER_GAP_US⟩,
   ⟨0x18, 0, 1, .none, fun _ _ => Reg.FAB_REORDER_RETRY_LIMIT⟩,
   ⟨0x1C, 0, 1, .none, fun _ _ => Reg.FAB_EGRESS_THRESH_KIB⟩,
   ⟨0x20, 0, 1, .none, fun _ _ => Reg.FAB_RT_SEL_LOGICAL⟩,
   ⟨0x24, 0, 1, .route, fun _ n => Reg.FAB_RT_ENTRY_PHYS n⟩,
   ⟨0x24, 0, 1, .route, fun _ n => Reg.FAB_RT_ENTRY_VALID n⟩,
   ⟨0x24, 0, 1, .route, fun _ n => Reg.FAB_RT_ENTRY_FENCED n⟩,
   ⟨0x28, 0, 1, .none, fun _ _ => Reg.FAB_RT_CMD_STATUS_REFUSED⟩,
   ⟨0x30, 4, 8, .none, fun _ n => Reg.FAB_RT_HASH_HASH n⟩,
   ⟨0x4000, 4, 128, .none, fun _ n => Reg.FAB_ALLOW_ALLOW n⟩]

def regRowsFAB1 : List RegRow :=
  [⟨0x50, 0, 1, .none, fun _ _ => Reg.FAB_DROP_SLICE_COUNT⟩,
   ⟨0x54, 0, 1, .none, fun _ _ => Reg.FAB_DROP_FENCED_COUNT⟩,
   ⟨0x58, 0, 1, .none, fun _ _ => Reg.FAB_DROP_GEN_COUNT⟩,
   ⟨0x5C, 0, 1, .none, fun _ _ => Reg.FAB_DROP_CRC_COUNT⟩,
   ⟨0x60, 0, 1, .none, fun _ _ => Reg.FAB_DROP_WINDOW_COUNT⟩,
   ⟨0x64, 0, 1, .none, fun _ _ => Reg.FAB_DUP_COUNT⟩,
   ⟨0x68, 0, 1, .none, fun _ _ => Reg.FAB_RETX_COUNT⟩,
   ⟨0x6C, 0, 1, .none, fun _ _ => Reg.FAB_UNREACH_COUNT⟩,
   ⟨0x70, 0, 1, .none, fun _ _ => Reg.FAB_EVENTS_PORT_DOWN⟩,
   ⟨0x70, 0, 1, .none, fun _ _ => Reg.FAB_EVENTS_DOMAIN_MISMATCH⟩,
   ⟨0x70, 0, 1, .none, fun _ _ => Reg.FAB_EVENTS_UNREACHABLE⟩,
   ⟨0x70, 0, 1, .none, fun _ _ => Reg.FAB_EVENTS_DEPARTED⟩,
   ⟨0x70, 0, 1, .none, fun _ _ => Reg.FAB_EVENTS_REFUSED⟩,
   ⟨0x70, 0, 1, .none, fun _ _ => Reg.FAB_EVENTS_FDIE_OUT⟩,
   ⟨0x80, 4, 6, .none, fun _ n => Reg.FAB_REORDER_USE_KIB n⟩,
   ⟨0x80, 4, 6, .none, fun _ n => Reg.FAB_REORDER_USE_CONTEXTS n⟩,
   ⟨0x1000, 64, 18, .none, fun _ n => Reg.FAB_PORT_STATE_STATE n⟩,
   ⟨0x1000, 64, 18, .none, fun _ n => Reg.FAB_PORT_STATE_DOMAIN_MISMATCH n⟩,
   ⟨0x1000, 64, 18, .none, fun _ n => Reg.FAB_PORT_STATE_PARTNER_DOMAIN n⟩,
   ⟨0x1000, 64, 18, .none, fun _ n => Reg.FAB_PORT_STATE_RETRIES n⟩,
   ⟨0x1000, 64, 18, .none, fun _ n => Reg.FAB_PORT_STATE_TRAIN_MS n⟩,
   ⟨0x1004, 64, 18, .none, fun _ n => Reg.FAB_PORT_CTRL_ENABLE n⟩,
   ⟨0x1008, 64, 18, .none, fun _ n => Reg.FAB_PORT_FEC_CORR_COUNT n⟩,
   ⟨0x100C, 64, 18, .none, fun _ n => Reg.FAB_PORT_FEC_UNCORR_COUNT n⟩,
   ⟨0x1010, 64, 18, .none, fun _ n => Reg.FAB_PORT_TX_PKTS_COUNT n⟩]

def regRowsFAB2 : List RegRow :=
  [⟨0x1014, 64, 18, .none, fun _ n => Reg.FAB_PORT_RX_PKTS_COUNT n⟩,
   ⟨0x1018, 64, 18, .none, fun _ n => Reg.FAB_PORT_QDEPTH_CUR n⟩,
   ⟨0x1018, 64, 18, .none, fun _ n => Reg.FAB_PORT_QDEPTH_PEAK n⟩,
   ⟨0x101C, 64, 18, .none, fun _ n => Reg.FAB_PORT_STALL_CYCLES n⟩,
   ⟨0x1020, 64, 18, .none, fun _ n => Reg.FAB_PORT_WEIGHT_WEIGHT n⟩,
   ⟨0x1024, 64, 18, .none, fun _ n => Reg.FAB_PORT_ECN_RX_COUNT n⟩,
   ⟨0xFFFFFC, 0, 1, .none, fun _ _ => Reg.FAB_CS_UNMAPPED_COUNT⟩]

/-- The register table of the FAB_ window (fabric, R332). -/
def regRowsFAB : List RegRow :=
  regRowsFAB0 ++ regRowsFAB1 ++ regRowsFAB2

def regRowsCOL0 : List RegRow :=
  [⟨0x0, 0, 1, .none, fun _ _ => Reg.COL_STATUS_OPEN⟩,
   ⟨0x0, 0, 1, .none, fun _ _ => Reg.COL_STATUS_ENGINES⟩,
   ⟨0x4, 0, 1, .none, fun _ _ => Reg.COL_POOL_BASE_MIB⟩,
   ⟨0x8, 0, 1, .none, fun _ _ => Reg.COL_POOL_SIZE_MIB⟩,
   ⟨0xC, 0, 1, .none, fun _ _ => Reg.COL_POOL_FREE_KIB⟩,
   ⟨0x10, 0, 1, .none, fun _ _ => Reg.COL_CLAP_LEAD_TU⟩,
   ⟨0x14, 0, 1, .none, fun _ _ => Reg.COL_CREATE_TIMEOUT_FRAMES⟩,
   ⟨0x18, 0, 1, .none, fun _ _ => Reg.COL_SIG_MISMATCH_COUNT⟩,
   ⟨0x1C, 0, 1, .none, fun _ _ => Reg.COL_DROPS_COUNT⟩,
   ⟨0x20, 0, 1, .none, fun _ _ => Reg.COL_CLAP_LATE_COUNT⟩,
   ⟨0x24, 0, 1, .none, fun _ _ => Reg.COL_EVENTS_GROUP_BROKEN⟩,
   ⟨0x24, 0, 1, .none, fun _ _ => Reg.COL_EVENTS_CREATE_FAILED⟩,
   ⟨0x24, 0, 1, .none, fun _ _ => Reg.COL_EVENTS_POOL_REFUSED⟩,
   ⟨0x24, 0, 1, .none, fun _ _ => Reg.COL_EVENTS_JOIN_FULL⟩,
   ⟨0x100, 0, 1, .none, fun _ _ => Reg.COL_GROUP_SEL_SLOT⟩,
   ⟨0x104, 0, 1, .group, fun _ n => Reg.COL_GROUP_CMD_DESTROY n⟩,
   ⟨0x108, 0, 1, .group, fun _ n => Reg.COL_GROUP_STATE_STATE n⟩,
   ⟨0x108, 0, 1, .group, fun _ n => Reg.COL_GROUP_STATE_WEIGHT n⟩,
   ⟨0x108, 0, 1, .group, fun _ n => Reg.COL_GROUP_STATE_INDEX n⟩,
   ⟨0x108, 0, 1, .group, fun _ n => Reg.COL_GROUP_STATE_PENDING n⟩,
   ⟨0x10C, 0, 1, .group, fun _ n => Reg.COL_GROUP_ID_ID n⟩,
   ⟨0x110, 0, 1, .group, fun _ n => Reg.COL_GROUP_MEMBERS_N n⟩,
   ⟨0x114, 0, 1, .group, fun _ n => Reg.COL_GROUP_STEP_STEP n⟩,
   ⟨0x118, 0, 1, .group, fun _ n => Reg.COL_GROUP_SLICE_SLICE n⟩,
   ⟨0x11C, 0, 1, .group, fun _ n => Reg.COL_GROUP_BUF_KIB n⟩]

def regRowsCOL1 : List RegRow :=
  [⟨0x120, 0, 1, .group, fun _ n => Reg.COL_GROUP_SEQ_LO_SEQ n⟩,
   ⟨0x124, 0, 1, .group, fun _ n => Reg.COL_GROUP_SEQ_HI_SEQ n⟩,
   ⟨0x128, 0, 1, .group, fun _ n => Reg.COL_GROUP_FAIL_CODE n⟩,
   ⟨0x128, 0, 1, .group, fun _ n => Reg.COL_GROUP_FAIL_MEMBER n⟩,
   ⟨0x12C, 0, 1, .group, fun _ n => Reg.COL_GROUP_OPS_COUNT n⟩,
   ⟨0x130, 0, 1, .group, fun _ n => Reg.COL_GROUP_SAT_COUNT n⟩,
   ⟨0x134, 0, 1, .group, fun _ n => Reg.COL_GROUP_FLUSH_COUNT n⟩,
   ⟨0x138, 0, 1, .group, fun _ n => Reg.COL_GROUP_CLAMP_COUNT n⟩,
   ⟨0xFFFFFC, 0, 1, .none, fun _ _ => Reg.COL_CS_UNMAPPED_COUNT⟩]

/-- The register table of the COL_ window (collectives, R367). -/
def regRowsCOL : List RegRow :=
  regRowsCOL0 ++ regRowsCOL1

def regRowsETH0 : List RegRow :=
  [⟨0x0, 0, 1, .none, fun _ _ => Reg.ETH_STATUS_LINK⟩,
   ⟨0x0, 0, 1, .none, fun _ _ => Reg.ETH_STATUS_MACSEC_ACTIVE⟩,
   ⟨0x0, 0, 1, .none, fun _ _ => Reg.ETH_STATUS_TRAIN_MS⟩,
   ⟨0x4, 0, 1, .none, fun _ _ => Reg.ETH_CTRL_ENABLE⟩,
   ⟨0x4, 0, 1, .none, fun _ _ => Reg.ETH_CTRL_ALLOW_1600⟩,
   ⟨0x4, 0, 1, .none, fun _ _ => Reg.ETH_CTRL_ALLOW_800⟩,
   ⟨0x4, 0, 1, .none, fun _ _ => Reg.ETH_CTRL_IPV4_EN⟩,
   ⟨0x4, 0, 1, .none, fun _ _ => Reg.ETH_CTRL_KR⟩,
   ⟨0x8, 0, 1, .none, fun _ _ => Reg.ETH_MAC_LO_MAC⟩,
   ⟨0xC, 0, 1, .none, fun _ _ => Reg.ETH_MAC_HI_MAC⟩,
   ⟨0x10, 0, 1, .none, fun _ _ => Reg.ETH_IPV4_ADDR⟩,
   ⟨0x14, 4, 4, .none, fun _ n => Reg.ETH_IPV6_ADDR n⟩,
   ⟨0x24, 0, 1, .none, fun _ _ => Reg.ETH_PRIO_ROCE_PRIO⟩,
   ⟨0x24, 0, 1, .none, fun _ _ => Reg.ETH_PRIO_REEL_PRIO⟩,
   ⟨0x24, 0, 1, .none, fun _ _ => Reg.ETH_PRIO_PTP_PRIO⟩,
   ⟨0x24, 0, 1, .none, fun _ _ => Reg.ETH_PRIO_VID⟩,
   ⟨0x28, 0, 1, .none, fun _ _ => Reg.ETH_PFC_WD_WATCHDOG_MS⟩,
   ⟨0x2C, 0, 1, .none, fun _ _ => Reg.ETH_MACSEC_CTRL_ENABLE⟩,
   ⟨0x2C, 0, 1, .none, fun _ _ => Reg.ETH_MACSEC_CTRL_PTP_CLEAR⟩,
   ⟨0x2C, 0, 1, .none, fun _ _ => Reg.ETH_MACSEC_CTRL_REKEY⟩,
   ⟨0x2C, 0, 1, .none, fun _ _ => Reg.ETH_MACSEC_CTRL_REKEY_S⟩,
   ⟨0x30, 0, 1, .none, fun _ _ => Reg.ETH_MACSEC_STATUS_AN⟩,
   ⟨0x30, 0, 1, .none, fun _ _ => Reg.ETH_MACSEC_STATUS_KEY_READY⟩,
   ⟨0x30, 0, 1, .none, fun _ _ => Reg.ETH_MACSEC_STATUS_STALLED⟩,
   ⟨0x34, 0, 1, .none, fun _ _ => Reg.ETH_CC_MD_EIGHTHS⟩]

def regRowsETH1 : List RegRow :=
  [⟨0x34, 0, 1, .none, fun _ _ => Reg.ETH_CC_AI_GBPS⟩,
   ⟨0x34, 0, 1, .none, fun _ _ => Reg.ETH_CC_PERIOD_US⟩,
   ⟨0x40, 4, 4, .none, fun _ n => Reg.ETH_DEPART_ADDR_ADDR n⟩,
   ⟨0x50, 0, 1, .none, fun _ _ => Reg.ETH_DEPART_PORT_PORT⟩,
   ⟨0x80, 0, 1, .none, fun _ _ => Reg.ETH_TX_FRAMES_COUNT⟩,
   ⟨0x84, 0, 1, .none, fun _ _ => Reg.ETH_RX_FRAMES_COUNT⟩,
   ⟨0x88, 0, 1, .none, fun _ _ => Reg.ETH_RX_DROP_SIZE_COUNT⟩,
   ⟨0x8C, 0, 1, .none, fun _ _ => Reg.ETH_RX_DROP_MACSEC_COUNT⟩,
   ⟨0x90, 0, 1, .none, fun _ _ => Reg.ETH_RX_DROP_ADDR_COUNT⟩,
   ⟨0x94, 0, 1, .none, fun _ _ => Reg.ETH_TX_DROP_PFC_COUNT⟩,
   ⟨0x98, 0, 1, .none, fun _ _ => Reg.ETH_PFC_RX_COUNT⟩,
   ⟨0x9C, 0, 1, .none, fun _ _ => Reg.ETH_PFC_TX_COUNT⟩,
   ⟨0xA0, 0, 1, .none, fun _ _ => Reg.ETH_ECN_CE_COUNT⟩,
   ⟨0xA4, 0, 1, .none, fun _ _ => Reg.ETH_CNP_TX_COUNT⟩,
   ⟨0xA8, 0, 1, .none, fun _ _ => Reg.ETH_CNP_RX_COUNT⟩,
   ⟨0xAC, 0, 1, .none, fun _ _ => Reg.ETH_RDMA_NAK_COUNT⟩,
   ⟨0xB0, 0, 1, .none, fun _ _ => Reg.ETH_RETX_COUNT⟩,
   ⟨0xB4, 0, 1, .none, fun _ _ => Reg.ETH_FEC_CORR_COUNT⟩,
   ⟨0xB8, 0, 1, .none, fun _ _ => Reg.ETH_FEC_UNCORR_COUNT⟩,
   ⟨0xC0, 0, 1, .none, fun _ _ => Reg.ETH_EVENTS_LINK_DOWN⟩,
   ⟨0xC0, 0, 1, .none, fun _ _ => Reg.ETH_EVENTS_FALLBACK⟩,
   ⟨0xC0, 0, 1, .none, fun _ _ => Reg.ETH_EVENTS_PFC_WATCHDOG⟩,
   ⟨0xC0, 0, 1, .none, fun _ _ => Reg.ETH_EVENTS_MACSEC_STALL⟩,
   ⟨0xC0, 0, 1, .none, fun _ _ => Reg.ETH_EVENTS_QP_ERROR⟩,
   ⟨0xC0, 0, 1, .none, fun _ _ => Reg.ETH_EVENTS_WINDOW_REFUSED⟩]

def regRowsETH2 : List RegRow :=
  [⟨0xC0, 0, 1, .none, fun _ _ => Reg.ETH_EVENTS_PRIO_REFUSED⟩,
   ⟨0x100, 0, 1, .none, fun _ _ => Reg.ETH_QP_SEL_QP⟩,
   ⟨0x104, 0, 1, .qp, fun _ n => Reg.ETH_QP_CMD_CMD n⟩,
   ⟨0x108, 0, 1, .qp, fun _ n => Reg.ETH_QP_STATE_STATE n⟩,
   ⟨0x10C, 0, 1, .qp, fun _ n => Reg.ETH_QP_CFG_REEL n⟩,
   ⟨0x10C, 0, 1, .qp, fun _ n => Reg.ETH_QP_CFG_REEL_EN n⟩,
   ⟨0x10C, 0, 1, .qp, fun _ n => Reg.ETH_QP_CFG_IPV4 n⟩,
   ⟨0x10C, 0, 1, .qp, fun _ n => Reg.ETH_QP_CFG_RING_L n⟩,
   ⟨0x110, 0, 1, .qp, fun _ n => Reg.ETH_QP_REMOTE_ADDR_0 n⟩,
   ⟨0x114, 0, 1, .qp, fun _ n => Reg.ETH_QP_REMOTE_ADDR_1 n⟩,
   ⟨0x118, 0, 1, .qp, fun _ n => Reg.ETH_QP_REMOTE_ADDR_2 n⟩,
   ⟨0x11C, 0, 1, .qp, fun _ n => Reg.ETH_QP_REMOTE_ADDR_3 n⟩,
   ⟨0x120, 0, 1, .qp, fun _ n => Reg.ETH_QP_REMOTE_QPN_QPN n⟩,
   ⟨0x124, 0, 1, .qp, fun _ n => Reg.ETH_QP_LOCAL_QPN_QPN n⟩,
   ⟨0x128, 0, 1, .qp, fun _ n => Reg.ETH_QP_RING_LO_ADDR n⟩,
   ⟨0x12C, 0, 1, .qp, fun _ n => Reg.ETH_QP_RING_HI_ADDR n⟩,
   ⟨0x130, 0, 1, .qp, fun _ n => Reg.ETH_QP_LAST_STATUS_STATUS n⟩,
   ⟨0x200, 0, 1, .none, fun _ _ => Reg.ETH_WIN_SEL_WIN⟩,
   ⟨0x204, 0, 1, .rwin, fun _ n => Reg.ETH_WIN_BASE_LO_ADDR n⟩,
   ⟨0x208, 0, 1, .rwin, fun _ n => Reg.ETH_WIN_BASE_HI_ADDR n⟩,
   ⟨0x20C, 0, 1, .rwin, fun _ n => Reg.ETH_WIN_LEN_KIB n⟩,
   ⟨0x210, 0, 1, .rwin, fun _ n => Reg.ETH_WIN_CTRL_VALID n⟩,
   ⟨0x210, 0, 1, .rwin, fun _ n => Reg.ETH_WIN_CTRL_REMOTE_READ n⟩,
   ⟨0x210, 0, 1, .rwin, fun _ n => Reg.ETH_WIN_CTRL_REMOTE_WRITE n⟩,
   ⟨0x210, 0, 1, .rwin, fun _ n => Reg.ETH_WIN_CTRL_REFUSED n⟩]

def regRowsETH3 : List RegRow :=
  [⟨0x214, 0, 1, .rwin, fun _ n => Reg.ETH_WIN_KEY_KEY n⟩,
   ⟨0xFFFFFC, 0, 1, .none, fun _ _ => Reg.ETH_CS_UNMAPPED_COUNT⟩]

/-- The register table of the ETH_ window (Ethernet, R392). -/
def regRowsETH : List RegRow :=
  regRowsETH0 ++ regRowsETH1 ++ regRowsETH2 ++ regRowsETH3

def regRowsSEC0 : List RegRow :=
  [⟨0x0, 0, 1, .none, fun _ _ => Reg.SEC_STATUS_ID_OK⟩,
   ⟨0x0, 0, 1, .none, fun _ _ => Reg.SEC_STATUS_CFG_OK⟩,
   ⟨0x0, 0, 1, .none, fun _ _ => Reg.SEC_STATUS_REPAIR_OK⟩,
   ⟨0x0, 0, 1, .none, fun _ _ => Reg.SEC_STATUS_REPAIR_SELF⟩,
   ⟨0x0, 0, 1, .none, fun _ _ => Reg.SEC_STATUS_DEBUG_ACTIVE⟩,
   ⟨0x0, 0, 1, .none, fun _ _ => Reg.SEC_STATUS_IMPORT_OPEN⟩,
   ⟨0x0, 0, 1, .none, fun _ _ => Reg.SEC_STATUS_RECOVERY⟩,
   ⟨0x0, 0, 1, .none, fun _ _ => Reg.SEC_STATUS_REVOKED⟩,
   ⟨0x4, 0, 1, .none, fun _ _ => Reg.SEC_SERIAL_LO_SERIAL⟩,
   ⟨0x8, 0, 1, .none, fun _ _ => Reg.SEC_SERIAL_HI_SERIAL⟩,
   ⟨0xC, 0, 1, .none, fun _ _ => Reg.SEC_RECORD_SEQ_CFG_SEQ⟩,
   ⟨0xC, 0, 1, .none, fun _ _ => Reg.SEC_RECORD_SEQ_REPAIR_SEQ⟩,
   ⟨0x10, 4, 3, .none, fun _ n => Reg.SEC_ARC_VALUE n⟩,
   ⟨0x10, 4, 3, .none, fun _ n => Reg.SEC_ARC_EXHAUSTED n⟩,
   ⟨0x20, 0, 1, .none, fun _ _ => Reg.SEC_DEBUG_PERMS⟩,
   ⟨0x20, 0, 1, .none, fun _ _ => Reg.SEC_DEBUG_EPOCH⟩,
   ⟨0x24, 0, 1, .none, fun _ _ => Reg.SEC_DEBUG_END_LO_TIME⟩,
   ⟨0x28, 0, 1, .none, fun _ _ => Reg.SEC_DEBUG_END_HI_TIME⟩,
   ⟨0x2C, 0, 1, .none, fun _ _ => Reg.SEC_REFUSAL_CODE⟩,
   ⟨0x30, 0, 1, .none, fun _ _ => Reg.SEC_QUOTES_COUNT⟩,
   ⟨0x34, 0, 1, .none, fun _ _ => Reg.SEC_TRNG_HEALTHY⟩,
   ⟨0x38, 0, 1, .none, fun _ _ => Reg.SEC_JTAG_ID_IDCODE⟩,
   ⟨0x40, 0, 1, .none, fun _ _ => Reg.SEC_EVENTS_RECORD_LOADED⟩,
   ⟨0x40, 0, 1, .none, fun _ _ => Reg.SEC_EVENTS_RECORD_REFUSED⟩,
   ⟨0x40, 0, 1, .none, fun _ _ => Reg.SEC_EVENTS_SLOT_FALLBACK⟩]

def regRowsSEC1 : List RegRow :=
  [⟨0x40, 0, 1, .none, fun _ _ => Reg.SEC_EVENTS_DEBUG_ON⟩,
   ⟨0x40, 0, 1, .none, fun _ _ => Reg.SEC_EVENTS_DEBUG_REFUSED⟩,
   ⟨0x40, 0, 1, .none, fun _ _ => Reg.SEC_EVENTS_KEY_LOADED⟩,
   ⟨0x40, 0, 1, .none, fun _ _ => Reg.SEC_EVENTS_KEY_DESTROYED⟩,
   ⟨0x40, 0, 1, .none, fun _ _ => Reg.SEC_EVENTS_ARC_ADVANCED⟩,
   ⟨0x40, 0, 1, .none, fun _ _ => Reg.SEC_EVENTS_TRNG_FAIL⟩,
   ⟨0x100, 4, 64, .none, fun _ n => Reg.SEC_MEAS_WORD n⟩,
   ⟨0xFFFFFC, 0, 1, .none, fun _ _ => Reg.SEC_CS_UNMAPPED_COUNT⟩]

/-- The register table of the SEC_ window (security, R557). -/
def regRowsSEC : List RegRow :=
  regRowsSEC0 ++ regRowsSEC1

def regRowsUPD0 : List RegRow :=
  [⟨0x0, 0, 1, .none, fun _ _ => Reg.UPD_STATUS_SLOT⟩,
   ⟨0x0, 0, 1, .none, fun _ _ => Reg.UPD_STATUS_TRIAL⟩,
   ⟨0x0, 0, 1, .none, fun _ _ => Reg.UPD_STATUS_STATE_A⟩,
   ⟨0x0, 0, 1, .none, fun _ _ => Reg.UPD_STATUS_STATE_B⟩,
   ⟨0x0, 0, 1, .none, fun _ _ => Reg.UPD_STATUS_PHASE⟩,
   ⟨0x4, 0, 1, .none, fun _ _ => Reg.UPD_ACTIVE_VER_LO_VERSION⟩,
   ⟨0x8, 0, 1, .none, fun _ _ => Reg.UPD_ACTIVE_VER_HI_VERSION⟩,
   ⟨0xC, 0, 1, .none, fun _ _ => Reg.UPD_TARGET_VER_LO_VERSION⟩,
   ⟨0x10, 0, 1, .none, fun _ _ => Reg.UPD_TARGET_VER_HI_VERSION⟩,
   ⟨0x14, 0, 1, .none, fun _ _ => Reg.UPD_SVN_ACTIVE⟩,
   ⟨0x14, 0, 1, .none, fun _ _ => Reg.UPD_SVN_TARGET⟩,
   ⟨0x18, 0, 1, .none, fun _ _ => Reg.UPD_CHUNKS_TOTAL⟩,
   ⟨0x18, 0, 1, .none, fun _ _ => Reg.UPD_CHUNKS_DONE⟩,
   ⟨0x1C, 0, 1, .none, fun _ _ => Reg.UPD_RATE_KBPS⟩,
   ⟨0x20, 0, 1, .none, fun _ _ => Reg.UPD_ETH_PORT⟩,
   ⟨0x20, 0, 1, .none, fun _ _ => Reg.UPD_ETH_EN⟩,
   ⟨0x24, 0, 1, .none, fun _ _ => Reg.UPD_CUE_LO_TIME⟩,
   ⟨0x28, 0, 1, .none, fun _ _ => Reg.UPD_CUE_HI_TIME⟩,
   ⟨0x2C, 0, 1, .none, fun _ _ => Reg.UPD_HEALTH_SECONDS⟩,
   ⟨0x2C, 0, 1, .none, fun _ _ => Reg.UPD_HEALTH_BOOTED⟩,
   ⟨0x2C, 0, 1, .none, fun _ _ => Reg.UPD_HEALTH_SELFTEST⟩,
   ⟨0x2C, 0, 1, .none, fun _ _ => Reg.UPD_HEALTH_TAKE_WRAPPED⟩,
   ⟨0x2C, 0, 1, .none, fun _ _ => Reg.UPD_HEALTH_ACCEPTANCE_RUN⟩,
   ⟨0x2C, 0, 1, .none, fun _ _ => Reg.UPD_HEALTH_PASSED⟩,
   ⟨0x30, 0, 1, .none, fun _ _ => Reg.UPD_CMD_CMD⟩]

def regRowsUPD1 : List RegRow :=
  [⟨0x34, 0, 1, .none, fun _ _ => Reg.UPD_REFUSAL_CODE⟩,
   ⟨0x38, 0, 1, .none, fun _ _ => Reg.UPD_CHUNKS_BAD_COUNT⟩,
   ⟨0x3C, 0, 1, .none, fun _ _ => Reg.UPD_REVERTS_COUNT⟩,
   ⟨0x40, 0, 1, .none, fun _ _ => Reg.UPD_EVENTS_MANIFEST_ACCEPTED⟩,
   ⟨0x40, 0, 1, .none, fun _ _ => Reg.UPD_EVENTS_SLOT_READY⟩,
   ⟨0x40, 0, 1, .none, fun _ _ => Reg.UPD_EVENTS_SLOT_FAILED⟩,
   ⟨0x40, 0, 1, .none, fun _ _ => Reg.UPD_EVENTS_ARMED⟩,
   ⟨0x40, 0, 1, .none, fun _ _ => Reg.UPD_EVENTS_ACTIVATED⟩,
   ⟨0x40, 0, 1, .none, fun _ _ => Reg.UPD_EVENTS_COMMITTED⟩,
   ⟨0x40, 0, 1, .none, fun _ _ => Reg.UPD_EVENTS_REVERTED⟩,
   ⟨0x40, 0, 1, .none, fun _ _ => Reg.UPD_EVENTS_RESUMED⟩,
   ⟨0x40, 0, 1, .none, fun _ _ => Reg.UPD_EVENTS_RECOVERY⟩,
   ⟨0x1000, 4, 960, .none, fun _ n => Reg.UPD_BITMAP_BITS n⟩,
   ⟨0xFFFFFC, 0, 1, .none, fun _ _ => Reg.UPD_CS_UNMAPPED_COUNT⟩]

/-- The register table of the UPD_ window (update, R558). -/
def regRowsUPD : List RegRow :=
  regRowsUPD0 ++ regRowsUPD1

def regRowsMGT0 : List RegRow :=
  [⟨0x0, 0, 1, .none, fun _ _ => Reg.MGT_STATUS_HOLDER⟩,
   ⟨0x0, 0, 1, .none, fun _ _ => Reg.MGT_STATUS_UNHELD⟩,
   ⟨0x0, 0, 1, .none, fun _ _ => Reg.MGT_STATUS_FIRST_OK⟩,
   ⟨0x0, 0, 1, .none, fun _ _ => Reg.MGT_STATUS_SECOND_OK⟩,
   ⟨0x0, 0, 1, .none, fun _ _ => Reg.MGT_STATUS_SESSIONS⟩,
   ⟨0x0, 0, 1, .none, fun _ _ => Reg.MGT_STATUS_LINK_UP⟩,
   ⟨0x0, 0, 1, .none, fun _ _ => Reg.MGT_STATUS_EPOCH⟩,
   ⟨0x4, 0, 1, .none, fun _ _ => Reg.MGT_LEASE_REMAIN_US⟩,
   ⟨0x8, 0, 1, .none, fun _ _ => Reg.MGT_CAP_LEASE_REMAIN_MS⟩,
   ⟨0x8, 0, 1, .none, fun _ _ => Reg.MGT_CAP_LEASE_LAPSED⟩,
   ⟨0xC, 0, 1, .none, fun _ _ => Reg.MGT_STRAPS_SLOT_ID⟩,
   ⟨0xC, 0, 1, .none, fun _ _ => Reg.MGT_STRAPS_XO_JUDGE⟩,
   ⟨0xC, 0, 1, .none, fun _ _ => Reg.MGT_STRAPS_BOOT_HOLD⟩,
   ⟨0x10, 0, 1, .none, fun _ _ => Reg.MGT_LINES_START_OK⟩,
   ⟨0x10, 0, 1, .none, fun _ _ => Reg.MGT_LINES_RESET_N⟩,
   ⟨0x10, 0, 1, .none, fun _ _ => Reg.MGT_LINES_CAPSTEP_N⟩,
   ⟨0x10, 0, 1, .none, fun _ _ => Reg.MGT_LINES_FAULT_DRIVEN⟩,
   ⟨0x10, 0, 1, .none, fun _ _ => Reg.MGT_LINES_ALERT_DRIVEN⟩,
   ⟨0x18, 0, 1, .none, fun _ _ => Reg.MGT_HOURS_TENTHS⟩,
   ⟨0x1C, 0, 1, .none, fun _ _ => Reg.MGT_POWER_CYCLES_COUNT⟩,
   ⟨0x14, 0, 1, .none, fun _ _ => Reg.MGT_ALERT_CAUSE_SENSOR_FAULT⟩,
   ⟨0x14, 0, 1, .none, fun _ _ => Reg.MGT_ALERT_CAUSE_REFCLK_LOST⟩,
   ⟨0x14, 0, 1, .none, fun _ _ => Reg.MGT_ALERT_CAUSE_XO_LOST⟩,
   ⟨0x14, 0, 1, .none, fun _ _ => Reg.MGT_ALERT_CAUSE_DIE_PINNED⟩,
   ⟨0x14, 0, 1, .none, fun _ _ => Reg.MGT_ALERT_CAUSE_OTHER_HOT⟩]

def regRowsMGT1 : List RegRow :=
  [⟨0x14, 0, 1, .none, fun _ _ => Reg.MGT_ALERT_CAUSE_COOL_FAULT⟩,
   ⟨0x14, 0, 1, .none, fun _ _ => Reg.MGT_ALERT_CAUSE_COOL_HIGH⟩,
   ⟨0x14, 0, 1, .none, fun _ _ => Reg.MGT_ALERT_CAUSE_LEAK_MARGINAL⟩,
   ⟨0x14, 0, 1, .none, fun _ _ => Reg.MGT_ALERT_CAUSE_LEAK_OPEN⟩,
   ⟨0x14, 0, 1, .none, fun _ _ => Reg.MGT_ALERT_CAUSE_TRNG_FAIL⟩,
   ⟨0x14, 0, 1, .none, fun _ _ => Reg.MGT_ALERT_CAUSE_UNIT_OUT⟩,
   ⟨0x14, 0, 1, .none, fun _ _ => Reg.MGT_ALERT_CAUSE_NO_UNIT⟩,
   ⟨0x14, 0, 1, .none, fun _ _ => Reg.MGT_ALERT_CAUSE_CAP_LEASE_LAPSED⟩,
   ⟨0x20, 0, 1, .none, fun _ _ => Reg.MGT_TAKEOVERS_COUNT⟩,
   ⟨0x24, 0, 1, .none, fun _ _ => Reg.MGT_TAKEBACKS_COUNT⟩,
   ⟨0x28, 0, 1, .none, fun _ _ => Reg.MGT_STALE_WRITES_COUNT⟩,
   ⟨0x2C, 0, 1, .none, fun _ _ => Reg.MGT_RX_DROP_AUTH_COUNT⟩,
   ⟨0x30, 0, 1, .none, fun _ _ => Reg.MGT_RX_DROP_REPLAY_COUNT⟩,
   ⟨0x34, 0, 1, .none, fun _ _ => Reg.MGT_INTERRUPTED_COUNT⟩,
   ⟨0x38, 0, 1, .none, fun _ _ => Reg.MGT_CAP_LAPSES_COUNT⟩,
   ⟨0x3C, 0, 1, .none, fun _ _ => Reg.MGT_REQUESTS_COUNT⟩,
   ⟨0x40, 0, 1, .none, fun _ _ => Reg.MGT_EVENTS_TAKEOVER⟩,
   ⟨0x40, 0, 1, .none, fun _ _ => Reg.MGT_EVENTS_TAKEBACK⟩,
   ⟨0x40, 0, 1, .none, fun _ _ => Reg.MGT_EVENTS_UNIT_OUT⟩,
   ⟨0x40, 0, 1, .none, fun _ _ => Reg.MGT_EVENTS_NO_UNIT⟩,
   ⟨0x40, 0, 1, .none, fun _ _ => Reg.MGT_EVENTS_CAP_LEASE_LAPSED⟩,
   ⟨0x40, 0, 1, .none, fun _ _ => Reg.MGT_EVENTS_CAP_LEASE_RESTORED⟩,
   ⟨0x40, 0, 1, .none, fun _ _ => Reg.MGT_EVENTS_SESSION_OPENED⟩,
   ⟨0x40, 0, 1, .none, fun _ _ => Reg.MGT_EVENTS_AUTH_FAIL⟩,
   ⟨0x40, 0, 1, .none, fun _ _ => Reg.MGT_EVENTS_SECRET_CHANGED⟩]

def regRowsMGT2 : List RegRow :=
  [⟨0xFFFFFC, 0, 1, .none, fun _ _ => Reg.MGT_CS_UNMAPPED_COUNT⟩]

/-- The register table of the MGT_ window (management, R585). -/
def regRowsMGT : List RegRow :=
  regRowsMGT0 ++ regRowsMGT1 ++ regRowsMGT2

def regRowsPWR0 : List RegRow :=
  [⟨0x0, 0, 1, .none, fun _ _ => Reg.PWR_STATUS_STAGE⟩,
   ⟨0x0, 0, 1, .none, fun _ _ => Reg.PWR_STATUS_MODE⟩,
   ⟨0x0, 0, 1, .none, fun _ _ => Reg.PWR_STATUS_PATH⟩,
   ⟨0x0, 0, 1, .none, fun _ _ => Reg.PWR_STATUS_DRAINING⟩,
   ⟨0x0, 0, 1, .none, fun _ _ => Reg.PWR_STATUS_WAIT_START_OK⟩,
   ⟨0x0, 0, 1, .none, fun _ _ => Reg.PWR_STATUS_WAIT_REFCLK⟩,
   ⟨0x0, 0, 1, .none, fun _ _ => Reg.PWR_STATUS_WAIT_TB_REF⟩,
   ⟨0x0, 0, 1, .none, fun _ _ => Reg.PWR_STATUS_WAIT_PULSE⟩,
   ⟨0x0, 0, 1, .none, fun _ _ => Reg.PWR_STATUS_WAIT_PTP⟩,
   ⟨0x0, 0, 1, .none, fun _ _ => Reg.PWR_STATUS_WAIT_ETH⟩,
   ⟨0x0, 0, 1, .none, fun _ _ => Reg.PWR_STATUS_WAIT_WILEF⟩,
   ⟨0x4, 0, 1, .none, fun _ _ => Reg.PWR_CMD_CMD⟩,
   ⟨0x8, 0, 1, .none, fun _ _ => Reg.PWR_CTRL_LOCK_WAIT⟩,
   ⟨0x8, 0, 1, .none, fun _ _ => Reg.PWR_CTRL_DRAIN_S⟩,
   ⟨0xC, 0, 1, .none, fun _ _ => Reg.PWR_REFUSAL_CODE⟩,
   ⟨0x10, 0, 1, .none, fun _ _ => Reg.PWR_LAST_READY_MS⟩,
   ⟨0x10, 0, 1, .none, fun _ _ => Reg.PWR_LAST_PATH⟩,
   ⟨0x14, 0, 1, .none, fun _ _ => Reg.PWR_FULL_TEST_TENTHS⟩,
   ⟨0x40, 0, 1, .none, fun _ _ => Reg.PWR_EVENTS_READY⟩,
   ⟨0x40, 0, 1, .none, fun _ _ => Reg.PWR_EVENTS_COLD_PATH⟩,
   ⟨0x40, 0, 1, .none, fun _ _ => Reg.PWR_EVENTS_MODE_CHANGED⟩,
   ⟨0x40, 0, 1, .none, fun _ _ => Reg.PWR_EVENTS_DRAIN_NG⟩,
   ⟨0x40, 0, 1, .none, fun _ _ => Reg.PWR_EVENTS_REFUSED⟩,
   ⟨0x40, 0, 1, .none, fun _ _ => Reg.PWR_EVENTS_ORDERLY_OFF⟩,
   ⟨0x100, 4, 11, .none, fun _ n => Reg.PWR_STAGE_END_MS n⟩]

def regRowsPWR1 : List RegRow :=
  [⟨0xFFFFFC, 0, 1, .none, fun _ _ => Reg.PWR_CS_UNMAPPED_COUNT⟩]

/-- The register table of the PWR_ window (power, R601). -/
def regRowsPWR : List RegRow :=
  regRowsPWR0 ++ regRowsPWR1

def regRowsTL0 : List RegRow :=
  [⟨0x0, 0, 1, .none, fun i _ => Reg.TL_ID_LEVELS i⟩,
   ⟨0x0, 0, 1, .none, fun i _ => Reg.TL_ID_TILE i⟩,
   ⟨0x0, 0, 1, .none, fun i _ => Reg.TL_ID_DIE i⟩,
   ⟨0x4, 0, 1, .none, fun i _ => Reg.TL_STATE_RUN i⟩,
   ⟨0x4, 0, 1, .none, fun i _ => Reg.TL_STATE_GANG i⟩,
   ⟨0x4, 0, 1, .none, fun i _ => Reg.TL_STATE_LEADER i⟩,
   ⟨0x8, 0, 1, .none, fun i _ => Reg.TL_FEATURES_LO_FEATURES i⟩,
   ⟨0xC, 0, 1, .none, fun i _ => Reg.TL_FEATURES_HI_FEATURES i⟩,
   ⟨0x10, 0, 1, .none, fun i _ => Reg.TL_TAKE_REEL_REEL i⟩,
   ⟨0x14, 0, 1, .none, fun i _ => Reg.TL_TAKE_NUM_LO_NUM i⟩,
   ⟨0x18, 0, 1, .none, fun i _ => Reg.TL_TAKE_NUM_HI_NUM i⟩,
   ⟨0x1C, 0, 1, .none, fun i _ => Reg.TL_GANG_LEADER i⟩,
   ⟨0x1C, 0, 1, .none, fun i _ => Reg.TL_GANG_WIDTH i⟩,
   ⟨0x20, 0, 1, .none, fun i _ => Reg.TL_QDEPTH_A_LOADS i⟩,
   ⟨0x20, 0, 1, .none, fun i _ => Reg.TL_QDEPTH_A_VECTOR i⟩,
   ⟨0x20, 0, 1, .none, fun i _ => Reg.TL_QDEPTH_A_MATRIX i⟩,
   ⟨0x20, 0, 1, .none, fun i _ => Reg.TL_QDEPTH_A_DOLLY i⟩,
   ⟨0x24, 0, 1, .none, fun i _ => Reg.TL_QDEPTH_B_SYNC i⟩,
   ⟨0x24, 0, 1, .none, fun i _ => Reg.TL_QDEPTH_B_MESSAGE i⟩,
   ⟨0x24, 0, 1, .none, fun i _ => Reg.TL_QDEPTH_B_CUE_WAITS i⟩,
   ⟨0x24, 0, 1, .none, fun i _ => Reg.TL_QDEPTH_B_MSGS i⟩,
   ⟨0x28, 0, 1, .none, fun i _ => Reg.TL_PC_PC i⟩,
   ⟨0x2C, 0, 1, .none, fun i _ => Reg.TL_FAULT_CODE i⟩,
   ⟨0x2C, 0, 1, .none, fun i _ => Reg.TL_FAULT_VALID i⟩,
   ⟨0x30, 0, 1, .none, fun i _ => Reg.TL_FAULT_ADDR_ADDR i⟩]

def regRowsTL1 : List RegRow :=
  [⟨0x34, 0, 1, .none, fun i _ => Reg.TL_SEM_SEL_SEM i⟩,
   ⟨0x38, 0, 1, .none, fun i _ => Reg.TL_SEM_VAL_COUNT i⟩,
   ⟨0x3C, 0, 1, .none, fun i _ => Reg.TL_EVENTS_FAULT i⟩,
   ⟨0x3C, 0, 1, .none, fun i _ => Reg.TL_EVENTS_LATE_WAIT i⟩,
   ⟨0x3C, 0, 1, .none, fun i _ => Reg.TL_EVENTS_ENCODING i⟩,
   ⟨0x3C, 0, 1, .none, fun i _ => Reg.TL_EVENTS_PRIVILEGE i⟩,
   ⟨0x3C, 0, 1, .none, fun i _ => Reg.TL_EVENTS_CREW_REFUSED i⟩,
   ⟨0x40, 0, 1, .none, fun i _ => Reg.TL_CTRL_IC_INVALIDATE i⟩,
   ⟨0x44, 0, 1, .none, fun i _ => Reg.TL_NOTIFY_DROPS_COUNT i⟩,
   ⟨0x1000, 0, 1, .none, fun i _ => Reg.TL_MX_STATE_ACTIVE_FMT i⟩,
   ⟨0x1000, 0, 1, .none, fun i _ => Reg.TL_MX_STATE_ACTIVE_VALID i⟩,
   ⟨0x1000, 0, 1, .none, fun i _ => Reg.TL_MX_STATE_SHADOW_FMT i⟩,
   ⟨0x1000, 0, 1, .none, fun i _ => Reg.TL_MX_STATE_SHADOW_VALID i⟩,
   ⟨0x1000, 0, 1, .none, fun i _ => Reg.TL_MX_STATE_LOADER_BUSY i⟩,
   ⟨0x1000, 0, 1, .none, fun i _ => Reg.TL_MX_STATE_ARRAY_BUSY i⟩,
   ⟨0x1000, 0, 1, .none, fun i _ => Reg.TL_MX_STATE_DRAIN_BUSY i⟩,
   ⟨0x1000, 0, 1, .none, fun i _ => Reg.TL_MX_STATE_ACC_WRITTEN i⟩,
   ⟨0x1004, 0, 1, .none, fun i _ => Reg.TL_MX_ROWBUF_LEVEL i⟩,
   ⟨0x1008, 0, 1, .none, fun i _ => Reg.TL_DSC_SEL_DSC i⟩,
   ⟨0x100C, 0, 1, .none, fun i _ => Reg.TL_DLY_STATE_INFLIGHT i⟩,
   ⟨0x1010, 0, 1, .none, fun i _ => Reg.TL_TENSOR_EVENTS_WRITE_SUPPRESSED i⟩,
   ⟨0x1010, 0, 1, .none, fun i _ => Reg.TL_TENSOR_EVENTS_SHADOW_REPLACED i⟩,
   ⟨0x1010, 0, 1, .none, fun i _ => Reg.TL_TENSOR_EVENTS_DESCRIPTOR_FAULT i⟩,
   ⟨0x1010, 0, 1, .none, fun i _ => Reg.TL_TENSOR_EVENTS_FORMAT_PAIR i⟩,
   ⟨0x1010, 0, 1, .none, fun i _ => Reg.TL_TENSOR_EVENTS_INDEX_FAULT i⟩]

def regRowsTL2 : List RegRow :=
  [⟨0x1010, 0, 1, .none, fun i _ => Reg.TL_TENSOR_EVENTS_RELAY_NO_OP i⟩,
   ⟨0x1010, 0, 1, .none, fun i _ => Reg.TL_TENSOR_EVENTS_STARVE i⟩,
   ⟨0x1014, 0, 1, .none, fun i _ => Reg.TL_SPAD_CLEAR_CLEAR i⟩,
   ⟨0x1014, 0, 1, .none, fun i _ => Reg.TL_SPAD_CLEAR_DONE i⟩,
   ⟨0x1100, 4, 16, .none, fun i n => Reg.TL_DSC_WORD_WORD i n⟩,
   ⟨0x8000, 4, 96, .none, fun i n => Reg.TL_CNT_COUNT i n⟩,
   ⟨0x8200, 4, 96, .none, fun i n => Reg.TL_CNT_CFG_CHAIN i n⟩,
   ⟨0x8200, 4, 96, .none, fun i n => Reg.TL_CNT_CFG_MODE i n⟩,
   ⟨0x8200, 4, 96, .none, fun i n => Reg.TL_CNT_CFG_OVF i n⟩,
   ⟨0x8400, 4, 96, .none, fun i n => Reg.TL_CNT_SAMPLE_VALUE i n⟩,
   ⟨0x8580, 0, 1, .none, fun i _ => Reg.TL_CNT_SAMPLE_TIME_LO_TIME i⟩,
   ⟨0x8584, 0, 1, .none, fun i _ => Reg.TL_CNT_SAMPLE_TIME_HI_TIME i⟩,
   ⟨0x8588, 0, 1, .none, fun i _ => Reg.TL_CNT_SAMPLE_SEQ_SEQ i⟩,
   ⟨0x8588, 0, 1, .none, fun i _ => Reg.TL_CNT_SAMPLE_SEQ_STALE i⟩,
   ⟨0x8600, 0, 1, .none, fun i _ => Reg.TL_CENSUS_CLEAR_ENTRY i⟩,
   ⟨0x8600, 0, 1, .none, fun i _ => Reg.TL_CENSUS_CLEAR_GO i⟩,
   ⟨0x8600, 0, 1, .none, fun i _ => Reg.TL_CENSUS_CLEAR_ALL i⟩,
   ⟨0x8800, 4, 512, .none, fun i n => Reg.TL_CENSUS_WORD i n⟩,
   ⟨0xFFFFC, 0, 1, .none, fun i _ => Reg.TL_CS_UNMAPPED_COUNT i⟩]

/-- The register table of the TL_ window (tiles, R175, R210, R513). -/
def regRowsTL : List RegRow :=
  regRowsTL0 ++ regRowsTL1 ++ regRowsTL2

/-- The register tables of the sixteen 16 MiB block windows, in address order (R14 and the window rules). -/
def blockRows (b : Nat) : List RegRow :=
  match b with
  | 0 => regRowsTC
  | 1 => regRowsAD
  | 2 => regRowsCJ
  | 3 => regRowsGAF
  | 4 => regRowsCLK
  | 5 => regRowsFLT
  | 6 => regRowsCNT
  | 7 => regRowsMEM
  | 8 => regRowsDLY
  | 9 => regRowsFAB
  | 10 => regRowsCOL
  | 11 => regRowsETH
  | 12 => regRowsSEC
  | 13 => regRowsUPD
  | 14 => regRowsMGT
  | 15 => regRowsPWR
  | _ => []

end Sys2Proof.Machine
end

