-- ==== Sys2Proof/Machine/RegCore.lean ====
section
/-! DEFINITION. Reading and writing control space (R10 to R14, R52, R505): which fields stand at an address, what a read
returns and what a write stores. What a register shows of a larger structure is a view. Writes that do more than store
are handed on by their owner. -/

namespace Sys2Proof.Machine

/-! ### Where an address lies (R13, R174) -/

inductive Loc where
  | block (b off : Nat)
  | tile (i off : Nat)
  | nowhere
  deriving DecidableEq, Repr

def locate (a : Nat) : Loc :=
  if a < controlBase then .nowhere
  else
    let o := a - controlBase
    if o < 0x10000000 then .block (o / 2 ^ 24) (o % 2 ^ 24)
    else if o < 0x10000000 + 192 * 0x100000 then .tile ((o - 0x10000000) / 0x100000) (o % 0x100000)
    else .nowhere

/-- The instance a select window shows. -/
def selected (c : Ctl) (w : Window) : Nat :=
  match w with
  | .none => 0
  | .reel => rd c Reg.AD_REEL_SEL_REEL
  | .group => rd c Reg.COL_GROUP_SEL_SLOT
  | .qp => rd c Reg.ETH_QP_SEL_QP
  | .rwin => rd c Reg.ETH_WIN_SEL_WIN
  | .route => rd c Reg.FAB_RT_SEL_LOGICAL
  | .energyReel => rd c Reg.GAF_E_REEL_SEL_REEL
  | .domain => rd c Reg.CLK_DOM_SEL_DOM
  | .sensor => 32 * rd c Reg.CLK_TH_SENSOR_SEL_DIE + rd c Reg.CLK_TH_SENSOR_SEL_SENSOR
  | .dailies => 16 * rd c Reg.FLT_DLY_SEL_DIE + rd c Reg.FLT_DLY_SEL_SLOT

/-- The repeat of a row that an offset falls on. -/
def rowHit (r : RegRow) (off : Nat) : Option Nat :=
  if r.count ≤ 1 then (if off = r.off then some 0 else none)
  else if r.off ≤ off ∧ (off - r.off) % Nat.max 1 r.stride = 0 ∧ (off - r.off) / Nat.max 1 r.stride < r.count
  then some ((off - r.off) / Nat.max 1 r.stride) else none

def rowFields (c : Ctl) (rows : List RegRow) (i off : Nat) : List Fld :=
  rows.filterMap (fun r => (rowHit r off).map (fun n => r.fld i (if r.win = .none then n else selected c r.win)))

/-- The fields at an address; one that is no multiple of 4 names no register (DESIGN CHOICE, log entry 54). -/
def fieldsAt (c : Ctl) (a : Nat) : List Fld :=
  if a % 4 ≠ 0 then []
  else match locate a with
    | .block b off => rowFields c (blockRows b) 0 off
    | .tile i off => rowFields c regRowsTL i off
    | .nowhere => []

/-- The unmapped-access counter of an address's window (R13). -/
def unmappedFld (a : Nat) : Fld :=
  match locate a with
  | .tile i _ => Reg.TL_CS_UNMAPPED_COUNT i
  | .nowhere => Reg.CNT_UNMAPPED_COUNT
  | .block b _ =>
    match b with
    | 0 => Reg.TC_CS_UNMAPPED_COUNT
    | 1 => Reg.AD_CS_UNMAPPED_COUNT
    | 2 => Reg.CJ_CS_UNMAPPED_COUNT
    | 3 => Reg.GAF_CS_UNMAPPED_COUNT
    | 4 => Reg.CLK_CS_UNMAPPED_COUNT
    | 5 => Reg.FLT_CS_UNMAPPED_COUNT
    | 6 => Reg.CNT_CS_UNMAPPED_COUNT
    | 7 => Reg.MEM_CS_UNMAPPED_COUNT
    | 8 => Reg.DLY_CS_UNMAPPED_COUNT
    | 9 => Reg.FAB_CS_UNMAPPED_COUNT
    | 10 => Reg.COL_CS_UNMAPPED_COUNT
    | 11 => Reg.ETH_CS_UNMAPPED_COUNT
    | 12 => Reg.SEC_CS_UNMAPPED_COUNT
    | 13 => Reg.UPD_CS_UNMAPPED_COUNT
    | 14 => Reg.MGT_CS_UNMAPPED_COUNT
    | _ => Reg.PWR_CS_UNMAPPED_COUNT

/-- An access that names no register (R13). -/
def unmapped (a : Nat) (c : Ctl) : Ctl := bump (unmappedFld a) 1 c

/-! ### Views: registers that show what other structures hold -/

/-- A view: the key of a field and its value. -/
abbrev Views := List (Nat × Nat)

/-- The words of a census entry (R239). -/
def censusBytes (h : HistEntry) : List Byte :=
  leBytes 2 h.tid ++ leBytes 1 h.kind ++ leBytes 1 h.vals.length ++ leBytes 4 h.sat ++ leBytes 4 h.flush ++ leBytes 4 h.clamp
    ++ leBytes 4 h.nan ++ leBytes 4 h.cold ++ leBytes 4 (sat32 (h.elements / 1024)) ++ leBytes 4 h.last.toNat

/-- The registers of a tile that show its state (R175, R210, R239). -/
def viewTL (c : Ctl) (i : Nat) : Views :=
  let t := tileAt c i
  let q := fun u => (queueOf t u).length
  let k := takeOn c i
  let reel := (k.map (fun x => x.2.reel)).getD 0
  let num := (k.map (fun x => x.2.num)).getD 0
  let dsc := (dReg t (rd c (Reg.TL_DSC_SEL_DSC i))).raw.toNat
  [((Reg.TL_STATE_RUN i).key, if t.inReset then 3 else if t.take.isSome then 1 else if t.crew && !t.ended then 2 else 0),
   ((Reg.TL_STATE_GANG i).key, b2n (t.width != 0)), ((Reg.TL_STATE_LEADER i).key, b2n (t.width != 0 && t.leader == i)),
   ((Reg.TL_TAKE_REEL_REEL i).key, reel), ((Reg.TL_TAKE_NUM_LO_NUM i).key, num % 2 ^ 32), ((Reg.TL_TAKE_NUM_HI_NUM i).key, num / 2 ^ 32),
   ((Reg.TL_GANG_LEADER i).key, t.leader), ((Reg.TL_GANG_WIDTH i).key, t.width),
   ((Reg.TL_QDEPTH_A_VECTOR i).key, q 1), ((Reg.TL_QDEPTH_A_MATRIX i).key, q 2), ((Reg.TL_QDEPTH_A_DOLLY i).key, q 3),
   ((Reg.TL_QDEPTH_B_SYNC i).key, q 4 + b2n t.clap.isSome), ((Reg.TL_QDEPTH_B_MESSAGE i).key, q 5),
   ((Reg.TL_QDEPTH_B_CUE_WAITS i).key, sumNat (t.queues.map (fun x => (x.2.filter (fun y => opOf y == 0x2A)).length))),
   ((Reg.TL_QDEPTH_B_MSGS i).key, t.msgs.length), ((Reg.TL_PC_PC i).key, t.lastPc),
   ((Reg.TL_SEM_VAL_COUNT i).key, semCount c i (rd c (Reg.TL_SEM_SEL_SEM i))),
   ((Reg.TL_MX_STATE_ACTIVE_FMT i).key, t.active.fmt), ((Reg.TL_MX_STATE_ACTIVE_VALID i).key, b2n t.active.valid),
   ((Reg.TL_MX_STATE_SHADOW_FMT i).key, t.shadow.fmt), ((Reg.TL_MX_STATE_SHADOW_VALID i).key, b2n t.shadow.valid),
   ((Reg.TL_MX_STATE_ACC_WRITTEN i).key, t.accWritten)] ++
  (List.range 16).map (fun n => ((Reg.TL_DSC_WORD_WORD i n).key, dsc / 2 ^ (32 * n) % 2 ^ 32)) ++
  t.hist.flatMap (fun h => let b := censusBytes h.2
    (List.range 8).map (fun w => ((Reg.TL_CENSUS_WORD i (8 * h.1 + w)).key, leAt b (4 * w) 4)))

/-! ### Reading (R11, R12, R52, R505) -/

/-- A field's value: its view, or what is stored. A write-only field reads zero. -/
def fieldVal (vs : Views) (c : Ctl) (f : Fld) : Nat :=
  if f.acc = .wo then 0
  else match vs.find? (fun v => v.1 == f.key) with
    | some v => v.2 % 2 ^ f.len
    | none => rd c f

/-- The word the fields spell. -/
def wordOf (vs : Views) (c : Ctl) (fs : List Fld) : Nat :=
  sumNat (fs.map (fun f => fieldVal vs c f * 2 ^ (f.key % 32)))

/-- Block and offset of the registers whose LO latches its HI, with the distance to HI (R52). -/
def latchPairs : List (Nat × Nat) :=
  [(0, 0x0), (0, 0x34), (1, 0x128), (1, 0x130), (2, 0xC), (3, 0x80), (3, 0x88), (3, 0x90), (3, 0x98), (3, 0xA4), (3, 0x128),
   (6, 0x3000), (7, 0xC0), (10, 0x120), (12, 0x4), (12, 0x24), (13, 0x4), (13, 0x24)]

/-- The address of the high word a read at an address latches. -/
def latchOf (c : Ctl) (a : Nat) : Option Nat :=
  match locate a with
  | .block 6 off => if off < 4092 ∧ rdb c (Reg.CNT_CFG_CHAIN (off / 4)) then some (a + 4) else if latchPairs.contains (6, off) then some (a + 4) else none
  | .block b off => if latchPairs.contains (b, off) then some (a + 4) else none
  | .tile i off =>
    if off = 0x14 ∨ off = 0x8580 then some (a + 4)
    else if 0x8000 ≤ off ∧ off < 0x8000 + 4 * 95 ∧ rdb c (Reg.TL_CNT_CFG_CHAIN i ((off - 0x8000) / 4)) then some (a + 4) else none
  | .nowhere => none

/-- Read a word: a latched high word returns what was latched; fields that clear on read clear; a LO latches its HI. The latch
serves one read of HI: a second one, with no new read of LO, returns the live word (DESIGN CHOICE, log entry 54). -/
def readAt (views : Ctl → Nat → Views) (a : Nat) (c : Ctl) : Nat × Ctl :=
  match fieldsAt c a with
  | [] => (0, unmapped a c)
  | fs =>
    match Map.get? c.latched a with
    | some v => (v, { c with latched := Map.del c.latched a })
    | none =>
      let v := wordOf (views c a) c fs
      let c1 := forEach (fs.filter (fun f => f.acc == .rc)) (wr · 0) c
      match latchOf c a with
      | none => (v, c1)
      | some h => (v, { c1 with latched := Map.put c1.latched h (wordOf (views c h) c (fieldsAt c h)) })

/-! ### Writing (R11, R14) -/

/-- The value a range holds a written value at. -/
def clampVal (cl : Clamp) (v : Nat) : Nat :=
  match cl with
  | .free => v
  | .range lo hi => clampNat lo hi v
  | .zeroOr lo hi => if v = 0 then 0 else clampNat lo hi v
  | .slew => if 1 ≤ v ∧ v ≤ 100 then v else 100

/-- Write one field as its access code says. -/
def writeField (f : Fld) (v : Nat) (c : Ctl) : Ctl :=
  let x := bits v (f.key % 32) f.len
  match f.acc with
  | .rw => wr f (clampVal f.clamp x) c
  | .w1c => if x ≠ 0 then wr f 0 c else c
  | _ => c

/-- Write the fields at an address; one that names no register is counted. -/
def writePlain (a v : Nat) (c : Ctl) : Ctl :=
  match fieldsAt c a with
  | [] => unmapped a c
  | fs => forEach fs (fun f c => writeField f v c) { c with latched := Map.del c.latched a }

/-! ### The registers of a tile (R175, R210, R211) -/

/-- A take runs on the tile. -/
def tileRuns (c : Ctl) (i : Nat) : Bool := (tileAt c i).take.isSome

/-- TL_CTRL.IC_INVALIDATE. -/
def invalidateIC (i : Nat) (c : Ctl) : Ctl := if tileRuns c i then c else setTile i { tileAt c i with icache := none } c

/-- TL_SPAD_CLEAR: scratchpad, accumulators and descriptors zeroed, both weight buffers invalid; ignored while a take
runs. -/
def clearSpad (i : Nat) (s : State) : State :=
  if tileRuns s.c i then s
  else
    let s := setMem (zeroRange (i * 0x200000) 0x200000) s
    onTile i (fun t => { t with acc := [], accWritten := 0, d := [], active := Weights.empty, shadow := Weights.empty }) s

/-- Zero the counts of a census entry, its identity, history and LAST kept (R514). -/
def clearCensus (e : Nat) (t : Tile) : Tile :=
  { t with hist := Map.modify t.hist e (fun h => { h with sat := 0, flush := 0, clamp := 0, nan := 0, cold := 0, elements := 0 }) }

/-- A write to a register of a tile's window. -/
def writeTL (i off v : Nat) (s : State) : State :=
  let a := controlBase + 0x10000000 + i * 0x100000 + off
  if off = 0x40 then onCtl (when (bit v 0) (invalidateIC i)) s
  else if off = 0x1014 then (if bit v 0 then clearSpad i s else s)
  else if off = 0x8600 then
    onTile i (fun t =>
      let t := if bit v 6 then clearCensus (v % 64) t else t
      if bit v 7 then (List.range 64).foldl (fun t e => clearCensus e t) t else t) s
  else onCtl (writePlain a v) s

def viewsTL (c : Ctl) (a : Nat) : Views :=
  match locate a with
  | .tile i _ => viewTL c i
  | _ => []

/-! ### cs.rd and cs.wr (R163, R137) -/

def formCs (w : BitVec 64) : OpForm := { rsvOk := fz w 32 6, crewOnly := true, srcs := [aSA w] }

/-- The address of a crew access, and whether crew tile code may reach it: the first 32 KiB of the TL_ windows of its
own C-die. -/
def csAddr (s : State) (i : Nat) (w : BitVec 64) : Nat := (BitVec.ofNat 64 controlBase + sVal s i (aSA w) + iIMM w).toNat

def crewReaches (i a : Nat) : Bool :=
  match locate a with
  | .tile j off => decide (dieOf j = dieOf i) && decide (off < 0x8000)
  | _ => false

def runCsRd (i : Nat) (w : BitVec 64) (s : State) : State :=
  let a := csAddr s i w
  if crewReaches i a then
    let (v, c) := readAt viewsTL a s.c
    onTile i (setS (aSD w) (BitVec.ofNat 64 v)) { s with c := c }
  else onTile i (setS (aSD w) 0) (onCtl (raise (Reg.TL_EVENTS_CREW_REFUSED i)) s)

def runCsWr (i : Nat) (w : BitVec 64) (s : State) : State :=
  let a := csAddr s i w
  let v := (sVal s i (aSD w)).toNat % 2 ^ 32
  if crewReaches i a then
    match locate a with
    | .tile j off => if off % 4 = 0 then writeTL j off v s else onCtl (unmapped a) s
    | _ => s
  else onCtl (raise (Reg.TL_EVENTS_CREW_REFUSED i)) s

end Sys2Proof.Machine
end

