-- ==== Sys2Proof/Machine/Profile.lean ====
section
/-! DEFINITION. The degraded profile and the minimum serviceable set (R494 to R496). -/

namespace Sys2Proof.Machine

/-- A number with the listed bits set. -/
def bitsOf (n : Nat) (p : Nat → Bool) : Nat := ofBits p n

/-- A group is in service: its die is, it exists, and a tile of it is. -/
def groupServes (c : Ctl) (g : Nat) : Bool :=
  !c.flt.outC.contains (g / 6) && groupExists c (g / 6) (g % 6) && !((List.range 4).all (fun k => c.ad.outTiles.contains (4 * g + k)))

def linkRate (c : Ctl) : Nat := rd c Reg.ETH_STATUS_LINK

/-- The parts compute needs (R494), and the records it needs (R530). -/
def computeSet (c : Ctl) : Bool :=
  rdb c Reg.SEC_STATUS_CFG_OK && rdb c Reg.SEC_STATUS_REPAIR_OK &&
  (!c.flt.outN || rd c Reg.FAB_STATUS_FDIES != 0) && decide (c.flt.outM.length < 4) && rd c Reg.MEM_STATUS_DEV_IN_SERVICE != 0 &&
  (List.range 48).any (groupServes c) && decide (c.flt.outV.length < 4)

/-- Anything is out of service. -/
def anyOut (c : Ctl) : Bool :=
  !((List.range 48).all (groupServes c)) || rd c Reg.FAB_STATUS_FDIES != 0x3F || !c.flt.outM.isEmpty || !c.flt.outS.isEmpty || !c.flt.outV.isEmpty ||
  c.flt.outN || !c.flt.outUnits.isEmpty || !c.flt.outLinks.isEmpty || rd c Reg.MEM_STATUS_DEV_IN_SERVICE != 0xFFF || decide (c.flt.ports10.length < 18) ||
  (List.range 8).any (fun k => rdb c (Reg.CLK_TH_STATE_PINNED k) && rd c (Reg.CLK_TH_STATE_VALID k) == 0)

def profileLevel (c : Ctl) : Nat :=
  if rdb c Reg.FLT_STATUS_FATAL then 3 else if !computeSet c then 2 else if anyOut c then 1 else 0

/-- S-die units out of service: those of S-dies out. -/
def unitsOut (c : Ctl) : Nat := bitsOf 256 (fun u => c.flt.outS.contains (u / 16))

/-- Bytes 2 to 63 of the profile (R495). -/
def profileBody (c : Ctl) : List Byte :=
  [BitVec.ofNat 8 (profileLevel c), 0]
  ++ leBytes 6 (bitsOf 48 (groupServes c))
  ++ leBytes 1 (bitsOf 8 (fun k => !c.share.spareTaken.contains k && !c.flt.outC.contains k))
  ++ leBytes 1 (bitsOf 8 (fun k => !c.flt.outC.contains k)) ++ leBytes 1 (rd c Reg.FAB_STATUS_FDIES)
  ++ leBytes 1 (bitsOf 4 (fun j => !c.flt.outM.contains j)) ++ leBytes 2 (rd c Reg.MEM_STATUS_DEV_IN_SERVICE)
  ++ leBytes 3 (bitsOf 18 (fun q => c.flt.ports10.contains q))
  ++ leBytes 1 ((if linkRate c = 3 then 2 else if linkRate c = 2 then 1 else 0) + 128 * b2n (!c.flt.outN))
  ++ leBytes 1 c.flt.outLinks.length ++ leBytes 1 (bitsOf 8 (fun k => rdb c (Reg.CLK_TH_STATE_PINNED k)))
  ++ leBytes 2 (rd c Reg.MEM_SIZE_GIB) ++ leBytes 32 (unitsOut c) ++ leBytes 1 (bitsOf 4 (fun j => !c.flt.outV.contains j))
  ++ leBytes 1 (bitsOf 2 (fun u => !c.flt.outUnits.contains u)) ++ List.replicate 6 0

/-- The 64 bytes of the profile. -/
def profileBytes (c : Ctl) : List Byte := leBytes 2 c.flt.profileSeq ++ (if c.flt.profile.isEmpty then profileBody c else c.flt.profile)

/-- A change of the profile raises its sequence by one (R495, R496). -/
def noteProfile (c : Ctl) : Ctl :=
  let b := profileBody c
  if b = c.flt.profile then c
  else
    let c := { c with flt := { c.flt with profile := b, profileSeq := (c.flt.profileSeq + 1) % 2 ^ 16 } }
    raise Reg.FLT_EVENTS_PROFILE_CHANGED (wr Reg.FLT_STATUS_LEVEL (profileLevel c) c)

end Sys2Proof.Machine
end

