-- ==== Sys2Proof/Machine/Time.lean ====
section
/-! DEFINITION. Time (R49 to R67): the reference inputs, the lock states and their holdover, Wilef time transfer, PTP,
the grid. -/

namespace Sys2Proof.Machine

/-! ### Lock states (R61 to R66) -/

def lockOf (c : Ctl) : Nat := rd c Reg.TC_STATE_LOCK

def onTime (f : TimeSt → TimeSt) (c : Ctl) : Ctl := { c with time := f c.time }

/-- Whether a lock state requires an input (R61). -/
def requires (lock : Nat) : TimeInput → Bool
  | .ref => decide (1 ≤ lock)
  | .pulse => decide (2 ≤ lock)
  | .ptp => decide (3 ≤ lock)
  | .links => decide (4 ≤ lock)

/-- Show whether any required input is held; entry and exit of holdover raise their event (R66). -/
def showHoldover (c : Ctl) : Ctl :=
  let h := !c.time.lost.isEmpty
  if h = rdb c Reg.TC_STATE_HOLDOVER then c
  else when h (modCount 449 1) (raise Reg.TC_EVENTS_HOLDOVER_EV (wrb Reg.TC_STATE_HOLDOVER h c))

/-- A step that the first entry into facility-locked called for is dropped once the entry is no longer in hand. -/
def dropEntryStep (n : Nat) (c : Ctl) : Ctl :=
  onTime (fun t => { t with step := if n < 2 ∧ t.step = some false then none else t.step }) c

/-- Take up a lock state: a fall raises its event; inputs it does not require are no longer held. -/
def setLock (n : Nat) (c : Ctl) : Ctl :=
  let fell := decide (n < lockOf c)
  let c := dropEntryStep n c
  let c := when fell (fun c => modCount 448 1 (raise Reg.TC_EVENTS_STATE_DROP c)) (wr Reg.TC_STATE_LOCK n c)
  let c := when (n == 0) (onTime (fun t => { t with pllLocked := false })) c
  showHoldover (onTime (fun t => { t with lost := t.lost.filter (requires n) }) c)

def inputCode : TimeInput → Nat
  | .ref => 0 | .pulse => 1 | .ptp => 2 | .links => 3

/-- An input is lost: the state is kept while it requires it (R65). -/
def loseInput (x : TimeInput) (c : Ctl) : Ctl :=
  let c := onTime (fun t => { t with lostAt := Map.put t.lostAt (inputCode x) t.mono }) c
  if requires (lockOf c) x && !c.time.lost.contains x then showHoldover (onTime (fun t => { t with lost := x :: t.lost }) c) else c

/-- An input is back. -/
def regainInput (x : TimeInput) (c : Ctl) : Ctl :=
  showHoldover (onTime (fun t => { t with lost := t.lost.filter (fun y => y != x) }) c)

/-- The highest state left when the hold of an input has run out (R65); none where its loss does not lower the state. -/
def fallTo (c : Ctl) : TimeInput → Option Nat
  | .ref => if rdb c Reg.TC_STATE_PULSE_OK then none else some 0
  | .pulse => if rdb c Reg.TC_STATE_REF_OK then some 1 else some 0
  | .ptp => some 2
  | .links => some 3

/-- The hold limit of a lost input, in tu (R65). -/
def holdLimit (c : Ctl) : TimeInput → Nat
  | .ref => rd c Reg.TC_HOLD_HOLD_S * 2 ^ 32
  | .pulse => rd c Reg.TC_HOLD_HOLD_S * 2 ^ 32
  | .ptp => rd c Reg.TC_HOLD_HOLD_PTP_S * 2 ^ 32
  | .links => 400 * 2 ^ 32 / 1000

/-- When the loss began from which the limit runs, on the free-running counter: TB_REF and TB_PULSE are held together from the later
loss; PTP from the last Sync (R65, R78). -/
def lossStart (c : Ctl) (x : TimeInput) : Nat :=
  let at_ := fun (y : TimeInput) => Map.getD 0 c.time.lostAt (inputCode y)
  match x with
  | .ref => Nat.max (at_ .ref) (at_ .pulse)
  | .pulse => if rdb c Reg.TC_STATE_REF_OK then at_ .pulse else Nat.max (at_ .ref) (at_ .pulse)
  | .ptp => c.time.syncAt
  | .links => at_ .links

/-- The timecode at which the hold limit of an input runs out, unless the timecode is stepped meanwhile. -/
def holdEnd (c : Ctl) (x : TimeInput) : Nat := now c + (lossStart c x + holdLimit c x - c.time.mono)

/-- An input is held, and its loss can lower the state. -/
def heldInput (c : Ctl) (x : TimeInput) : Bool := c.time.lost.contains x || (x == .ptp && rdb c Reg.TC_STATE_PTP_OK)

/-- The hold limit of a lost input expires. -/
def holdExpired (x : TimeInput) (c : Ctl) : Ctl :=
  if !heldInput c x then c
  else
    let c := when (x == .ptp) (fun c => onTime (fun t => { t with ptpOffsets := [] }) (wr Reg.TC_STATE_PTP_OK 0 c)) c
    match fallTo c x with
    | none => c
    | some n => if n < lockOf c then setLock n c else regainInput x c


/-! ### Offsets (R78) -/

/-- A signed offset as its register holds it, saturating at ±2^31 − 1. -/
def offsetReg (z : Int) : Nat :=
  let m : Int := 2147483647
  ofInt 32 (if z > m then m else if z < -m then -m else z)

def signedOf (c : Ctl) (f : Fld) : Int := sext 32 (rd c f)

/-- The median of a list of integers; for an even count the lower of the two in the middle, as R58 says of offsets. For the delays of
links and the offsets of Syncs, of which the spec says no more than the median, it is the same (DESIGN CHOICE, log entry 56). -/
def medianInt (l : List Int) : Int := ((sortInt l)[(l.length - 1) / 2]?).getD 0

/-! ### TB_REF and TB_PULSE (R55, R56, R61) -/

def loseRef (c : Ctl) : Ctl :=
  if rdb c Reg.TC_STATE_REF_OK then loseInput .ref (raise Reg.TC_EVENTS_REF_RANGE (wr Reg.TC_STATE_REF_OK 0 c)) else c

/-- The measurement over 1 ms ends: the frequency read, in Hz, within ±20 ppm of 10 MHz. -/
def execTbRefQualify (hz : BitVec 32) (s : State) : Host.Outcome State Fault Refusal :=
  .next (onCtl (fun c =>
    let good := decide (9999800 ≤ hz.toNat ∧ hz.toNat ≤ 10000200)
    if rdb c Reg.TC_CTRL_REF_EN && good then regainInput .ref (wr Reg.TC_STATE_REF_OK 1 c) else loseRef c) s)

def execTbRefLost (s : State) : Host.Outcome State Fault Refusal := .next (onCtl loseRef s)

/-- The timecode PLL locks to a qualified TB_REF. -/
def execTimecodePllLock (s : State) : Host.Outcome State Fault Refusal :=
  .next (onCtl (fun c =>
    if rdb c Reg.TC_STATE_REF_OK then
      let c := onTime (fun t => { t with pllLocked := true }) c
      if lockOf c = 0 then setLock 1 c else c
    else c) s)

/-- A step closes every port window in progress (R512): its counts, which the model does not hold, are free values (log
entry 1). -/
def closeWindows (c : Ctl) : Ctl :=
  forEach (List.range 179) (fun p c =>
    let (a, c) := fresh c
    let (b, c) := fresh c
    wr (Reg.CNT_PORT_LAST_OUT p) a.toNat (wr (Reg.CNT_PORT_LAST_IN p) b.toNat (wr (Reg.CNT_PORT_CTRL_STEPPED p) 1 c))) c

/-- The timecode is stepped: its event and count, and the port windows close. -/
def noteStep (c : Ctl) : Ctl := closeWindows (modCount 450 1 (raise Reg.TC_EVENTS_STEPPED c))

/-- A pulse that was qualified is lost (R56, R65). -/
def losePulse (c : Ctl) : Ctl :=
  if rdb c Reg.TC_STATE_PULSE_OK then loseInput .pulse (wr Reg.TC_STATE_PULSE_OK 0 c) else c

/-- The phase of an edge: the facility second minus the timecode, taken to the nearer second. -/
def pulsePhase (c : Ctl) : Int :=
  let f : Int := (now c % 2 ^ 32 : Nat)
  if f < 2147483648 then -f else 4294967296 - f

/-- The timecode is set to another value: stamps of the module's own that wait for an answer move with it (R54). -/
def stepTo (t : Nat) (c : Ctl) : Ctl :=
  let d : Int := (t : Int) - now c
  let move := fun (x : Nat) => ((x : Int) + d).toNat
  onTime (fun x => { x with syncT2 := if x.syncT2 = 0 then 0 else move x.syncT2, delayT3 := x.delayT3.map move, delayAt := x.delayAt.map move }) (setTc t c)

/-- An edge that may be used: it measures the phase, and completes the entry into pulse-aligned by zeroing the fraction
(R61, R67). -/
def usePulse (c : Ctl) : Ctl :=
  let c := wr Reg.TC_PULSE_OFFSET_OFFSET (offsetReg (pulsePhase c)) (regainInput .pulse (wr Reg.TC_STATE_PULSE_OK 1 c))
  if lockOf c = 1 ∧ c.time.pllLocked then
    let c := stepTo (now c / 2 ^ 32 * 2 ^ 32) c
    setLock 2 (noteStep (wr Reg.TC_PULSE_OFFSET_OFFSET 0 (onTime (fun t => { t with ptpOffsets := [] }) c)))
  else c

/-- A rising edge, with its spacing from the edge before in ns. The first edge has none before it. -/
def pulseEdge (spacing : Nat) (c : Ctl) : Ctl :=
  let c := modCount 453 1 c
  if !rdb c Reg.TC_CTRL_PULSE_EN then c
  else
    let good := decide (999999900 ≤ spacing ∧ spacing ≤ 1000000100)
    let run := c.time.pulseRun
    if !c.time.pulseSeen then onTime (fun t => { t with pulseRun := 1, pulseSeen := true }) c
    else if !good then losePulse (onTime (fun t => { t with pulseRun := 1 }) (raise Reg.TC_EVENTS_PULSE_SPACING c))
    else
      let c := onTime (fun t => { t with pulseRun := Nat.min (run + 1) 3 }) c
      if run + 1 ≥ 3 then usePulse c else c

/-- No edge within 1 s + 1 µs of the last. -/
def execTbPulseLost (s : State) : Host.Outcome State Fault Refusal :=
  .next (onCtl (fun c => losePulse (onTime (fun t => { t with pulseRun := 0 }) c)) s)

/-! ### PTP (R54, R61, R67, R377) -/

/-- The comparison of the best master clock algorithm: the smaller data set wins; then fewer steps, then the sender. -/
def announceKey (a : Announce) : List Nat :=
  [a.priority1, a.clockClass, a.accuracy, a.variance, a.priority2, a.identity, a.stepsRemoved, a.sender]

def lexLt : List Nat → List Nat → Bool
  | a :: l, b :: m => decide (a < b) || (decide (a = b) && lexLt l m)
  | _, _ => false

def bestMaster (l : List Announce) : Option Announce :=
  l.foldl (fun best a => match best with
    | none => some a
    | some b => if lexLt (announceKey a) (announceKey b) then some a else some b) none

/-- Choose the master anew: offsets of another master do not count on. -/
def chooseMaster (heard : List Announce) (c : Ctl) : Ctl :=
  let m := bestMaster heard
  let same := (m.map (fun a => a.sender)) == (c.time.master.map (fun a => a.sender))
  onTime (fun t => { t with heard := heard, master := m, ptpOffsets := if same then t.ptpOffsets else [] }) c

/-- The domain a PTP message must carry (R377): a value above 127 matches none. -/
def ptpDomainOk (c : Ctl) (d : Byte) : Bool :=
  rdb c Reg.TC_CTRL_PTP_EN && decide (d.toNat = rd c Reg.TC_CTRL_PTP_DOMAIN) && decide (d.toNat ≤ 127)

/-- Choose among the masters heard; with none left PTP is lost. -/
def rechoose (heard : List Announce) (c : Ctl) : Ctl :=
  let had := c.time.master.isSome
  let c := chooseMaster heard c
  if had && c.time.master.isNone then loseInput .ptp c else c

/-- An Announce. A sender whose timescale is ARB is not supported: it is no master, and no longer one (R54). -/
def execAnnounce (a : Announce) (s : State) : Host.Outcome State Fault Refusal :=
  .next (onFrames false .ptp 0 1 (onCtl (fun c =>
    if ptpDomainOk c a.domain then
      let others := c.time.heard.filter (fun x => x.sender != a.sender)
      rechoose (if a.ptpTimescale then a :: others else others) c
    else c)) s)

/-- Three announce intervals without an Announce from the master: another is chosen, or PTP is lost. -/
def execAnnounceTimeout (s : State) : Host.Outcome State Fault Refusal :=
  .next (onCtl (fun c =>
    match c.time.master with
    | none => c
    | some m => rechoose (c.time.heard.filter (fun x => x.sender != m.sender)) c) s)

/-- The median of 16 consecutive offsets lies within ±1 µs of the pulse phase (R61). -/
def ptpAgrees (c : Ctl) : Bool :=
  decide (c.time.ptpOffsets.length = 16) &&
    decide ((medianInt c.time.ptpOffsets - signedOf c Reg.TC_PULSE_OFFSET_OFFSET).natAbs ≤ 4295)

/-- A domain root is domain-locked once it is facility-locked with a link in service (R62); after a conflict, once that is over
(R63). -/
def rootLock (c : Ctl) : Ctl :=
  if lockOf c = 3 ∧ rdb c Reg.TC_CTRL_DOMAIN_ROOT ∧ rd c Reg.TC_STATE_LINKS ≠ 0 ∧ c.time.domConflict < 16 then setLock 4 c else c

def enterFacility (c : Ctl) : Ctl :=
  rootLock (setLock 3 (onTime (fun t => { t with facilitySeen := true, domStable := 0, domConflict := 0 }) c))

/-- Judge facility lock and the seconds label after a Sync (R61, R67). -/
def judgeFacility (c : Ctl) : Ctl :=
  if lockOf c ≥ 3 ∧ c.time.labelDelta ≠ 0 then setLock 2 (raise Reg.TC_EVENTS_LABEL_CONFLICT c)
  else if lockOf c = 2 ∧ ptpAgrees c then
    if c.time.labelDelta = 0 then enterFacility c
    else if c.time.facilitySeen then c
    else onTime (fun t => { t with step := match t.step with
      | some x => some x
      | none => some false }) c
  else c

/-- A two-step Sync with its Follow_Up: the master's departure time and the module's time of arrival, in tu. -/
def execPtpSync (domain : Byte) (sender : Nat) (t1 t2 : DWord) (s : State) : Host.Outcome State Fault Refusal :=
  .next (onFrames false .ptp 0 2 (onCtl (fun c =>
    if ptpDomainOk c domain && (c.time.master.map (fun a => a.sender)) == some sender then
      let off : Int := (t1.toNat : Int) + c.time.pathDelay - (t2.toNat : Int)
      let label := (off + 2147483648) / 4294967296
      let frac := off - label * 4294967296
      let c := modCount 362 1 (onTime (fun t =>
        { t with syncT1 := t1.toNat, syncT2 := t2.toNat, syncAt := t.mono, labelDelta := label, ptpFraction := frac,
                 ptpOffsets := (frac :: t.ptpOffsets).take 16 }) c)
      judgeFacility (regainInput .ptp (wr Reg.TC_PTP_OFFSET_OFFSET (offsetReg off) (wr Reg.TC_STATE_PTP_OK 1 c)))
    else c)) s)

/-- The module sends Delay_Req, never more than 16 in a second (R377). -/
def execDelayReq (s : State) : Host.Outcome State Fault Refusal :=
  .next (onCtl (fun c =>
    let soon := match c.time.delayAt with
      | some t => decide (now c < t + 2 ^ 28)
      | none => false
    match c.time.master with
    | none => c
    | some m =>
      if soon || !rdb c Reg.TC_CTRL_PTP_EN then c
      else
        let c := onTime (fun t => { t with delayT3 := some (now c), delayAt := some (now c) }) c
        modCount 363 1 (sendFrames (rd c Reg.ETH_PRIO_PTP_PRIO) 1 .ptp (.eth 1 m.sender 319 (leBytes 8 (now c))) c)) s)

/-- The answer to Delay_Req: the path delay is half the sum of the two ways. -/
def execDelayResponse (t4 : DWord) (s : State) : Host.Outcome State Fault Refusal :=
  .next (onFrames false .ptp 0 1 (onCtl (fun c =>
    match c.time.delayT3 with
    | none => c
    | some t3 =>
      if c.time.syncT1 = 0 ∧ c.time.syncT2 = 0 then c
      else
        let d := (((c.time.syncT2 : Int) - c.time.syncT1) + ((t4.toNat : Int) - t3)) / 2
        onTime (fun t => { t with pathDelay := d, delayT3 := none }) c)) s)

/-! ### Wilef time transfer (R57 to R59, R61 to R63) -/

/-- The links in service for time. -/
def timeLinks (c : Ctl) : List Nat := (List.range 18).filter (fun p => rdb c (Reg.TC_LINK_IN_SERVICE p))

/-- Count the links in service; with none left the input is lost (R65, R78). -/
def countLinks (c : Ctl) : Ctl :=
  let n := (timeLinks c).length
  let had := rd c Reg.TC_STATE_LINKS != 0
  let c := wr Reg.TC_STATE_LINKS n c
  if n = 0 then when had (loseInput .links) c else rootLock (regainInput .links c)

/-- A link leaves service for time: its run of exchanges is over (R58). -/
def dropTimeLink (q : Nat) (c : Ctl) : Ctl :=
  wr (Reg.TC_LINK_EXCLUDED q) 0 (wr (Reg.TC_LINK_RUN q) 0 (wr (Reg.TC_LINK_IN_SERVICE q) 0 c))

/-- The domain offset from the links in service: those far over the median delay are excluded (R58). -/
def domainOffset (c : Ctl) : Ctl :=
  let ls := timeLinks c
  let med := medianInt (ls.map (fun p => signedOf c (Reg.TC_LINK_DELAY p)))
  let far := fun p => decide (signedOf c (Reg.TC_LINK_DELAY p) > med + 215)
  let c := forEach ls (fun p c => wrb (Reg.TC_LINK_EXCLUDED p) (far p) c) c
  if ls.isEmpty then c
  else wr Reg.TC_DOMAIN_OFFSET_OFFSET (offsetReg (medianInt ((ls.filter (fun p => !far p)).map (fun p => signedOf c (Reg.TC_LINK_OFFSET p))))) c

/-- A link-local exchange completes: the module sent its timecode at t1, as domain time where it is the root (R59). One whose
stamps run backwards is not valid and ends the run. An odd sum is halved downwards (DESIGN CHOICE, log entry 56). -/
def execTimeExchange (port : Fin 18) (t1 t2 t3 t4 : DWord) (partnerValid : Bool) (s : State) : Host.Outcome State Fault Refusal :=
  .next (onCtl (fun c =>
    let q := port.toNat
    if !rdb c Reg.TC_CTRL_WILEF_EN then c
    else
      let c := emit (.time q t1.toNat (rdb c Reg.TC_CTRL_DOMAIN_ROOT)) c
      let there : Int := (t2.toNat : Int) - t1.toNat - signedOf c (Reg.TC_LINK_ASYM q)
      let back : Int := (t4.toNat : Int) - t3.toNat
      let c := modCount (192 + 16 * (q / 3) + 13) 1 (wrb (Reg.TC_LINK_PARTNER_VALID q) partnerValid c)
      if t4.toNat < t1.toNat ∨ t3.toNat < t2.toNat then countLinks (dropTimeLink q c)
      else
        let c := wr (Reg.TC_LINK_OFFSET q) (offsetReg ((there - back) / 2)) c
        let c := wr (Reg.TC_LINK_DELAY q) (offsetReg ((there + back) / 2)) c
        let c := bump (Reg.TC_LINK_RUN q) 1 (onTime (fun t => { t with exchanged := (q :: t.exchanged).eraseDups }) c)
        let on := partnerValid && decide (4 ≤ rd c (Reg.TC_LINK_RUN q))
        let c := when (!on) (wr (Reg.TC_LINK_EXCLUDED q) 0) (wrb (Reg.TC_LINK_IN_SERVICE q) on c)
        domainOffset (countLinks c)) s)

/-- A port that is down carries no time (R58). -/
def linkTimeDown (q : Nat) (c : Ctl) : Ctl := countLinks (wr (Reg.TC_LINK_PARTNER_VALID q) 0 (dropTimeLink q c))

/-- A link that had no exchange in the frame that ends breaks its run: an exchange comes once per frame (R57, R58). -/
def missedExchanges (c : Ctl) : Ctl :=
  let l := (List.range 18).filter (fun q => rd c (Reg.TC_LINK_RUN q) != 0 && !c.time.exchanged.contains q)
  let c := onTime (fun t => { t with exchanged := [] }) c
  if l.isEmpty then c else countLinks (forEach l dropTimeLink c)

/-- The phase error the module steers by, as its lock state has it (R50, R59, R63): domain time when domain-locked, but for the root,
which does not steer to it; else the facility second, from pulse-aligned up while its pulse is there. -/
def steering (c : Ctl) : Int :=
  if lockOf c = 4 ∧ rdb c Reg.TC_CTRL_DOMAIN_ROOT = false then (if c.time.lost.contains .links then 0 else signedOf c Reg.TC_DOMAIN_OFFSET_OFFSET)
  else if 2 ≤ lockOf c ∧ rdb c Reg.TC_STATE_PULSE_OK then signedOf c Reg.TC_PULSE_OFFSET_OFFSET
  else 0

/-- The most a frame's slew removes, in tu: TC_SLEW_PPM of a frame, rounded down (R50). -/
def slewMax (c : Ctl) : Int := ((rd c Reg.TC_SLEW_PPM_SLEW * 2 ^ 22 / 1000000 : Nat) : Int)

/-- Over the frame that ends the timecode has been slewed towards its reference: the offsets of all references from it are that
much smaller (R50). The timecode itself never goes back: a frame of it has lasted a little longer or shorter. -/
def slewFrame (c : Ctl) : Ctl :=
  let z := steering c
  let m := slewMax c
  let d := if z > m then m else if z < -m then -m else z
  if d = 0 then c
  else
    let move := fun (f : Fld) (c : Ctl) => wr f (offsetReg (signedOf c f - d)) c
    let c := move Reg.TC_PULSE_OFFSET_OFFSET (move Reg.TC_PTP_OFFSET_OFFSET c)
    let c := forEach (timeLinks c) (fun q c => move (Reg.TC_LINK_OFFSET q) c) (move Reg.TC_DOMAIN_OFFSET_OFFSET c)
    onTime (fun t => { t with ptpFraction := t.ptpFraction - d, ptpOffsets := t.ptpOffsets.map (fun o => o - d) }) c

/-- At a frame boundary the domain offset is taken anew, and domain lock judged (R58, R61 to R63). The module's own facility
estimate is the phase its pulse last measured (DESIGN CHOICE, log entry 56). -/
def domainFrame (c : Ctl) : Ctl :=
  let c := missedExchanges c
  let ls := timeLinks c
  if ls.isEmpty then onTime (fun t => { t with domStable := 0, domConflict := 0 }) c
  else
    let c := domainOffset c
    let c := forEach ls (fun p c => when (rdb c (Reg.TC_LINK_EXCLUDED p)) (modCount (192 + 16 * (p / 3) + 14) 1) c) c
    let off := signedOf c Reg.TC_DOMAIN_OFFSET_OFFSET
    let apart := (off - signedOf c Reg.TC_PULSE_OFFSET_OFFSET).natAbs
    let conflict := decide (apart > 4295)
    let stable := decide (3 ≤ lockOf c) && decide (off.natAbs ≤ 85) && !conflict
    let c := onTime (fun t => { t with domStable := if stable then t.domStable + 1 else 0, domConflict := if conflict then t.domConflict + 1 else 0 }) c
    if lockOf c = 4 ∧ c.time.domConflict ≥ 16 then
      setLock 3 (raise Reg.TC_EVENTS_DOMAIN_CONFLICT (onTime (fun t => { t with domStable := 0 }) c))
    else if rdb c Reg.TC_CTRL_DOMAIN_ROOT then rootLock c
    else if lockOf c = 3 ∧ c.time.domStable ≥ 16 then setLock 4 c
    else c

/-- The estimated error to facility time: unknown when free, else a value the spec leaves open (R66, R78). -/
def errorFrame (c : Ctl) : Ctl :=
  if lockOf c = 0 then wr Reg.TC_ERR_EST_ERR 0xFFFFFFFF c
  else
    let (v, c) := fresh c
    wr Reg.TC_ERR_EST_ERR v.toNat c

/-! ### The grid (R60, R75) -/

/-- The intervals between crossings listed newest first. -/
def intervals : List Nat → List Nat
  | a :: b :: l => (a - b) :: intervals (b :: l)
  | _ => []

/-- Grid phase is valid: the newest crossing is less than 1 s old and the last 8 intervals agree within 0.1%: the longest is longer
than the shortest by no more than that part of the shortest (DESIGN CHOICE, log entry 56). -/
def gridValid (c : Ctl) : Bool :=
  let xs := c.time.crossings
  let d := intervals xs
  let lo := d.foldl Nat.min (d.headD 0)
  decide (xs.length ≥ 9) && decide (now c < xs.headD 0 + 2 ^ 32) && decide ((maxNat d - lo) * 1000 ≤ lo) && decide (lo > 0)

/-- Take in the crossings of a message: the nine newest are kept. -/
def gridMessage (xs : List Nat) (c : Ctl) : Ctl :=
  let newer := xs.filter (fun x => decide (x > c.time.crossings.headD 0))
  let l := ((sortInt (newer.map (fun (x : Nat) => (x : Int)))).reverse.map (fun z => z.toNat) ++ c.time.crossings).take 9
  let c := onTime (fun t => { t with crossings := l }) c
  let n := l.length - 1
  let c := when (decide (n ≥ 1)) (wr Reg.TC_GRID_PERIOD_VALUE ((l.headD 0 - l.getLastD 0) / Nat.max 1 n)) c
  let c := when (!l.isEmpty) (wr64 Reg.TC_GRID_LAST_LO_VALUE Reg.TC_GRID_LAST_HI_VALUE (l.headD 0)) c
  let was := rdb c Reg.TC_STATE_GRID_OK
  let is := gridValid c
  modCount 454 1 (when (was && !is) (raise Reg.TC_EVENTS_GRID_STALE) (wrb Reg.TC_STATE_GRID_OK is c))

/-- The newest crossing becomes 1 s old. -/
def gridStale (c : Ctl) : Ctl :=
  if rdb c Reg.TC_STATE_GRID_OK then raise Reg.TC_EVENTS_GRID_STALE (wr Reg.TC_STATE_GRID_OK 0 c) else c

/-- Grid phase at a timecode, in units of 2^-16 of a cycle (R60). -/
def gridPhase (c : Ctl) (t : Nat) : Nat :=
  let per := Nat.max 1 (rd c Reg.TC_GRID_PERIOD_VALUE)
  (t + per - c.time.crossings.headD 0 % per) % per * 2 ^ 16 / per

/-- The first timecode at or after `t` at which grid phase equals `p` (R75): `t` itself where it has that phase, else the start
of the next such unit. -/
def gridTime (c : Ctl) (t p : Nat) : Nat :=
  let per := Nat.max 1 (rd c Reg.TC_GRID_PERIOD_VALUE)
  let base := c.time.crossings.headD 0 % per + ceilDiv (p * per) (2 ^ 16)
  if gridPhase c t = p then t
  else if t ≤ base then base - (base - t) / per * per else base + ceilDiv (t - base) per * per

/-! ### Steps (R67) -/

/-- An accepted take with a deadline is open. -/
def deadlineOpen (c : Ctl) : Bool :=
  c.ad.takes.any (fun e => (e.2.st == .accepted || e.2.st == .started) && e.2.deadline != noDeadline)

/-- Crew writes TC_STEP. -/
def requestStep (c : Ctl) : Ctl :=
  if c.time.facilitySeen && deadlineOpen c then raise Reg.TC_STEP_REFUSED c
  else wr Reg.TC_STEP_PENDING 1 (onTime (fun t => { t with step := some true }) c)

def execTcStep (s : State) : Host.Outcome State Fault Refusal := .next (onCtl requestStep s)

/-- How far the reference estimate lies ahead of the timecode: the seconds from PTP, the phase from the pulse or, where it
is not qualified, from PTP. -/
def stepDelta (c : Ctl) : Int :=
  let sec := if rdb c Reg.TC_STATE_PTP_OK then c.time.labelDelta * 4294967296 else 0
  let phase := if rdb c Reg.TC_STATE_PULSE_OK then signedOf c Reg.TC_PULSE_OFFSET_OFFSET
    else if rdb c Reg.TC_STATE_PTP_OK then c.time.ptpFraction else 0
  sec + phase

/-- A write of TC_CTRL: an input whose use ends is lost at once, links leave service, and masters are forgotten (R78). -/
def writeTcCtrl (store : Ctl → Ctl) (c : Ctl) : Ctl :=
  let ref := rdb c Reg.TC_CTRL_REF_EN
  let pulse := rdb c Reg.TC_CTRL_PULSE_EN
  let ptp := rdb c Reg.TC_CTRL_PTP_EN
  let links := rdb c Reg.TC_CTRL_WILEF_EN
  let c := store c
  let c := when (ref && !rdb c Reg.TC_CTRL_REF_EN) loseRef c
  let c := when (pulse && !rdb c Reg.TC_CTRL_PULSE_EN) (fun c => losePulse (onTime (fun t => { t with pulseRun := 0, pulseSeen := false }) c)) c
  let c := when (ptp && !rdb c Reg.TC_CTRL_PTP_EN) (rechoose []) c
  when (links && !rdb c Reg.TC_CTRL_WILEF_EN) (fun c => countLinks (forEach (List.range 18) dropTimeLink c)) c

/-- The pending step moves the timecode: on the first entry into facility-locked only the seconds. -/
def applyStep (crew : Bool) (c : Ctl) : Ctl :=
  let d := if crew then stepDelta c else c.time.labelDelta * 4294967296
  let phase := d - c.time.labelDelta * 4294967296
  let t := ofInt 64 ((now c : Int) + d)
  let c := onTime (fun x =>
    { x with step := none, labelDelta := 0, ptpFraction := x.ptpFraction - phase, ptpOffsets := x.ptpOffsets.map (fun o => o - phase) }) (stepTo t c)
  let c := wr Reg.TC_PTP_OFFSET_OFFSET (offsetReg c.time.ptpFraction) c
  let c := when crew (fun c => wr Reg.TC_PULSE_OFFSET_OFFSET (offsetReg (signedOf c Reg.TC_PULSE_OFFSET_OFFSET - phase)) c) c
  let c := noteStep (wr Reg.TC_STEP_PENDING 0 c)
  if lockOf c = 2 ∧ ptpAgrees c then enterFacility c else c

end Sys2Proof.Machine
end

