-- ==== Sys2Proof/Machine/FabricExec.lean ====
section
/-! DEFINITION. The rows of the fabric (R297 to R331) and of the collective engines (R334 to R366). -/

namespace Sys2Proof.Machine

/-! ### What owners of packets do when they are acknowledged or fail -/

/-- Packets of an operation that are not acknowledged, or still wait to go. -/
def outstandingOf (c : Ctl) (o : Owner) : Bool :=
  c.fab.src.any (fun x => (x.unacked ++ x.backlog).any (fun p => p.owner == o && isData p)) || c.fab.ready.any (fun e => e.2.2.2.owner == o && isData e.2.2.2)

/-- Collective operations whose packets an ACK covers: a send is acknowledged once all its data are (R353). -/
def ackColl (os : List Owner) (s : State) : State :=
  os.foldl (fun s o => match o with
    | .coll slot seq =>
      let g := groupAt s.c slot
      let all := fun (x : CollOp) => x.seq == seq && x.fn == 9 && x.begun && decide (x.own.length ≥ (srcPieces x).length) && !outstandingOf s.c o
      goGroup slot (onCtl (setGroup slot { g with ops := g.ops.map (fun x => if all x then { x with acked := true } else x) }) s)
    | _ => s) s

/-- Operations whose context became unreachable end in 0x0404 here and 0x0402 elsewhere (R364). -/
def failColl (phys : Nat) (os : List Owner) (s : State) : State :=
  os.foldl (fun s o => match o with
    | .coll slot seq =>
      match (groupAt s.c slot).ops.find? (fun x => x.seq == seq) with
      | some op =>
        let logical := ((groupAt s.c slot).members.find? (fun m => rtPhys s.c m == phys)).getD 0xFFFF
        failGroup slot 0x0404 (0x0404, op.pc, logical) 0 s
      | none => s
    | _ => s) s

/-- An entry is fenced: operations with that member end in 0x0503, messages to it in 0x0401 (R326, R364). -/
def fenceSet (n : Nat) (s : State) : State :=
  if rtFenced s.c n then s
  else
    let s := s.c.coll.groups.foldl (fun s e =>
      if e.2.state = 2 ∧ e.2.members.contains n ∧ !e.2.ops.isEmpty then failGroup e.1 0x0503 (0x0503, e.2.gid, n) n s else s) s
    fenceEntry n s

def fenceClear (n : Nat) (s : State) : State := if rtFenced s.c n then unfenceEntry n s else s

/-- REMAP: a new physical ID in an entry that is fenced or not valid (R309). -/
def remapEntry (n phys : Nat) (s : State) : Bool × State :=
  if rtValid s.c n && !rtFenced s.c n then (false, onCtl (raise Reg.FAB_RT_CMD_STATUS_REFUSED) s)
  else (true, onCtl (fun c => routeChanged (wr (Reg.FAB_RT_ENTRY_PHYS n) phys c)) s)

/-- An ACK at the source: packets released, messages completed (R318). -/
def onAck (p : Pkt) (s : State) : State :=
  answerOf p (fun s =>
    let s := onCtl (when p.echo (fun c => { c with fab := { c.fab with echoed := (p.src :: c.fab.echoed).eraseDups } })) s
    let (os, s) := ackCtx p.src (p.arg % 4) p.seq s
    ackColl os s) s

/-! ### Rows: packets -/

/-- An ACK that covers a message's LAST packet arrives: the semaphore is posted. -/
def execMessageComplete (port : Fin 18) (bytes : List Byte) (s : State) : Host.Outcome State Fault Refusal :=
  .next (settleAll (drain (arrive port 3 bytes onAck s)))

def execWilefAck (port : Fin 18) (bytes : List Byte) (s : State) : Host.Outcome State Fault Refusal :=
  .next (settleAll (drain (arrive port 3 bytes onAck s)))

def execData (port : Fin 18) (bytes : List Byte) (s : State) : Host.Outcome State Fault Refusal :=
  .next (settleAll (drain (arrive port 1 bytes receive s)))

def execNotify (port : Fin 18) (bytes : List Byte) (s : State) : Host.Outcome State Fault Refusal :=
  .next (settleAll (drain (arrive port 2 bytes receive s)))

/-- A NAK names the missing packet, which goes again on another port (R319). -/
def execNak (port : Fin 18) (bytes : List Byte) (s : State) : Host.Outcome State Fault Refusal :=
  .next (settleAll (drain (arrive port 4 bytes (fun p => answerOf p (fun s =>
    let (os, s) := resend p.src (p.arg % 4) p.seq s
    failColl p.src os s)) s)))

/-- A REFUSE ends the take whose message it answers in 0x0404 (R161, R317). -/
def execRefuse (port : Fin 18) (bytes : List Byte) (s : State) : Host.Outcome State Fault Refusal :=
  .next (settleAll (drain (arrive port 5 bytes (fun p => answerOf p (fun s =>
    let s := onCtl (raise Reg.FAB_EVENTS_REFUSED) s
    if p.msgId / 2 ^ 24 < 192 then failMsg (p.msgId / 2 ^ 24) (p.msgId % 2 ^ 24) 0x0404 s else s)) s)))

/-- The first copy of a packet without a context; later ones within 2^22 tu are discarded (R315). -/
def firstCopy (p : Pkt) (c : Ctl) : Bool × Ctl :=
  let seen := c.fab.seen.any (fun x => x.1 == p.src && x.2.1 == p.msgId && decide (now c ≤ x.2.2 + 2 ^ 22))
  if seen then (false, c)
  else (true, { c with fab := { c.fab with seen := (p.src, p.msgId, now c) :: c.fab.seen.filter (fun x => decide (now c ≤ x.2.2 + 2 ^ 22)) } })

/-- A cut arrives (R484, R485): one for a step group already cut changes nothing. -/
def onCut (p : Pkt) (s : State) : State :=
  let (first, c) := firstCopy p (bump Reg.FLT_CUT_RX_COUNT 1 s.c)
  let s := { s with c := c }
  if !first then s
  else
    let step := leAt p.payload 0 4
    let tc := leAt p.payload 8 8
    if leAt p.payload 4 2 ≠ sliceNow s.c then s
    else
      let s := onCtl (countF (ownerOf s.c p.src) 12 1) s
      if cutRecently step s.c then s
      else
        let origin := ((rtEntries s.c).find? (fun n => rtPhys s.c n == p.src)).getD 0xFFFF
        let ends := s.c.ad.takes.any (fun e => cutEnds step tc e.2)
        onCtl (fun c => when ends (raise Reg.FLT_EVENTS_CUT_RECEIVED) (applyCut step tc origin c)) s

def execCut (port : Fin 18) (bytes : List Byte) (s : State) : Host.Outcome State Fault Refusal :=
  .next (settleAll (arrive port 8 bytes onCut s))

/-- DEPART fences every valid entry of its source (R328). -/
def onDepart (p : Pkt) (s : State) : State :=
  let (first, c) := firstCopy p s.c
  let s := { s with c := c }
  if !first then s
  else
    let l := (rtEntries s.c).filter (fun n => rtPhys s.c n == p.src)
    onCtl (raise Reg.FAB_EVENTS_DEPARTED) (l.foldl (fun s n => fenceSet n s) s)

def execDepart (port : Fin 18) (bytes : List Byte) (s : State) : Host.Outcome State Fault Refusal :=
  .next (settleAll (arrive port 9 bytes onDepart s))

/-! ### Rows: timers and contexts -/

/-- A notification unclaimed for 16 frames (R159). -/
def doNotificationExpiry (entry : Fin 256) (s : State) : Host.Outcome State Fault Refusal :=
  match s.c.share.notices[entry.toNat]? with
  | none => .next s
  | some n =>
    .next (onCtl (fun c =>
      let c := advanceTo ((n.frame + 16) * 2 ^ 22) c
      bump (Reg.TL_NOTIFY_DROPS_COUNT n.tile) 1 { c with share := { c.share with notices := c.share.notices.eraseIdx entry.toNat } }) s)

/-- The gap timer of a destination context reaches FAB_REORDER.GAP_US: NAK, and it starts again (R316). -/
def doGapTimer (src : BitVec 12) (cls : Fin 3) (s : State) : Host.Outcome State Fault Refusal :=
  match s.c.fab.dst.find? (isDst src.toNat cls) with
  | none => .next s
  | some x =>
    match x.gapAt with
    | none => .next s
    | some t =>
      .next (onCtl (fun c =>
        let c := advanceTo (t + usTu (rd c Reg.FAB_REORDER_GAP_US)) c
        countF (ownerOf c src.toNat) 6 1 (sendControl 4 src.toNat x.expect x.gen cls 0xFF000000 false (putDst { x with gapAt := some (now c) } c))) s)

/-- 2 µs after a delivery not yet acknowledged (R318). -/
def doAckTimer (src : BitVec 12) (cls : Fin 3) (s : State) : Host.Outcome State Fault Refusal :=
  match (s.c.fab.dst.find? (isDst src.toNat cls)).bind (fun x => x.owedAt) with
  | none => .next s
  | some t => .next (ackNow src.toNat cls (onCtl (advanceTo (t + usTu 2)) s))

/-- The packet of a context with a sequence number that is not acknowledged. -/
def unackedOf (dst cls seq : Nat) (c : Ctl) : Option SrcPkt :=
  (c.fab.src.find? (isSrc dst cls)).bind (fun x => x.unacked.find? (fun p => p.seq == seq))

/-- 100 µs after a packet was sent with no ACK that covers it (R319). -/
def doRetransmitTimeout (dst : BitVec 12) (cls : Fin 3) (seq : BitVec 32) (s : State) : Host.Outcome State Fault Refusal :=
  match unackedOf dst.toNat cls seq.toNat s.c with
  | none => .next s
  | some p =>
    let (os, s) := resend dst.toNat cls seq.toNat (onCtl (advanceTo (p.sentAt + usTu 100)) s)
    .next (settleAll (drain (failColl dst.toNat os s)))

/-- A source context with nothing unacknowledged and nothing sent for 8 frames closes (R313). -/
def doContextClose (dst : BitVec 12) (cls : Fin 3) (s : State) : Host.Outcome State Fault Refusal :=
  match s.c.fab.src.find? (isSrc dst.toNat cls) with
  | none => .next s
  | some x =>
    if x.unacked.isEmpty && x.backlog.isEmpty then
      .next (onCtl (fun c => closeSrc (isSrc dst.toNat cls) (advanceTo (x.at_ + 8 * 2 ^ 22) c)) s)
    else .next s

/-- A destination context without a packet for 16 frames and with everything delivered is freed (R313). -/
def doContextFree (src : BitVec 12) (cls : Fin 3) (s : State) : Host.Outcome State Fault Refusal :=
  match s.c.fab.dst.find? (isDst src.toNat cls) with
  | none => .next s
  | some x =>
    if x.held.isEmpty then .next (onCtl (fun c => closeDst (isDst src.toNat cls) (advanceTo (x.at_ + 16 * 2 ^ 22) c)) s) else .next s

/-- The full rate of the ports in service in bytes per second (R324). -/
def fullRate (c : Ctl) : Nat := 100 * 10 ^ 9 * (portsUp c).length

/-- The end of an update period of FAB_CC.PERIOD_US: the rate to a destination is raised or cut (R324); `thresh` says a port passed
its threshold holding packets for it. The first period of a destination ends with its first update. -/
def doCongestionUpdate (dst : BitVec 12) (thresh : Bool) (s : State) : Host.Outcome State Fault Refusal :=
  .next (onCtl (fun c =>
    let d := dst.toNat
    let c := match Map.get? c.fab.rateAt d with
      | some t => advanceTo (t + usTu (rd c Reg.FAB_CC_PERIOD_US)) c
      | none => c
    let c := { c with fab := { c.fab with rateAt := Map.put c.fab.rateAt d (now c) } }
    let full := fullRate c
    if !rdb c Reg.FAB_CTRL_CC_EN then { c with fab := { c.fab with rates := Map.del c.fab.rates d } }
    else
      let r := Map.getD full c.fab.rates d
      let cut := thresh || c.fab.echoed.contains d
      let r' := if cut then Nat.max (10 ^ 9) (r * (8 - rd c Reg.FAB_CC_MD_EIGHTHS) / 8) else Nat.min full (r + rd c Reg.FAB_CC_AI_GBPS * 10 ^ 9)
      let c := when cut (countF (ownerOf c d) 15 1) c
      { c with fab := { c.fab with rates := Map.put c.fab.rates d r', echoed := c.fab.echoed.filter (fun x => x != d) } }) s)

/-! ### Rows: routes -/

/-- A write to FAB_RT_ENTRY for the selected entry (R309): refused, or the fence is set or cleared and the entry takes the value. -/
def writeRtEntry (v : Nat) (s : State) : State :=
  let n := rd s.c Reg.FAB_RT_SEL_LOGICAL
  if routeRefused n v s.c then onCtl (raise Reg.FAB_RT_CMD_STATUS_REFUSED) s
  else onCtl (setRoute n v) (if bit v 13 then fenceSet n s else fenceClear n s)

def execRouteTableWrite (value : BitVec 32) (s : State) : Host.Outcome State Fault Refusal := .next (settleAll (writeRtEntry value.toNat s))

def execRtHashRecompute (s : State) : Host.Outcome State Fault Refusal :=
  .next (onCtl (fun c =>
    let h := routeHash c
    wr Reg.FAB_STATUS_RT_HASH_VALID 1 (forEach (List.range 8) (fun n c => wr (Reg.FAB_RT_HASH_HASH n) (leAt h (4 * n) 4) c)
      { c with sec := { c.sec with m5 := h } })) s)

/-! ### Rows: ports (R299 to R301, R323) -/

/-- Ports in the up state as FAB_STATUS shows them. -/
def showPorts (c : Ctl) : Ctl := wr Reg.FAB_STATUS_PORTS_UP (bitsOf 18 (fun q => (portsUp c).contains q)) c

def setPortAt (q : Nat) (t : Option Nat) (c : Ctl) : Ctl :=
  { c with fab := { c.fab with portAt := match t with
    | some t => Map.put c.fab.portAt q t
    | none => Map.del c.fab.portAt q } }

/-- A port may be brought up: it is enabled on an F-die in service, not up, and not within the second after a failure (R299). -/
def canBringUp (q : Nat) (c : Ctl) : Bool :=
  rdb c (Reg.FAB_PORT_CTRL_ENABLE q) && (fdiesUp c).contains (q / 3) && rd c (Reg.FAB_PORT_STATE_STATE q) != 3 &&
    (rd c (Reg.FAB_PORT_STATE_STATE q) != 0 || (Map.get? c.fab.portAt q).isNone)

/-- The longest bring-up in ms: the steps of R299, and four frames. -/
def bringUpMs : Nat := 50 + 1500 + 10 + 1 + 4

/-- One bring-up of a port: `failed` names the first step that failed, 0 none; the partner's domain and the training time are
what the link gives. One that takes longer than its steps may has failed. -/
def execPortBringUp (port : Fin 18) (failed : Fin 6) (domain : BitVec 3) (ms : BitVec 16) (s : State) : Host.Outcome State Fault Refusal :=
  .next (onCtl (fun c =>
    let q := port.toNat
    if !canBringUp q c then c
    else
      let c := wr (Reg.FAB_PORT_STATE_TRAIN_MS q) ms.toNat c
      if failed ≠ 0 ∨ bringUpMs < ms.toNat then
        setPortAt q (some (now c)) (bump (Reg.FAB_PORT_STATE_RETRIES q) 1 (showPorts (wr (Reg.FAB_PORT_STATE_STATE q) 0 c)))
      else
        let c := wr (Reg.FAB_PORT_STATE_PARTNER_DOMAIN q) domain.toNat c
        if domain.toNat ≠ rd c Reg.FAB_ID_DOMAIN then
          raise Reg.FAB_EVENTS_DOMAIN_MISMATCH (wr (Reg.FAB_PORT_STATE_DOMAIN_MISMATCH q) 1 (showPorts (wr (Reg.FAB_PORT_STATE_STATE q) 4 c)))
        else
          let c := wr (Reg.FAB_PORT_STATE_DOMAIN_MISMATCH q) 0 (wr (Reg.FAB_PORT_STATE_STATE q) 3 c)
          setPortAt q (some (now c)) (showPorts (wr (Reg.FAB_PORT_WEIGHT_WEIGHT q) 128 c))) s)

/-- One second after a failure the port starts again at step 1: it trains (R299). -/
def doPortRetry (port : Fin 18) (s : State) : Host.Outcome State Fault Refusal :=
  match Map.get? s.c.fab.portAt port with
  | some t =>
    if rdb s.c (Reg.FAB_PORT_CTRL_ENABLE port) && rd s.c (Reg.FAB_PORT_STATE_STATE port) == 0 then
      .next (onCtl (fun c => setPortAt port none (wr (Reg.FAB_PORT_STATE_STATE port) 1 (advanceTo (t + 2 ^ 32) c))) s)
    else .next s
  | none => .next s

/-- A port leaves the up state. -/
def portDown (q : Nat) (c : Ctl) : Ctl :=
  if rd c (Reg.FAB_PORT_STATE_STATE q) = 0 then c
  else
    let up := rd c (Reg.FAB_PORT_STATE_STATE q) == 3
    let c := setPortAt q none { c with flt := { c.flt with ports10 := c.flt.ports10.filter (fun x => x != q) } }
    noteProfile (linkTimeDown q (when up (raise Reg.FAB_EVENTS_PORT_DOWN) (showPorts (wr (Reg.FAB_PORT_STATE_STATE q) 0 c))))

def execPortDown (port : Fin 18) (s : State) : Host.Outcome State Fault Refusal := .next (onCtl (portDown port) s)

def disablePort (q : Nat) (c : Ctl) : Ctl := portDown q (wr (Reg.FAB_PORT_CTRL_ENABLE q) 0 c)

def execPortDisable (port : Fin 18) (s : State) : Host.Outcome State Fault Refusal := .next (onCtl (disablePort port) s)

/-- A port has been up for more than 10 s: the profile no longer names it (R301). -/
def doPortUp10S (port : Fin 18) (s : State) : Host.Outcome State Fault Refusal :=
  match Map.get? s.c.fab.portAt port with
  | some t =>
    if rd s.c (Reg.FAB_PORT_STATE_STATE port) = 3 ∧ !s.c.flt.ports10.contains port.toNat then
      .next (onCtl (fun c =>
        let c := advanceTo (t + 10 * 2 ^ 32 + 1) c
        noteProfile { c with flt := { c.flt with ports10 := port.toNat :: c.flt.ports10 } }) s)
    else .next s
  | none => .next s

/-- An F-die leaves service: the contexts it owned close and their messages end in 0x0404 (R323). -/
def fdieOut (f : Nat) (s : State) : State :=
  if !(fdiesUp s.c).contains f then s
  else
    let mine := s.c.fab.src.filter (fun x => ownerOf s.c x.dst == f)
    let keepS := s.c.fab.src.filter (fun x => ownerOf s.c x.dst != f)
    let keepD := s.c.fab.dst.filter (fun x => ownerOf s.c x.src != f)
    let late := (s.c.fab.ready.filter (fun e => ownerOf s.c e.2.1 == f)).map (fun e => (e.2.1, e.2.2.2.owner))
    let s := onCtl (fun c =>
      let c := dropReady (fun x => ownerOf s.c x == f) (setFabSrc keepS (setFabDst keepD c))
      let m := rd c Reg.FAB_STATUS_FDIES
      let c := wr Reg.COL_STATUS_ENGINES (rd c Reg.COL_STATUS_ENGINES &&& (0x3F - 2 ^ f)) (wr Reg.FAB_STATUS_FDIES (m - 2 ^ f) c)
      forEach [3 * f, 3 * f + 1, 3 * f + 2] portDown (raise Reg.FAB_EVENTS_FDIE_OUT c)) s
    let s := mine.foldl (fun s x =>
      let os := ownersOf (x.unacked ++ x.backlog)
      failColl x.dst os (failOwners os s)) s
    let s := late.foldl (fun s x => failColl x.1 [x.2] s) s
    onCtl noteProfile s

def execFdieOut (fdie : Fin 6) (s : State) : Host.Outcome State Fault Refusal := .next (settleAll (drain (fdieOut fdie s)))

/-! ### Rows: collectives -/

/-- A collective packet from a member: accepted or dropped by its header (R310, R366), then given to the slot of its
group; a slot that is not open or holds another group answers a SIG or data with FAIL (R364). -/
def collArrive (answers : Bool) (h : CollSrc) (slot gid seq : Nat) (s : State) (run : Group → Nat → State → State) : State :=
  match accepts h.src h.slice s.c with
  | (false, c) => { s with c := c }
  | (true, c) =>
    let s := { s with c := c }
    let g := groupAt s.c slot
    let stale := s.c.fab.dst.any (fun x => x.src == h.src && genOlder h.gen x.gen)
    if stale then onCtl (bump Reg.COL_DROPS_COUNT 1) s
    else if g.state ≠ 2 ∨ g.gid ≠ gid then
      let from_ := ((rtEntries s.c).find? (fun n => rtPhys s.c n == h.src)).getD 0xFFFF
      let s := onCtl (bump Reg.COL_DROPS_COUNT 1) s
      if from_ = 0xFFFF ∨ !answers then s else sendColl slot from_ 4 gid seq 0x0502 0 [] s
    else
      match findFrom (fun m => decide (m < 4096) && rtPhys s.c m == h.src) g.members 0 with
      | some m => run g m s
      | none => onCtl (bump Reg.COL_DROPS_COUNT 1) s

/-- A JOIN at member 0 (R338). -/
def execJoin (h : CollSrc) (gid : BitVec 32) (member slot : Nat) (status : Fin 8) (hash : BitVec 64) (s : State) : Host.Outcome State Fault Refusal :=
  match accepts h.src h.slice s.c with
  | (false, c) => .next { s with c := c }
  | (true, c) =>
    let s : State := { s with c := c }
    let full := (rootAt s.c gid.toNat).isNone && decide ((strangers s.c).length ≥ 64)
    let from_ := ((rtEntries s.c).find? (fun n => rtPhys s.c n == h.src)).getD 0xFFFF
    -- a full table draws a FAIL answer, with which the joining member completes with status 5
    let s' := if full && from_ != 0xFFFF then sendColl slot from_ 4 gid.toNat 0 5 0 [] s else s
    .next (settleAll (drain (takeJoin { gid := gid.toNat, from_ := member, slot := slot, status := status, hash := hash.toNat, frame := frameNow s.c } s')))

/-- The creation timeout at member 0 (R338): COL_CREATE_TIMEOUT frames after the first JOIN of a group it creates, or after the
arrival of one it holds for a group it does not know. -/
def doJoinTimeout (gid : BitVec 32) (s : State) : Host.Outcome State Fault Refusal :=
  let limit := fun (c : Ctl) => rd c Reg.COL_CREATE_TIMEOUT_FRAMES
  match s.c.coll.joins.find? (fun j => j.gid == gid.toNat) with
  | none => .next s
  | some j =>
    let s := onCtl (fun c => advanceTo ((j.frame + limit c) * 2 ^ 22) c) s
    match rootAt s.c gid.toNat with
    | some (slot, g) => .next (settleAll (drain (finishCreate slot g s)))
    | none => .next (onCtl (fun c => { c with coll := { c.coll with
        joins := c.coll.joins.filter (fun x => x.gid != gid.toNat || decide (frameNow c < x.frame + limit c)) } }) s)

/-- The result of a creation at a member (R338 step 5). -/
def execCreateResult (h : CollSrc) (slot : Fin 256) (gid : BitVec 32) (status : Fin 8) (table : List Byte) (s : State) : Host.Outcome State Fault Refusal :=
  match accepts h.src h.slice s.c with
  | (false, c) => .next { s with c := c }
  | (true, c) =>
    if (groupAt c slot).gid = gid.toNat then
      .next (settleAll (drain { s with c := applyResult slot status (table.map (fun b => b.toNat)) c }))
    else .next { s with c := c }

/-- A SIG arrives (R351, R352). -/
def execSig (h : CollSrc) (slot : Fin 256) (gid : BitVec 32) (seq sig : BitVec 64) (s : State) : Host.Outcome State Fault Refusal :=
  .next (settleAll (drain (collArrive true h slot gid.toNat seq.toNat s (fun g m s =>
    goGroup slot (onCtl (setGroup slot { g with sigs := g.sigs ++ [(m, seq.toNat, sig.toNat)] }) s)))))

/-- Cut a packet's bytes into units of the operation they belong to. -/
def splitUnits (op : Option CollOp) (unit : Nat) (val : List Byte) : List (Nat × List Byte) :=
  let b := match op with
    | some o => if o.fn = 11 then val.length else unitBytes o.fmt
    | none => val.length
  if b = 0 then [] else (List.range (val.length / b)).map (fun k => (unit + k, sub val (b * k) b))

def onCollData (slot m seq : Nat) (d : CollData) (g : Group) (s : State) : State :=
  let op := g.ops.find? (fun o => o.seq == seq)
  match d with
  | .part u v => goGroup slot (onCtl (setGroup slot { g with inbox := g.inbox ++ (splitUnits op u v).map (fun x =>
      ({ from_ := m, seq := seq, kind := 0, unit := x.1, val := x.2 } : CollIn)) }) s)
  | .result u v => goGroup slot (onCtl (setGroup slot { g with inbox := g.inbox ++ (splitUnits op u v).map (fun x =>
      ({ from_ := m, seq := seq, kind := 1, unit := x.1, val := x.2 } : CollIn)) }) s)
  | .arrive t w table => goGroup slot (onCtl (setGroup slot { g with
      ops := g.ops.map (fun o => if o.seq = seq then
        { o with heard := o.heard ++ [(m, t, w)], table := if table.isEmpty then o.table else table } else o) }) s)
  | .record bytes => onCtl (noteRecord (g.members.getD m 0xFFFF) bytes) s
  | .release r table =>
    match op with
    | none => s
    | some o =>
      let kids := Config.treeChildren g.members.length 0 g.index
      goGroup slot (setRelease slot r o table (sendMembers slot g kids 8 seq r 0 table s))

def execColl (h : CollSrc) (slot : Fin 256) (gid : BitVec 32) (seq : BitVec 64) (data : CollData) (s : State) : Host.Outcome State Fault Refusal :=
  .next (settleAll (drain (collArrive true h slot gid.toNat seq.toNat s (fun g m s => onCollData slot m seq.toNat data g s))))

/-- The root's DONE (R353). -/
def execDone (h : CollSrc) (slot : Fin 256) (gid : BitVec 32) (seq : BitVec 64) (s : State) : Host.Outcome State Fault Refusal :=
  .next (settleAll (drain (collArrive false h slot gid.toNat seq.toNat s (fun g _ s =>
    goGroup slot (onCtl (setGroup slot { g with ops := g.ops.map (fun o => if o.seq = seq.toNat then { o with done := true } else o) }) s)))))

/-- FAIL ends the operation and breaks the group; one for an operation already complete, or not yet started, only breaks
it (R364, R365). A member that joins completes its creation with status 5 (R338). -/
def execFail (h : CollSrc) (slot : Fin 256) (gid : BitVec 32) (seq : BitVec 64) (reason : BitVec 16) (member : Nat) (detail : BitVec 16) (s : State) :
    Host.Outcome State Fault Refusal :=
  let g := groupAt s.c slot
  if g.state = 1 ∧ g.gid = gid.toNat then
    match accepts h.src h.slice s.c with
    | (false, c) => .next { s with c := c }
    | (true, c) => .next (settleAll (drain { s with c := applyResult slot 5 [] c }))
  else
    .next (settleAll (drain (collArrive false h slot gid.toNat seq.toNat s (fun g _ s =>
      onCtl (breakGroup slot reason.toNat member (failNg g reason.toNat member seq.toNat detail.toNat)) s))))

/-- A write to the pool registers: refused while any group exists (R336). -/
def poolWrite (size : Bool) (v : Nat) (c : Ctl) : Ctl :=
  if c.coll.groups.any (fun e => e.2.state != 0) then raise Reg.COL_EVENTS_POOL_REFUSED c
  else wr (if size then Reg.COL_POOL_SIZE_MIB else Reg.COL_POOL_BASE_MIB) v c

def execPoolChange (size : Bool) (value : BitVec 32) (s : State) : Host.Outcome State Fault Refusal :=
  .next (onCtl (poolWrite size value.toNat) s)

end Sys2Proof.Machine
end

