-- ==== Sys2Proof/Machine/Keys.lean ====
section
/-! DEFINITION. Keys derived from the device secret, the module's signatures, and AES-256-GCM (R517 to R522). What ML-DSA and ML-KEM
compute, and the device secret, are opaque (log entry 40). -/

namespace Sys2Proof.Machine

/-! ### Free bytes -/

/-- `n` free bytes: what the TRNG draws (log entries 1 and 40). -/
def freshBytes : Nat → Ctl → List Byte × Ctl
  | 0, c => ([], c)
  | n + 1, c =>
    let (w, c) := fresh c
    let (l, c) := freshBytes n c
    (w.setWidth 8 :: l, c)

/-! ### AES-256-GCM (SP 800-38D) -/

/-- A block as a number, its first byte the most significant. -/
def gcmNumber (l : List Nat) : Nat := l.foldl (fun a b => 256 * a + b) 0

def gcmBlock (n : Nat) : List Nat := (List.range 16).map (fun k => n / 256 ^ (15 - k) % 256)

/-- The product in GF(2^128), whose first bit is the highest. -/
def gcmMul (x y : Nat) : Nat :=
  ((List.range 128).foldl (fun (a : Nat × Nat) k =>
    (if x.testBit (127 - k) then a.1 ^^^ a.2 else a.1, if a.2 % 2 = 1 then a.2 / 2 ^^^ 0xE1 * 2 ^ 120 else a.2 / 2)) (0, y)).1

def gcmHash (h : Nat) (blocks : List Nat) : Nat := blocks.foldl (fun y x => gcmMul (y ^^^ x) h) 0

/-- Bytes as blocks, the last filled with zeros. -/
def gcmBlocks (l : List Nat) : List Nat :=
  (List.range ((l.length + 15) / 16)).map (fun j => gcmNumber ((List.range 16).map (fun k => l.getD (16 * j + k) 0)))

/-- Counter mode from the block after the first, which serves the tag: encryption and decryption alike. -/
def gcmCrypt (key nonce data : List Nat) : List Nat :=
  let keys := aesKeys key
  (List.range data.length).map (fun k => data.getD k 0 ^^^ (aesEncrypt keys (nonce ++ (gcmBlock (k / 16 + 2)).drop 12)).getD (k % 16) 0)

/-- The tag of a ciphertext. -/
def gcmTag (key nonce aad ct : List Nat) : List Nat :=
  let keys := aesKeys key
  let h := gcmNumber (aesEncrypt keys (List.replicate 16 0))
  let s := gcmHash h (gcmBlocks aad ++ gcmBlocks ct ++ [8 * aad.length * 2 ^ 64 + 8 * ct.length])
  xorList (aesEncrypt keys (nonce ++ [0, 0, 0, 1])) (gcmBlock s)

def natsOf (l : List Byte) : List Nat := l.map (fun b => b.toNat)
def bytesOf (l : List Nat) : List Byte := l.map (fun n => BitVec.ofNat 8 n)

/-- Ciphertext and tag. -/
def gcmSeal (key nonce aad data : List Byte) : List Byte :=
  let ct := gcmCrypt (natsOf key) (natsOf nonce) (natsOf data)
  bytesOf (ct ++ gcmTag (natsOf key) (natsOf nonce) (natsOf aad) ct)

/-- The data that ciphertext and tag open to, whether or not the tag is good. -/
def gcmOpen (key nonce box : List Byte) : List Byte := bytesOf (gcmCrypt (natsOf key) (natsOf nonce) (natsOf (box.take (box.length - 16))))

/-! ### Derived keys (R522) -/

def deviceSecret : List Byte := (List.range 32).map Config.deviceSecret

def deriveKey (label : String) (context : List Byte) : List Byte := shake256 32 (deviceSecret ++ asciiBytes label ++ context)

def identitySeed : List Byte := deriveKey "ZHOUD-IDENTITY" []
def repairSeed : List Byte := deriveKey "ZHOUD-REPAIR" []
def aliasSeed (context : List Byte) : List Byte := deriveKey "ZHOUD-ALIAS" context
def wrapKey : List Byte := deriveKey "ZHOUD-WRAP" []

/-- Public keys and hedged signatures of ML-DSA-44 and ML-DSA-87 by the seed of the key (R518). -/
def dsa44Key (seed : List Byte) : List Byte := (List.range 1312).map (Config.dsaKey 44 seed)
def dsa44Sign (seed msg rnd : List Byte) : List Byte := (List.range 2420).map (Config.dsaSign 44 seed msg rnd)
def dsa87Key (seed : List Byte) : List Byte := (List.range 2592).map (Config.dsaKey 87 seed)
def dsa87Sign (seed msg rnd : List Byte) : List Byte := (List.range 4627).map (Config.dsaSign 87 seed msg rnd)

/-- Encapsulation key and shared secret of ML-KEM-768 by the seed of the pair. -/
def kemKey (seed : List Byte) : List Byte := (List.range 1184).map (Config.kemKey seed)
def kemSecret (seed ct : List Byte) : List Byte := (List.range 32).map (Config.kemSecret seed ct)

end Sys2Proof.Machine
end

