-- ==== Sys2Proof/Machine/Faults.lean ====
section
/-! DEFINITION. Domain resets and their dailies (R470 to R480), hangs, the fatal class (R469), suspects and repair (R492,
R493), dailies and profile registers. -/

namespace Sys2Proof.Machine

def onFlt (f : FltSt → FltSt) (c : Ctl) : Ctl := { c with flt := f c.flt }

/-! ### Domains and generations (R473) -/

/-- A reset domain: a well-formed tile, group or die cell (R498). -/
def isDomain (c : Ctl) (cell : BitVec 32) : Bool := decide (cellLevel cell ≤ 2) && plainCell c cell

def groupCell (d g : Nat) : BitVec 32 := BitVec.ofNat 32 (0x10000000 + 256 * d + 16 * g)
def dieCell (d : Nat) : BitVec 32 := BitVec.ofNat 32 (0x20000000 + 256 * d)

def domainGen (c : Ctl) (cell : BitVec 32) : Nat := Map.getD 0 c.flt.gens cell.toNat

/-- The domain and every domain it contains. -/
def domainsIn (c : Ctl) (cell : BitVec 32) : List (BitVec 32) :=
  let tiles := plainTiles c cell
  let groups := if cellLevel cell = 0 then [] else (tiles.map groupOf).eraseDups.map (fun g => groupCell (g / 6) (g % 6))
  let dies := if cellLevel cell = 2 then [cell] else []
  tiles.map tileCell ++ groups ++ dies

def bumpGens (cell : BitVec 32) (c : Ctl) : Ctl :=
  onFlt (fun f => { f with gens := (domainsIn c cell).foldl (fun m d =>
    Map.setD 0 m d.toNat ((Map.getD 0 m d.toNat + 1) % 2 ^ 16)) f.gens }) c

/-! ### Dailies (R478 to R480) -/

/-- The word a tile register shows. -/
def tlWord (c : Ctl) (i off : Nat) : Nat :=
  wordOf (viewTL c i) c (fieldsAt c (controlBase + 0x10000000 + i * 0x100000 + off))

/-- The corner rows and columns of an accumulator set. -/
def corners : List Nat := List.range 8 ++ (List.range 8).map (fun k => 120 + k)

/-- The section of a tile (R478), of 48 KiB; a tile whose every access times out is zero-filled and marked in the capture
map. -/
def dumpTile (s : State) (i : Nat) (dark : Bool) : List Byte :=
  let c := s.c
  let t := tileAt c i
  let map := leBytes 2048 (if dark then 2 ^ 704 - 1 else 0)
  if dark then padTo 0x800 [] ++ map ++ padTo 0xB000 []
  else
    let take := takeOn c i
    let head := leBytes 4 i ++ leBytes 4 (tlWord c i 0x4) ++ leBytes 4 t.lastPc ++ leBytes 4 (rd c (Reg.TL_FAULT_CODE i) + 2 ^ 16 * rd c (Reg.TL_FAULT_VALID i))
      ++ leBytes 4 (rd c (Reg.TL_FAULT_ADDR_ADDR i))
      ++ leBytes 4 ((viewTL c i).foldl (fun a v => if v.1 / 32 = (Reg.TL_QDEPTH_A_LOADS i).key / 32 then a + v.2 * 2 ^ (v.1 % 32) else a) 0)
      ++ leBytes 4 ((viewTL c i).foldl (fun a v => if v.1 / 32 = (Reg.TL_QDEPTH_B_SYNC i).key / 32 then a + v.2 * 2 ^ (v.1 % 32) else a) 0)
      ++ leBytes 4 ((take.map (fun k => k.2.reel)).getD 0) ++ leBytes 8 ((take.map (fun k => k.2.num)).getD 0)
      ++ leBytes 4 (domainGen c (tileCell i))
    let s0 := (List.range 32).flatMap (fun n => leBytes 8 (Map.getD 0 t.s n).toNat)
    let p0 := (List.range 8).flatMap (fun n => leBytes 16 (pReg t n).toNat)
    let q0 := (List.range 32).flatMap (fun n => leBytes 2 (semCount c i n))
    let cnt := (List.range 96).flatMap (fun n => leBytes 4 (rd c (Reg.TL_CNT_COUNT i n)))
    let d0 := (List.range 16).flatMap (fun n => leBytes 64 (dReg t n).raw.toNat)
    let acc := (List.range 8).flatMap (fun n => corners.flatMap (fun r => corners.flatMap (fun k => leBytes 4 ((accRow t n r).getD k 0).toNat)))
    let base := i * 0x200000
    padTo 0x200 (padTo 0x80 head ++ s0 ++ p0) ++ padTo 0x200 (q0 ++ cnt) ++ padTo 0x400 d0 ++ map ++ padTo 0x2000 acc ++ getBytes s.mem base 0x1000
      ++ (List.range 128).flatMap (fun m => getBytes s.mem (base + 256 * (64 * m + 32)) 256)

/-- Store bytes into a range already zeroed. -/
def putSparse : Nat → List Byte → Memory → Memory
  | _, [], m => m
  | a, b :: bs, m => putSparse (a + 1) bs (if b = 0 then m else putByte a b m)

/-- The slot a new dump of a C-die takes: the lowest free one, else the oldest. -/
def dumpSlot (c : Ctl) (die : Nat) : Nat × Bool :=
  match (List.range 16).find? (fun k => (Map.get? c.flt.dumps (16 * die + k)).isNone) with
  | some k => (k, false)
  | none =>
    let o := (List.range 16).foldl (fun (b : Option (Nat × Nat)) k =>
      match Map.get? c.flt.dumps (16 * die + k), b with
      | some d, none => some (d.order, k)
      | some d, some x => if d.order < x.1 then some (d.order, k) else some x
      | none, _ => b) none
    ((o.map (fun x => x.2)).getD 0, true)

/-- Capture tiles of one C-die into a slot of its dailies area; `us` is the time the dump took, at most 2 ms. A die whose
S-die 2k is out of service keeps no dailies. Gives the byte that the log names the slot by. -/
def dumpDie (die : Nat) (tiles : List Nat) (cell gen0 gen1 : Nat) (dark : List Nat) (us : Nat) (s : State) : Nat × State :=
  if s.c.flt.outS.contains (2 * die) then (0xFF, s)
  else
    let (slot, wrapped) := dumpSlot s.c die
    let cut := decide (us ≥ 2000)
    let base := sramBase + (32 * die + 15) * 0x4000000 + 0x2000000 + slot * 0x200000
    let entry := (s.c.flt.log.head?).getD (List.replicate 32 0)
    let head := padTo 32 entry ++ leBytes 4 cell ++ leBytes 2 gen0 ++ leBytes 2 gen1 ++ leBytes 8 (now s.c) ++ leBytes 4 (Nat.min us 2000)
      ++ leBytes 4 tiles.length
    let body := tiles.map (fun i => dumpTile s i (cut || dark.contains i))
    let missing := if cut then 768 * tiles.length else 768 * (tiles.filter (fun i => dark.contains i)).length
    let s := setMem (fun m =>
      let m := putSparse base head (zeroRange base 0x200000 m)
      (((List.range body.length).zip body).foldl (fun m e => putSparse (base + 0x10000 + 0xC000 * e.1) e.2 m) m)) s
    let d : Dump := { complete := !cut, tiles := tiles.length, uncaptured := Nat.min 0xFFFF missing, us := Nat.min us 2000,
                      order := s.c.flt.dumpCount }
    let s := onCtl (fun c =>
      let c := onFlt (fun f => { f with dumps := Map.put f.dumps (16 * die + slot) d, dumpCount := f.dumpCount + 1 }) c
      when cut (raise Reg.FLT_EVENTS_DUMP_TRUNCATED) (when wrapped (bump Reg.FLT_DLY_OVERWRITTEN_COUNT 1) c)) s
    (16 * die + slot, s)

/-! ### Suspects (R492) and parts out of service -/

/-- A group becomes suspect: its cells take no more takes (R247). -/
def suspectGroup (g : Nat) (c : Ctl) : Ctl :=
  if c.ad.suspect.contains g then c else raise Reg.FLT_EVENTS_SUSPECT { c with ad := { c.ad with suspect := g :: c.ad.suspect } }

def tilesOut (l : List Nat) (c : Ctl) : Ctl := { c with ad := { c.ad with outTiles := (l ++ c.ad.outTiles).eraseDups } }

/-- The unit in which a cached line stands. -/
def unitOfLine (c : Ctl) (y : CacheLine) : Option Nat :=
  let us := servingUnits c (if y.die < 8 then y.die else 0)
  us[y.line % Nat.max 1 us.length]?

/-- The lines of the cached range whose home is a unit. -/
def linesOfUnit (c : Ctl) (u : Nat) : List Nat :=
  let us := servingUnits c (u / 32)
  ((List.range ((c.memory.cfg.cacheLimit - c.memory.cfg.cacheBase) * 2 ^ 22)).map (fun k => c.memory.cfg.cacheBase * 2 ^ 22 + k)).filter
    (fun l => us[l % Nat.max 1 us.length]? == some u)

/-- C-dies leave service: the cache is written back, as for any change of its units (R269), but for the units of theirs whose tags
cannot be read: every line of the cached range that has its home there is poisoned (R270). -/
def recoverUnits (dies : List Nat) (s : State) : State :=
  let bad := s.c.memory.badTags.filter (fun u => dies.contains (u / 32) && bit s.c.memory.cfg.unitMode u)
  let c := s.c
  let s := setCache (s.c.memory.cache.filter (fun y => !((unitOfLine c y).map (fun u => bad.contains u)).getD false)) s
  let s := flushLines (fun _ => true) true s
  bad.foldl (fun s u => (linesOfUnit c u).foldl (fun s l => setMem (setPoison (lineAddr l)) s) s) s

/-- A C-die is taken out of service (R270, R477): the dirty lines of its units are written back, the units leave the
cache, the profile tells. -/
def dieOut (k : Nat) (s : State) : State :=
  let s := recoverUnits [k] s
  onCtl (fun c =>
    let c := tilesOut ((List.range 24).map (fun i => 24 * k + i)) c
    let c := { c with memory := { c.memory with lostDies := (k :: c.memory.lostDies).eraseDups } }
    noteProfile (raise Reg.MEM_EVENTS_UNIT_RECOVERED (onFlt (fun f => { f with outC := (k :: f.outC).eraseDups }) c))) s

/-- Three resets of a group for hangs or internal errors within 24 hours make it suspect. -/
def noteReset (g : Nat) (c : Ctl) : Ctl :=
  let t := c.time.mono
  let l := t :: (Map.getD [] c.flt.resetTimes g).filter (fun x => decide (t ≤ x + 86400 * 2 ^ 32))
  when (decide (l.length ≥ 3)) (suspectGroup g) (onFlt (fun f => { f with resetTimes := Map.put f.resetTimes g l }) c)

/-- The registers of a tile back at their reset values, its counters zero; samples stay (R506, R510). -/
def clearTileRegs (i : Nat) (c : Ctl) : Ctl :=
  let lo := 32 * (controlBase + 0x10000000 + i * 0x100000)
  { c with regs := c.regs.filter (fun e => e.1 < lo || lo + 32 * 0x8400 ≤ e.1) }

/-- A tile after its reset: scratchpad, accumulators, history and census zero (R234, R255). -/
def resetTile (i : Nat) (s : State) : State :=
  onCtl (fun c => clearTileRegs i (setTile i { Tile.idle with lastSlice := (tileAt c i).lastSlice } c)) (setMem (zeroRange (i * 0x200000) 0x200000) s)

/-- The rows and links of the repair record take effect on a die at its reset (R18, R25, R26, R525). -/
def applyRecord (k : Nat) (c : Ctl) : Ctl :=
  let c := onFlt (fun f =>
    let mine := f.badLinks.filter (fun l => l / 8 == k || (decide (l % 8 < 4) && Nat.xor (l / 8) ([1, 2, 4, 7].getD (l % 8) 0) == k))
    { f with outLinks := (mine ++ f.outLinks).eraseDups, badLinks := f.badLinks.filter (fun l => !mine.contains l) }) c
  match c.sec.repair with
  | none => c
  | some r =>
    let row := fun g => r.content.rows.getD (6 * k + g) g
    let five := decide (row 5 = 7)
    let spare := (List.range 6).any (fun g => row g == 6)
    let c := { c with ad := { c.ad with fiveGroups := if five then (k :: c.ad.fiveGroups).eraseDups else c.ad.fiveGroups.filter (fun x => x != k) },
                      share := { c.share with spareTaken := if spare then (k :: c.share.spareTaken).eraseDups else c.share.spareTaken.filter (fun x => x != k) },
                      sec := { c.sec with repairNow := some r } }
    onFlt (fun f => { f with outLinks := (r.content.links.filter (fun l => l / 8 == k) ++ f.outLinks).eraseDups }) c

/-! ### Domain resets (R475 to R477) -/

/-- A take that has tiles in a domain. -/
def takeIn (c : Ctl) (tiles : List Nat) (t : Take) : Bool :=
  t.leaf && (t.st == .accepted || t.st == .started) && (plainTiles c t.cell).any (fun i => tiles.contains i)

/-- The takes of a domain end in 0x0701 with the cell and its generation after the reset (R476); cuts are of kind 2
(R481, R482). -/
def endDomainTakes (cell : BitVec 32) (tiles : List Nat) (gen : Nat) (c : Ctl) : Ctl :=
  let old := c.ad.cutsDue
  let c := endTakes (fun _ t => takeIn c tiles t) 0x0701 (fun _ => (cell.toNat, gen)) c
  { c with ad := { c.ad with cutsDue := old ++ (c.ad.cutsDue.drop old.length).map (fun x => (x.1, x.2.1, x.2.2.1, x.2.2.2.1, 2)) } }

/-- Returns on their way to a tile: completions of messages, posts of collectives, results of checks (R474). -/
def returnsDue (c : Ctl) (i : Nat) : Nat :=
  (tileAt c i).msgs.length + (tileAt c i).colWait.length + (c.share.checks.filter (fun x => x.tile == i)).length

/-- `e.2` of them carry the generation of tile `e.1` from before its reset: they are dropped and counted. The model drops them as the
reset ends (DESIGN CHOICE, log entry 62). -/
def dropReturns (e : Nat × Nat) (c : Ctl) : Ctl :=
  tileCount e.1 86 e.2 (modCount (64 + 16 * dieOf e.1 + 15) e.2 (bump Reg.FLT_STALE_COUNT e.2 c))

/-- A reset of a tile, group or die domain, from the stop of its takes to its return to service. `dark` lists tiles whose
dump accesses time out, `us` is the time of the dump, `failed` lists tiles that fail their self-test (all of a die: the die
fails). -/
def domainReset (cell : BitVec 32) (reason : Nat) (error : Bool) (dark : List Nat) (us : Nat) (failed : List Nat) (s : State) : State :=
  let tiles := plainTiles s.c cell
  let die := (tiles.headD 0) / 24
  let gen0 := domainGen s.c cell
  let gen1 := (gen0 + 1) % 2 ^ 16
  let stale := tiles.map (fun i => (i, returnsDue s.c i))
  let s := settleAll (onCtl (endDomainTakes cell tiles gen1) s)
  let s := onCtl (fun c => addLog 2 die reason cell.toNat gen1 0xFF 0 c) s
  let (slot, s) := dumpDie die tiles cell.toNat gen0 gen1 dark us s
  let s := onCtl (fun c =>
    let c := onFlt (fun f => { f with log := match f.log with
      | e :: l => (e.take 18 ++ [BitVec.ofNat 8 slot] ++ e.drop 19) :: l
      | [] => [] }) c
    let c := bumpGens cell c
    let c := raise Reg.FLT_EVENTS_DOMAIN_RESET (bump Reg.FLT_COUNT_DOMAIN_COUNT 1 c)
    let groups := (tiles.map groupOf).eraseDups
    let c := forEach groups (fun g c => modCount (640 + 8 * g + 7) 1 (when error (noteReset g) c)) c
    when (decide (cellLevel cell = 2)) (fun c =>
      let c := applyRecord die c
      let c := { c with share := { c.share with checks := c.share.checks.filter (fun x => (x.checker - 192) / 4 != die) } }
      wr (Reg.CLK_DOM_FREQ_MHZ die) 400 c) c) s
  let s := onCtl (forEach stale dropReturns) (tiles.foldl (fun s i => resetTile i s) s)
  if cellLevel cell = 2 ∧ tiles.all (fun i => failed.contains i) then dieOut die s
  else
    let bad := tiles.filter (fun i => failed.contains i)
    onCtl (fun c => noteProfile (forEach ((bad.map groupOf).eraseDups) suspectGroup (tilesOut bad c))) s

/-- A reset whose command brings no time of its dump: a free value (log entry 1); every access of the dump completes. -/
def resetNow (cell : BitVec 32) (reason : Nat) (error : Bool) (failed : List Nat) (s : State) : State :=
  let (w, c) := fresh s.c
  domainReset cell reason error [] (w.toNat % 2001) failed { s with c := c }

/-- A request for a reset is refused with a code of FLT_RESET_STATUS (R469, R498); Off is left only by a cold reset (R599). -/
def resetRefusal (c : Ctl) (kind : Nat) (cell : BitVec 32) : Nat :=
  if kind = 1 ∧ !isDomain c cell then 1
  else if rdb c Reg.FLT_STATUS_RESET_BUSY then 2
  else if rdb c Reg.FLT_STATUS_DEPARTING || (rd c Reg.PWR_STATUS_MODE == 3 && kind != 3) then 3
  else if rdb c Reg.FLT_STATUS_FATAL ∧ (kind ≠ 3 ∨ c.flt.tripLatch ∨ c.flt.leakLatch) then 3
  else 0

/-- A domain reset that management asks for; its self-test passes and its dump completes. -/
def requestDomainReset (cell : BitVec 32) (s : State) : Nat × State :=
  let r := resetRefusal s.c 1 cell
  let s := onCtl (wr Reg.FLT_RESET_STATUS_REFUSAL r) s
  if r ≠ 0 then (r, s) else (0, resetNow cell 0 false [] s)

/-! ### Hangs (R470, R471) -/

/-- A unit of a tile is held by sem.wait, clap, cue.wait or coll.wait (R156). -/
def pendingWait (t : Tile) : Bool :=
  t.clap.isSome || t.queues.any (fun x => match x.2.head? with
    | some q => opOf q == 0x2A || opOf q == 0x33 || (opOf q == 0x28 && fld q.word 48 4 == 1)
    | none => false)

/-- A tile, or the gang it leads, has retired nothing for 2^20 cycles; `since` is the count of cycles. -/
def execTileHang (tile : Fin 192) (since : BitVec 64) (s : State) : Host.Outcome State Fault Refusal :=
  let gang := gangOf s.c tile
  match (tileAt s.c tile).take with
  | none => .next s
  | some k =>
    if since.toNat < 2 ^ 20 || gang.any (fun i => pendingWait (tileAt s.c i)) then .next s
    else
      let busy := gang.filter (fun i => (tileAt s.c i).queues.any (fun x => !x.2.isEmpty))
      let hung := if (tileAt s.c tile).width = 0 then [tile.toNat] else if busy.isEmpty then [(tileAt s.c tile).leader] else busy
      let low := hung.foldl Nat.min (hung.headD tile)
      let s := onCtl (fun c =>
        let c := raise Reg.FLT_EVENTS_HANG (bump Reg.FLT_HANGS_COUNT 1 c)
        endTake k 0x0207 low (tileAt c low).lastPc since.toNat c) s
      .next (drain (hung.foldl (fun s i => resetNow (tileCell i) 0x0207 true [] s) (settleAll s)))

/-! ### The fatal class (R469) -/

/-- DEPART leaves on every port in service, to every peer (R315, R328). -/
def sendDepart (c : Ctl) : Ctl :=
  let (id, c) := nextCount 0xFF c
  forEach (cutTargets c) (fun n c => sendEverywhere 9 (rtPhys c n) (0xFF000000 + id) [] c) c

def driveFault (c : Ctl) : Ctl := wr Reg.MGT_LINES_FAULT_DRIVEN 1 (onFlt (fun f => { f with faultPin := true }) c)

/-- Every take without an outcome ends, with no cut beyond those already sent. -/
def endAll (reason detA detB : Nat) (c : Ctl) : Ctl :=
  let c := endTakes (fun _ t => t.st != .prepared) reason (fun _ => (detA, detB)) c
  { c with ad := { c.ad with cutsDue := [] } }

/-- The module enters the fatal class. -/
def enterFatal (die code : Nat) (s : State) : State :=
  if rdb s.c Reg.FLT_STATUS_FATAL then s
  else
    let s := onCtl (fun c =>
      let c := raise Reg.FLT_EVENTS_FATAL (wr Reg.FLT_STATUS_FATAL 1 (bump Reg.FLT_COUNT_FATAL_COUNT 1 c))
      let c := addLog 4 die code 0x30000000 (moduleGen c) 0xFF 0 c
      let c := when (!c.gaf.railsOff) (fun c => sendDepart (cutOpen 65536 0x0701 4 c)) c
      endAll 0x0701 0x30000000 (moduleGen c) c) s
  onCtl (fun c => noteProfile (driveFault c)) (settleAll s)

/-- FATAL: die code and error code of the cause, for the log. -/
def execFatal (die : Fin 40) (code : BitVec 16) (s : State) : Host.Outcome State Fault Refusal := .next (enterFatal die code.toNat s)

/-! ### Repair (R493) -/

/-- When a repair may begin: once every take of the die that runs, or that waits with a deadline, has its reserved end. -/
def repairStart (c : Ctl) (die : Nat) : Nat :=
  let ends := c.ad.takes.filterMap (fun e =>
    let here := e.2.leaf && (plainTiles c e.2.cell).any (fun i => i / 24 == die)
    if here && (e.2.st == .started || (e.2.st == .accepted && e.2.deadline != noDeadline)) then some e.2.reservedEnd else none)
  slotCeil (maxNat (now c :: ends))

/-- A write of GO: refused, or the die is reserved for 13,108 slots and takes without a deadline wait. -/
def requestRepair (die group : Nat) (c : Ctl) : Ctl :=
  let refusal :=
    if rdb c Reg.FLT_REPAIR_STATUS_BUSY then 3
    else if c.share.spareTaken.contains die || c.flt.outC.contains die then 1
    else if !groupExists c die group || !c.ad.suspect.contains (6 * die + group) then 2 else 0
  let c := wr Reg.FLT_REPAIR_STATUS_REFUSAL refusal c
  if refusal ≠ 0 then c
  else
    let t := repairStart c die
    let r : Reservation := { kind := 1, tiles := (List.range 24).map (fun i => 24 * die + i), from_ := t, until_ := t + 13108 * 2 ^ 14 }
    let c := { c with ad := { c.ad with reservations := r :: c.ad.reservations } }
    replan false (wr Reg.FLT_REPAIR_STATUS_BUSY 1 (onFlt (fun f => { f with repair := some (die, group, t) }) c))

def execRepair (die : Fin 8) (group : Fin 8) (s : State) : Host.Outcome State Fault Refusal := .next (onCtl (requestRepair die group) s)

/-- A new repair record, signed by the module (R493 step 3, R524, R527): the spare row takes the group's number. The
spec gives the payload no layout: its bytes are free. -/
def newRepairRecord (die group : Nat) (c : Ctl) : Ctl :=
  let old := c.sec.repair
  let content : RecContent := match old with
    | some r => r.content
    | none => { ordering := 0, ceiling := 0, orphan := 0, mask := 0, minEpoch := 0, wideTol := 0, railLimits := [],
                rows := (List.range 48).map (fun g => g % 6), links := [] }
  let seq := (match old with
    | some r => leAt r.bytes 16 4
    | none => 0) + 1
  let body := match old with
    | some r => r.bytes.length - 64
    | none => 4628
  let (payload, c) := freshBytes (body - 4627) c
  let (rnd, c) := freshBytes 32 c
  let head := leBytes 4 0x44524B5A ++ [3, 1] ++ leBytes 2 0xFF ++ leBytes 8 (rd64 c Reg.SEC_SERIAL_LO_SERIAL Reg.SEC_SERIAL_HI_SERIAL)
    ++ leBytes 4 seq ++ leBytes 4 0 ++ leBytes 4 (body - 4627) ++ List.replicate 36 0
  let r : Record := { bytes := head ++ payload ++ dsa87Sign repairSeed (head ++ payload) rnd, content := { content with rows := content.rows.set (6 * die + group) 6 } }
  wr Reg.SEC_RECORD_SEQ_REPAIR_SEQ seq (wr Reg.SEC_STATUS_REPAIR_SELF 1 (wr Reg.SEC_STATUS_REPAIR_OK 1 { c with sec := { c.sec with repair := some r } }))

/-- The reservation of a repair begins: record, die reset, inventory and profile. -/
def doRepairExecute (failed : List Nat) (s : State) : Host.Outcome State Fault Refusal :=
  match s.c.flt.repair with
  | none => .next s
  | some (die, group, t) =>
    let s := onCtl (fun c =>
      let c := advanceTo t c
      let c := { c with ad := { c.ad with reservations := c.ad.reservations.filter (fun r => !(r.kind == 1 && r.from_ == t)) } }
      wr Reg.FLT_REPAIR_STATUS_BUSY 0 (onFlt (fun f => { f with repair := none }) c)) s
    if !rdb s.c Reg.SEC_TRNG_HEALTHY then .next (onCtl (wr Reg.FLT_REPAIR_STATUS_REFUSAL 4) s)
    else
      let s := resetNow (dieCell die) 0 false failed (onCtl (newRepairRecord die group) s)
      .next (drain (onCtl (fun c =>
        let c := { c with ad := { c.ad with suspect := c.ad.suspect.filter (fun g => g != 6 * die + group),
                                            outTiles := c.ad.outTiles.filter (fun i => groupOf i != 6 * die + group || failed.contains i) } }
        noteProfile (raise Reg.FLT_EVENTS_REPAIR_DONE (wr Reg.FLT_REPAIR_STATUS_DONE 1 c))) s))

/-! ### Registers with rows of their own (R480, R496), a package link (R18, R21) -/

def releaseDump (c : Ctl) : Ctl :=
  onFlt (fun f => { f with dumps := Map.del f.dumps (16 * rd c Reg.FLT_DLY_SEL_DIE + rd c Reg.FLT_DLY_SEL_SLOT) }) c

def execDailiesRelease (s : State) : Host.Outcome State Fault Refusal := .next (onCtl releaseDump s)

def execProfileAck (seq : BitVec 16) (s : State) : Host.Outcome State Fault Refusal := .next (onCtl (wr Reg.FLT_PROFILE_ACK_SEQ seq.toNat) s)

/-- A link of a C-die fails for good; a link between two C-dies is named by the lower one. It leaves routing, and enters
inventory and profile, at the next reset of a die at either end. -/
def execPackageLinkFail (die : Fin 8) (slot : Fin 8) (s : State) : Host.Outcome State Fault Refusal :=
  .next (onCtl (fun c =>
    let far := Nat.xor die ([1, 2, 4, 7].getD slot 0)
    let l := 8 * (if slot.toNat < 4 then Nat.min die far else die) + slot
    if c.flt.outLinks.contains l then c
    else addLog 2 die 0 (dieCell die).toNat (domainGen c (dieCell die)) 0xFF 0 (onFlt (fun f => { f with badLinks := (l :: f.badLinks).eraseDups }) c)) s)

end Sys2Proof.Machine
end

