-- ==== Sys2Proof/Machine/MgmtCore.lean ====
section
/-! DEFINITION. How the management port takes a request in and answers it (R563 to R569, R575, R576). -/

namespace Sys2Proof.Machine

def onMgt (f : MgtSt → MgtSt) (c : Ctl) : Ctl := { c with mgt := f c.mgt }

/-- The message types R569 lets through in ROM recovery. -/
def recoveryTypes : List Nat := [0x01, 0x02, 0x03, 0x04, 0x10, 0x40, 0x46]

/-- The header of an answer, or of a message the module sends (R566). -/
def mgmtHeader (typ num status len : Nat) (ans : Bool) : List Byte :=
  leBytes 2 0x4D5A ++ [1, BitVec.ofNat 8 typ] ++ leBytes 4 num ++ leBytes 2 status ++ leBytes 2 (b2n ans) ++ leBytes 4 len

def findSession (c : Ctl) (sid : Nat) : Option Session := c.mgt.sessions.find? (fun x => x.sid == sid)

/-- Sessions open, as MGT_STATUS shows them. -/
def showSessions (c : Ctl) : Ctl := wr Reg.MGT_STATUS_SESSIONS (c.mgt.sessions.filter (fun x => x.opened)).length c

def setSession (x : Session) (c : Ctl) : Ctl :=
  onMgt (fun m => { m with sessions := m.sessions.map (fun y => if y.sid = x.sid then x else y) }) c

def dropSession (sid : Nat) (c : Ctl) : Ctl :=
  showSessions (onMgt (fun m => { m with sessions := m.sessions.filter (fun x => x.sid != sid) }) c)

/-- The open session that has been idle longest. -/
def idlest (c : Ctl) : Option Session :=
  (c.mgt.sessions.filter (fun x => x.opened)).foldl (fun b x => match b with
    | none => some x
    | some y => if x.at_ < y.at_ then some x else some y) none

/-- A session opens; a fifth closes the one idle longest (R564). -/
def openSession (x : Session) (c : Ctl) : Ctl :=
  let c := if (c.mgt.sessions.filter (fun y => y.opened)).length ≥ 4 then
      match idlest c with
      | some y => dropSession y.sid c
      | none => c
    else c
  raise Reg.MGT_EVENTS_SESSION_OPENED (showSessions (setSession { x with opened := true } c))

/-- A datagram of a session, as it goes out: session ID, sequence, ciphertext, tag (R563). -/
def sealedMsg (x : Session) (b : List Byte) : List Byte :=
  let seq := leBytes 8 (x.seqOut + 1)
  leBytes 4 x.sid ++ seq ++ gcmSeal (x.keys.drop 32) (List.replicate 4 0xFF ++ seq) (leBytes 4 x.sid) b

/-- Send a message in a session under its next sequence. -/
def sendSealed (x : Session) (b : List Byte) (c : Ctl) : Ctl := emit (.mgmt x.sid (sealedMsg x b)) (setSession { x with seqOut := x.seqOut + 1 } c)

/-- A message that is not protected: 4 zero bytes and its header come first (R563). -/
def sendBare (b : List Byte) (c : Ctl) : Ctl := emit (.mgmt 0 (leBytes 4 0 ++ b)) c

/-- Record an answer and send it (R568, R576). -/
def answerReq (sid typ num status : Nat) (payload : List Byte) (c : Ctl) : Ctl :=
  match findSession c sid with
  | none => c
  | some x =>
    let b := mgmtHeader typ num status payload.length true ++ payload
    let x := { x with answers := ((num, b) :: x.answers).take 64, lastNum := Nat.max x.lastNum num,
                      begun := x.begun.filter (fun n => n != num) }
    bump Reg.MGT_REQUESTS_COUNT 1 (sendSealed x b c)

/-- What a request's action gives: status, payload, state. -/
abbrev Reply := Nat × List Byte × State

def done (s : State) : Reply := (0, [], s)

/-- A verified request in an open session: answered from the store, refused, or acted on and answered once (R568,
R569). -/
def serve (typ : Nat) (r : Req) (act : State → Reply) (x : Session) (s : State) : State :=
  let num := r.num.toNat
  let sec := s.c.time.mono / 2 ^ 32
  let x := { x with highest := r.seq.toNat, at_ := s.c.time.mono, second := sec, inSecond := if x.second = sec then x.inSecond + 1 else 1 }
  let s := onCtl (setSession x) s
  match x.answers.find? (fun a => a.1 == num) with
  | some a => onCtl (sendSealed x a.2) s
  | none =>
    if num ≤ x.lastNum then onCtl (answerReq x.sid typ num 0x0003 []) s
    else if x.inSecond > 2000 then onCtl (answerReq x.sid typ num 0x0004 []) s
    else if rdb s.c Reg.SEC_STATUS_RECOVERY && !recoveryTypes.contains typ then onCtl (answerReq x.sid typ num 0x0003 []) s
    else
      let s := onCtl (setSession { x with begun := num :: x.begun }) s
      let (status, payload, s) := act s
      onCtl (answerReq x.sid typ num status payload) s

/-- A protected datagram arrives (R562 step 5, R563): it verifies, is new, and opens its session if none is open yet. -/
def admitReq (typ : Nat) (r : Req) (act : State → Reply) (s : State) : State :=
  match findSession s.c r.sid.toNat with
  | none => onCtl (bump Reg.MGT_RX_DROP_AUTH_COUNT 1) s
  | some x =>
    if !x.keyed then onCtl (bump Reg.MGT_RX_DROP_AUTH_COUNT 1) s
    else if !r.verified then
      let s := onCtl (bump Reg.MGT_RX_DROP_AUTH_COUNT 1) s
      if x.opened then s else onCtl (fun c => raise Reg.MGT_EVENTS_AUTH_FAIL (dropSession x.sid c)) s
    else if r.seq.toNat ≤ x.highest then onCtl (bump Reg.MGT_RX_DROP_REPLAY_COUNT 1) s
    else
      let s := if x.opened then s else onCtl (openSession x) s
      serve typ r act { x with opened := true } s

/-- The receive buffer of 64 KiB while no unit holds the token (R575). -/
def bufferReq (self : Instr) (len : Nat) (c : Ctl) : Ctl :=
  let used := sumNat (c.mgt.waiting.map (fun e => e.2))
  if used + len ≤ 65536 then onMgt (fun m => { m with waiting := m.waiting ++ [(self, len)] }) c else c

/-- No unit holds the token, or earlier requests still wait. -/
def mustWait (c : Ctl) : Bool := !c.mgt.serving && (rdb c Reg.MGT_STATUS_UNHELD || !c.mgt.waiting.isEmpty)

/-- A protected request of a type, with the length of its payload: a dead unit, or one whose MG-die is held or
off, answers nothing (R440, R534). -/
def mgmtReq (self : Instr) (typ : Nat) (r : Req) (len : Nat) (act : State → Reply) (s : State) : State :=
  if s.c.sec.dead.isSome || s.c.pwr.mg != 0 then s
  else if mustWait s.c then onCtl (bufferReq self (len + 44)) s
  else admitReq typ r act s

/-- A message the module sends in every open session (R572). -/
def sendNotice (typ : Nat) (payload : List Byte) (c : Ctl) : Ctl :=
  forEach (c.mgt.sessions.filter (fun x => x.opened)) (fun x c =>
    sendSealed x (mgmtHeader typ 0 0 payload.length false ++ payload) c) c

/-- A new notice takes the place of an unanswered one of its type. -/
def postNotice (typ : Nat) (payload : List Byte) (c : Ctl) : Ctl :=
  let t := c.time.mono
  sendNotice typ payload (onMgt (fun m => { m with notices := m.notices.filter (fun e => e.1 != typ) ++ [(typ, t, payload)] }) c)

end Sys2Proof.Machine
end

