-- ==== Sys2Proof/Machine/Takes.lean ====
section
/-! DEFINITION. Submission (R80 to R88), acknowledgement and the lease (R104, R114 to R117), reel commands (R82, R124),
composite takes across modules (R118 to R121), the start, the wrap and the watchdogs of a take (R93 to R98, R135). -/

namespace Sys2Proof.Machine

def onAd (f : AdSt → AdSt) (c : Ctl) : Ctl := { c with ad := f c.ad }

/-! ### Slates (R83) -/

/-- The take a slate spells. -/
def slateTake (bs : List Byte) : Take :=
  let flags := leAt bs 44 2
  let check := leAt bs 46 2
  { reel := leAt bs 0 2 % 4096, num := leAt bs 4 8, gen := leAt bs 2 2, outGen := 0, cell := BitVec.ofNat 32 (leAt bs 12 4), handle := leAt bs 16 4,
    entry := leAt bs 20 4, deadline := leAt bs 24 8, budget := leAt bs 32 4, argBase := leAt bs 36 6, argLen := leAt bs 42 2,
    stepGroup := if bit flags 0 then some (leAt bs 56 4) else none, checkK := check % 32, wide := bit check 5,
    seed := BitVec.ofNat 64 (leAt bs 48 8), st := .accepted, origin := 0xFFFF, parent := none, members := [], lead := 0xFFFF,
    planned := none, reservedEnd := 0, startTc := 0, endTc := 0, reason := 0, tile := 0xFFFF, detA := 0, detB := 0, cycles := 0,
    energy := 0, checks := 0, mismatches := 0, belowFloor := false, thermal := none, slots := 0, released := false,
    readable := true, acceptTc := 0, admitFrame := 0, leadGen := 0, wseq := 0, crc := 0, holdFrame := none }

/-- The slate copy that a take's member receives: its cell, COPY set (R83, R118). -/
def slateCopy (t : Take) (cell : BitVec 32) : List Byte :=
  leBytes 2 t.reel ++ leBytes 2 t.gen ++ leBytes 8 t.num ++ leBytes 4 cell.toNat ++ leBytes 4 t.handle ++ leBytes 4 t.entry
    ++ leBytes 8 t.deadline ++ leBytes 4 t.budget ++ leBytes 6 t.argBase ++ leBytes 2 t.argLen
    ++ leBytes 2 (2 + b2n t.stepGroup.isSome) ++ leBytes 2 (t.checkK + 32 * b2n t.wide) ++ leBytes 8 t.seed.toNat
    ++ leBytes 4 (t.stepGroup.getD 0) ++ leBytes 4 0

/-- The argument window lies within the allotment of a slice: the module holds the memory of its own slice alone (R43). -/
def windowOk (c : Ctl) (slice base len : Nat) : Bool :=
  len == 0 || (slice == sliceNow c && inAllotment c base && inAllotment c (base + 64 * len - 1))

/-- Check 5 of R84: the byte offset of the first bad field. -/
def slateBad (c : Ctl) (reel slice : Nat) (copy : Bool) (bs : List Byte) : Option Nat :=
  let flags := leAt bs 44 2
  let check := leAt bs 46 2
  let k := check % 32
  if leAt bs 0 2 ≠ reel then some 0
  else if leAt bs 20 4 % 8 ≠ 0 then some 20
  else if leAt bs 32 4 = 0 then some 32
  else if leAt bs 36 6 % 64 ≠ 0 || !windowOk c slice (leAt bs 36 6) (leAt bs 42 2) then some 36
  else if flags / 4 ≠ 0 || bit flags 1 != copy then some 44
  else if check / 64 ≠ 0 || !(k == 0 || (decide (6 ≤ k) && decide (k ≤ 16))) then some 46
  else if leAt bs 60 4 ≠ 0 then some 60
  else none

/-! ### Admission (R84 check 8) -/

/-- The firmware activation cue, while one is armed. -/
def activationCue (c : Ctl) : Nat := rd64 c Reg.UPD_CUE_LO_TIME Reg.UPD_CUE_HI_TIME

/-- Admission is closed whatever the take: AD_PAUSE, a drain (R597), the fatal class or a departure (R469, R490), a slice
release until the module is assigned again (R291, R292; log entry 61), or before stage 10 and outside Run (R588, R595); 2 for cap unreachable (R425, R426). -/
def closedCause (c : Ctl) : Option Nat :=
  if rdb c Reg.AD_CTRL_PAUSE || rdb c Reg.PWR_STATUS_DRAINING || rdb c Reg.FLT_STATUS_FATAL || rdb c Reg.FLT_STATUS_DEPARTING ||
     rdb c Reg.MEM_STATUS_RELEASE_BUSY || c.memory.released || rd c Reg.PWR_STATUS_STAGE != 10 || rd c Reg.PWR_STATUS_MODE != 0 then some 1
  else if rdb c Reg.AD_STATUS_CAP_UNREACHABLE then some 2 else none

/-- Why a take with a deadline is held off, if it is: Detail A of 0x010C. -/
def pauseCause (c : Ctl) (deadline : Nat) : Option Nat :=
  match closedCause c with
  | some k => some k
  | none => if rdb c Reg.AD_STATUS_ACTIVATION_HOLD && decide (activationCue c < deadline) then some 3 else none

/-- AD_STATUS.ADMITTING. -/
def admitting (c : Ctl) : Bool := (closedCause c).isNone && !rdb c Reg.AD_STATUS_REPLAYING

/-! ### Targets (R28 to R31, R34, R170) -/

/-- The first part of a cell that fails: `some none` the cell itself, `some (some i)` its member i. -/
def firstBad (c : Ctl) (bad : BitVec 32 → Bool) (far : Nat → Bool) : Nat → BitVec 32 → Option (Option Nat)
  | 0, cell => if bad cell then some none else none
  | fuel + 1, cell =>
    if bad cell then some none
    else if compositeForm cell then
      let ms := membersOf c cell
      (((List.range ms.length).zip ms).find? (fun e =>
        if e.2.1 = 0xFFFF then (firstBad c bad far fuel e.2.2).isSome else far e.2.1)).map (fun e => some e.1)
    else none


/-- A member module that no take may reach: its entry is not valid, or fenced (R29, R31). -/
def farOut (c : Ctl) (m : Nat) : Bool := decide (m > 4095) || !rtValid c m || rtFenced c m

/-- The image a handle names, loaded for a slice (R165, R84 check 13). -/
def imageFor (c : Ctl) (handle slice : Nat) : Option Image := (imageOf c handle).bind (fun im => if im.slice = slice then some im else none)

/-- The gang width does not fit the cell's tiles (R170). -/
def gangMisfit (c : Ctl) (w : Nat) (cell : BitVec 32) : Bool :=
  if w = 0 then false
  else
    let ts := plainTiles c cell
    decide (ts.length % w ≠ 0) ||
      (List.range (ts.length / w)).any (fun k => dieOf (ts.getD (w * k) 0) != dieOf (ts.getD (w * k + w - 1) 0))

/-- The refusal reason of check 13, with the member it lies in (R167). -/
def imageBad (c : Ctl) (t : Take) (slice : Nat) : Option (Nat × Option Nat) :=
  match imageFor c t.handle slice with
  | none => some (0x0D, none)
  | some im =>
    match firstBad c (fun x => !compositeForm x && gangMisfit c im.gang x) (fun _ => false) (depth c) t.cell with
    | some m => some (0x0B, m)
    | none => if im.textLen ≤ t.entry then some (0x0C, none) else none

/-- The built-in cells of this module that a cell comes down to (R33). -/
def leafCells (c : Ctl) : Nat → BitVec 32 → List (BitVec 32)
  | 0, cell => if compositeForm cell then [] else [cell]
  | fuel + 1, cell =>
    if compositeForm cell then
      (membersOf c cell).flatMap (fun m => if m.1 = 0xFFFF then leafCells c fuel m.2 else [])
    else [cell]

/-- A new take's items in the plan: each member's copy is planned as a take of its own (R33). -/
def newItems (c : Ctl) (t : Take) : List PlanItem :=
  let cs := leafCells c (depth c) t.cell
  ((List.range cs.length).zip cs).map (fun e => planItem c (2 ^ 32 + e.1) { t with cell := e.2 })

/-- The earliest deadline the plan could meet (R105, 0x0109). -/
def earliestDeadline (c : Ctl) (t : Take) : Nat :=
  let others := ((placed c).map (fun e => e.2.deadline)).filter (fun d => d != noDeadline)
  let endAt := fun d =>
    let p := planOf c false (newItems c { t with deadline := d } ++ (placed c).map (fun e => planItem c e.1 e.2))
    maxNat ((p.1.filter (fun e => 2 ^ 32 ≤ e.1)).map (fun e => e.2.2.1))
  let cands := (0 :: others ++ others.map (fun d => d + 1)).map (fun d => Nat.max d (endAt d))
  (cands.filter (fun d => planFits c (newItems c { t with deadline := d }))).foldl Nat.min noDeadline

/-- The member whose plan fails, for a composite: the first with which the members up to it no longer fit (R34); 0 for
another cell. -/
def planMember (c : Ctl) (t : Take) : Nat :=
  if !compositeForm t.cell then 0
  else
    let ms := membersOf c t.cell
    let upTo := fun i => (ms.take (i + 1)).flatMap (fun m => if m.1 = 0xFFFF then newItems c { t with cell := m.2 } else [])
    ((List.range ms.length).find? (fun i => !planFits c (upTo i))).getD 0

/-- A refusal: code, Detail A, Detail B, member index. -/
abbrev Refuse := Nat × Nat × Nat × Nat

/-- Checks 8 to 17 of R84, but for the limit and the rate, which a copy of another module's take passes too; `prev` is the
deadline of the reel's previous take. -/
def takeChecks (c : Ctl) (t : Take) (slice prev : Nat) (localTime : Bool) : Option Refuse :=
  let code := fun (n : Nat) (m : Option Nat) (a b : Nat) => some (n, m.getD a, b, m.getD 0)
  match pauseCause c t.deadline with
  | some k => some (0x010C, k, if k = 3 then activationCue c else 0, 0)
  | none =>
  if outstanding c ≥ rd c Reg.AD_LIMIT_LIMIT then some (0x0103, 0, rd c Reg.AD_LIMIT_LIMIT, 0)
  else if (c.ad.accepts.filter (fun x => decide ((now c - x) * 1000 < 2 ^ 32))).length ≥ 200 then some (0x0111, 0, 0, 0)
  else
  match firstBad c (fun x => !cellKnown c x) (fun _ => false) (depth c) t.cell with
  | some m => code 0x0105 m 0 t.cell.toNat
  | none =>
  match firstBad c (fun x => !cellAvailable c x slice) (farOut c) (depth c) t.cell with
  | some m => code 0x0106 m 0xFFFFFFFF t.cell.toNat
  | none =>
  if !computeSet c then some (0x0106, 0xFFFFFFFF, t.cell.toNat, 0) else
  match imageBad c t slice with
  | some (r, m) => code 0x010A m r t.handle
  | none =>
  if t.deadline ≠ noDeadline ∧ lockOfState c < 3 ∧ !localTime then some (0x0107, lockOfState c, 0, 0)
  else if t.deadline < prev then some (0x0104, 0, prev, 0)
  else if t.deadline ≠ noDeadline ∧ t.deadline < now c + 2 ^ 15 then some (0x010E, 0, now c, 0)
  else if !planFits c (newItems c t) then some (0x0109, planMember c t, earliestDeadline c t, planMember c t)
  else none
where
  lockOfState (c : Ctl) : Nat := rd c Reg.TC_STATE_LOCK

/-! ### Taking a take up (R87, R106, R33, R118) -/

/-- A journal slot, sought in rotation (R106). -/
def slotKey (c : Ctl) : Option Nat :=
  let k := Map.firstFree (c.ad.takes.filter (fun e => decide (c.ad.rotor ≤ e.1))) c.ad.rotor
  if k < 65536 then some k
  else
    let k := Map.firstFree c.ad.takes 0
    if k < 65536 then some k else none

def Member.new (module : Nat) (cell : BitVec 32) (copy : Option Nat) : Member :=
  { module := module, cell := cell, copy := copy, admitted := false, committed := false, kind := 0, reason := 0, startTc := 0, endTc := 0,
    cycles := 0, energy := 0, checks := 0, mismatches := 0, tile := 0xFFFF, detA := 0, detB := 0 }

/-- A copy of the same take for the same cell is here already, whatever the path it came by (R38). -/
def copyHere (c : Ctl) (t : Take) (cell : BitVec 32) : Bool :=
  let own := fun (o : Nat) => o == 0xFFFF || o == ownLogical c
  c.ad.takes.any (fun e => e.2.reel == t.reel && e.2.num == t.num && e.2.gen == t.gen && e.2.cell == cell &&
    (e.2.origin == t.origin || (own e.2.origin && own t.origin)))

/-- A second copy is counted, and its NG names the module the take began on (R38, R105). -/
def overlap (c : Ctl) : Ctl := modCount (ngCounter 0x0209) 1 (raise Reg.AD_EVENTS_OVERLAP c)

/-- The origin a message names: this module's logical ID for its own takes. -/
def originId (c : Ctl) (t : Take) : Nat := if t.origin = 0xFFFF then ownLogical c else t.origin

/-- Replicate a take to the members of its composite: a copy here for each member of this module, in its turn replicated
(R33). A second copy of the take for a cell does not run: that member ends in NG 0x0209 (R38). -/
def addCopies : Nat → Nat → Ctl → Ctl
  | 0, _, c => c
  | fuel + 1, k, c =>
    match takeAt c k with
    | none => c
    | some t =>
      if !compositeForm t.cell then c
      else
        let ms := membersOf c t.cell
        let r := ((List.range ms.length).zip ms).foldl (fun (a : List Member × Ctl) e =>
          if e.2.1 = 0xFFFF ∧ copyHere a.2 t e.2.2 then
            let c := a.2
            (a.1 ++ [{ Member.new 0xFFFF e.2.2 none with admitted := true, committed := true, kind := 2, reason := 0x0209, endTc := now c, detB := originId c t }],
             overlap { c with ad := { c.ad with replanDue := true } })
          else if e.2.1 = 0xFFFF then
            let key := Map.firstFree (a.2.ad.takes.filter (fun x => 65536 ≤ x.1)) 65536
            let c := setTake key { t with cell := e.2.2, parent := some (k, e.1), members := [] } a.2
            (a.1 ++ [Member.new 0xFFFF e.2.2 (some key)], addCopies fuel key c)
          else (a.1 ++ [Member.new e.2.1 e.2.2 none], a.2)) ([], c)
        setTake k { t with members := r.1 } r.2

/-- A take and everything replicated from it here. -/
def family (c : Ctl) (k : Nat) : List (Nat × Take) := c.ad.takes.filter (fun e => rootOf c e.1 == k)

/-- The remote members a take waits for, its copies' included: key of the copy, index, member. -/
def remoteMembers (c : Ctl) (k : Nat) : List (Nat × Nat × Member) :=
  (family c k).flatMap (fun e => (((List.range e.2.members.length).zip e.2.members).filter (fun m => m.2.module != 0xFFFF)).map (fun m => (e.1, m.1, m.2)))

/-- Change a member of a take. -/
def setMember (k i : Nat) (f : Member → Member) (c : Ctl) : Ctl :=
  match takeAt c k with
  | none => c
  | some t => setTake k { t with members := (t.members.modify i f) } c

/-- The head of a message between modules (log entry 29): the take's origin, reel, number and generation, which identify a
copy (R38), and its cell. -/
def refBytes (t : Take) (cell : BitVec 32) : List Byte :=
  leBytes 2 t.origin ++ leBytes 2 t.reel ++ leBytes 8 t.num ++ leBytes 2 t.gen ++ leBytes 4 cell.toNat

/-- Send a message of a kind to every remote member: 1 prepare, 3 commit, 4 abort. -/
def toMembers (kind k : Nat) (c : Ctl) : Ctl :=
  forEach (remoteMembers c k) (fun e c =>
    match takeAt c e.1 with
    | none => c
    | some t =>
      let m := e.2.2
      let c := when (kind == 1) (modCount 58 1) c
      tellModule kind m.module (refBytes { t with origin := originId c t } m.cell ++ (if kind = 1 then slateCopy t m.cell else [])) c) c

/-- Forget a take and its copies. -/
def dropFamily (k : Nat) (c : Ctl) : Ctl := forEach (family c k) (fun e c => dropTake e.1 c) c

/-- Every take of a family becomes accepted. -/
def acceptFamily (k : Nat) (c : Ctl) : Ctl :=
  let t0 := now c
  forEach (family c k) (fun e c => if e.2.st == .prepared then setTake e.1 { e.2 with st := .accepted, acceptTc := t0 } c else c) c

/-- The books of an acceptance: reel, rate, counts, journal, plan (R84, R87, R92). -/
def bookAccept (k : Nat) (t : Take) (c : Ctl) : Ctl :=
  let r := t.reel
  let c := wr64 (Reg.AD_REEL_NEXT_LO_NEXT r) (Reg.AD_REEL_NEXT_HI_NEXT r) (t.num + 1) c
  let c := setReel r { reelAt c r with prevDeadline := t.deadline } c
  let t0 := now c
  let c := onAd (fun a => { a with accepts := t0 :: a.accepts.filter (fun x => decide ((t0 - x) * 1000 < 2 ^ 32)) }) c
  let c := journalWrite k (modCount 0 1 (bump Reg.AD_ACCEPTS_COUNT 1 c))
  let c := replan false c
  let c := if (reelAt c r).haltNg.isSome then onAd (fun a => { a with replanDue := true }) c else c
  countOutstanding (countReel r c)

/-! ### Answers (R85, R122, R123) -/

/-- One answer item: take number, code, member index. -/
def answerItem (num code member : Nat) : List Byte := leBytes 8 num ++ leBytes 2 code ++ leBytes 1 member ++ List.replicate 5 0

/-- A slate is rejected: only counts change (R86). -/
def noteReject (reel : Nat) (x : Refuse) (c : Ctl) : Ctl :=
  let c := modCount 2 1 (bump Reg.AD_REJECTS_COUNT 1 c)
  let c := modCount (4 + (x.1 - 0x0101)) 1 c
  let c := when (x.1 == 0x0103) (raise Reg.AD_EVENTS_LIMIT_HIT) c
  onAd (fun a => { a with rejected := (x.2.1, x.2.2.1) }) (wr Reg.AD_LAST_REJECT_CODE x.1 (wr Reg.AD_LAST_REJECT_REEL reel c))

/-- The take of a reel with a number. -/
def reelTake (c : Ctl) (r num : Nat) : Option (Nat × Take) := (reelTakes c r).find? (fun e => e.2.num == num)

def nextNum (c : Ctl) (r : Nat) : Nat := rd64 c (Reg.AD_REEL_NEXT_LO_NEXT r) (Reg.AD_REEL_NEXT_HI_NEXT r)
def ackedNum (c : Ctl) (r : Nat) : Nat := rd64 c (Reg.AD_REEL_ACKED_LO_ACKED r) (Reg.AD_REEL_ACKED_HI_ACKED r)

/-- A composite with members elsewhere waits for their answers (R118); any other take is accepted at once. The answer
to a slate that repeats the number of a take still being admitted is that take's own: the repeat gets none (DESIGN CHOICE,
log entry 55). -/
def takeUp (k : Nat) (t : Take) (c : Ctl) : Bool × Ctl :=
  let c := onAd (fun a => { a with rotor := (k + 1) % 65536 }) c
  let t0 := now c
  let c := addCopies (depth c) k (setTake k { t with st := .prepared, acceptTc := t0, admitFrame := frameNow c } c)
  if (remoteMembers c k).isEmpty then (true, acceptFamily k c) else (false, toMembers 1 k c)

/-- What a slate gives: its answer items, the outcomes to send behind them, whether its take waits for members elsewhere. -/
abbrev SlateAnswer := List Byte × List (Nat × Take) × Bool

/-- One slate of a SUBMIT (R84, R85). -/
def takeSlate (r : Nat) (bs : List Byte) (c : Ctl) : SlateAnswer × Ctl :=
  let t := slateTake bs
  let say := fun (items : List Byte) (c : Ctl) => ((items, ([] : List (Nat × Take)), false), c)
  let reject := fun (x : Refuse) => say (answerItem t.num x.1 x.2.2.2) (noteReject r x c)
  let slice := rd c (Reg.AD_REEL_CFG_SLICE r)
  let state := rd c (Reg.AD_REEL_STATE_STATE r)
  if state = 2 then reject (0x0110, 0, 0, 0)
  else if state ≠ 1 ∨ !rdb c (Reg.AD_REEL_STATE_ATTACHED r) then reject (0x0102, 0, 0, 0)
  else if t.num < nextNum c r then
    let c := modCount 61 1 c
    match reelTake c r t.num with
    | some e =>
      if e.2.st == .ended then ((answerItem t.num 0x0002 0, if e.2.released then [e] else [], false), c) else say (answerItem t.num 0x0001 0) c
    | none =>
      let x : Refuse := (0x010F, 0, ackedNum c r, 0)
      say (answerItem t.num x.1 0) (noteReject r x c)
  else if t.num ≠ nextNum c r then reject (0x0101, 0, nextNum c r, 0)
  else if (reelTake c r t.num).isSome then say [] c
  else
    match slateBad c r slice false bs with
    | some off => reject (0x010B, off, 0, 0)
    | none =>
    if t.cell.toNat ≠ rd c (Reg.AD_REEL_TARGET_CELL r) then reject (0x010D, 0, rd c (Reg.AD_REEL_TARGET_CELL r), 0)
    else if t.gen ≠ moduleGen c then reject (0x0108, 0, moduleGen c, 0)
    else
    match takeChecks c t slice (reelAt c r).prevDeadline (rdb c (Reg.AD_REEL_CFG_LOCAL_TIME r)) with
    | some x => reject x
    | none =>
    match slotKey c with
    | none => reject (0x0103, 0, rd c Reg.AD_LIMIT_LIMIT, 0)
    | some k =>
      match takeUp k t c with
      | (true, c) => say (answerItem t.num 0 0) (bookAccept k t c)
      | (false, c) => (([], [], true), countOutstanding c)

/-- Take slates up in order. Those behind a composite take that waits for members elsewhere stand by, so that answers go out
in slate order (R123). -/
def takeSlates (r : Nat) : List (List Byte) → List Byte × List (Nat × Take) × Ctl → List Byte × List (Nat × Take) × Ctl
  | [], a => a
  | bs :: l, (ans, outs, c) =>
    match takeSlate r bs c with
    | ((items, o, true), c) => (ans ++ items, outs ++ o, setReel r { reelAt c r with slates := (reelAt c r).slates ++ l } c)
    | ((items, o, false), c) => takeSlates r l (ans ++ items, outs ++ o, c)

/-- Answer slates in one ANSWER, then send the outcomes that repeats asked for (R85, R123). -/
def answerSlates (r : Nat) (l : List (List Byte)) (first : List Byte) (c : Ctl) : Ctl :=
  let (ans, outs, c) := takeSlates r l (first, [], c)
  let c := if ans.isEmpty then c else sendReel r 2 (ans.length / 16) ans c
  forEach outs (fun e c => sendReel r 3 1 (outcomeBytes e.2) c) c

/-- A composite take of a reel of this module is admitted or rejected at last: its answer, then the slates behind it. -/
def answerLate (r : Nat) (item : List Byte) (c : Ctl) : Ctl :=
  answerSlates r (reelAt c r).slates item (setReel r { reelAt c r with slates := [] } c)

/-! ### Datagrams of the reel transport (R81, R113, R122) -/

/-- The submitter a reel's record names. -/
def submitterOf (c : Ctl) (r : Nat) : Nat × Bool × Nat :=
  let v4 := rdb c (Reg.AD_REEL_CFG_IPV4 r)
  (if v4 then rd c (Reg.AD_REEL_ADDR_0 r) else reelAddr c r, v4, rd c (Reg.AD_REEL_PORT_PORT r))

def dropReel (c : Ctl) : Ctl := modCount 60 1 (bump Reg.AD_DROPS_COUNT 1 c)

/-- A datagram of the transport: dropped and counted where its header, its type, its reel or its source is wrong. Nothing is
taken in while the journal replays (R110). -/
def reelDatagram (typ : Nat) (p : Peer) (bs : List Byte) (act : Nat → List Byte → Ctl → Ctl) (s : State) : State :=
  let r := leAt bs 4 2
  onCtl (fun c =>
    if rdb c Reg.AD_STATUS_REPLAYING then c
    else
      let c := modCount 360 1 c
      let on := if p.ipv4 then rdb c Reg.AD_TRANSPORT_IPV4_EN else rdb c Reg.AD_TRANSPORT_IPV6_EN
      let good := decide (bs.length ≥ 16) && leAt bs 0 2 == 0x5A4E && leAt bs 2 1 == 1 && leAt bs 3 1 == typ && decide (r < 4096) && on &&
        submitterOf c r == (p.addr.toNat, p.ipv4, p.port.toNat)
      -- a reply of an older generation is dropped; a SUBMIT is judged slate by slate, an ATTACH learns the generation
      let stale := (typ == 4 || typ == 6) && genOlder (leAt bs 12 2) (moduleGen c)
      if !good || stale then dropReel c
      else act r (bs.drop 16) (setReel r { reelAt c r with seqIn := leAt bs 8 4 } c)) s

/-- SUBMIT: 1 to 16 slates, answered in slate order. -/
def submitGo (peer : Peer) (bytes : List Byte) (s : State) : State :=
  let n := leAt bytes 6 2
  settleAll (reelDatagram 1 peer bytes (fun r items c =>
    if n = 0 ∨ n > 16 ∨ items.length < 64 * n then dropReel c
    else answerSlates r ((List.range n).map (fun k => sub items (64 * k) 64)) [] c) s)

def execSubmit (peer : Peer) (bytes : List Byte) (s : State) : Host.Outcome State Fault Refusal := .next (onDatagram peer bytes.length (submitGo peer bytes) s)

/-! ### ACK (R104, R107) -/

/-- Release a reel's takes up to a number, or refuse. -/
def ackReel (r n : Nat) (c : Ctl) : Ctl :=
  let open_ := (reelTakes c r).any (fun e => decide (e.2.num ≤ n) && e.2.st != .ended)
  if open_ || decide (nextNum c r ≤ n) then bump Reg.AD_DROPS_COUNT 1 c
  else if n ≤ ackedNum c r then c
  else
    let c := onAd (fun a => { a with takes := a.takes.filter (fun e => !(e.2.origin == 0xFFFF && e.2.reel == r && decide (e.2.num ≤ n))) }) c
    let c := wr64 (Reg.AD_REEL_ACKED_LO_ACKED r) (Reg.AD_REEL_ACKED_HI_ACKED r) n c
    freeReel r (countOutstanding (countReel r c))

def ackGo (peer : Peer) (bytes : List Byte) (s : State) : State :=
  reelDatagram 4 peer bytes (fun r items c =>
    if items.length < 8 then dropReel c else ackReel r (leAt items 0 8) (modCount 55 1 c)) s

def execAck (peer : Peer) (bytes : List Byte) (s : State) : Host.Outcome State Fault Refusal := .next (onDatagram peer bytes.length (ackGo peer bytes) s)

/-! ### Heartbeats and the lease (R114 to R117) -/

/-- The 40 bytes of a heartbeat. -/
def heartbeatBytes (c : Ctl) (r : Nat) : List Byte :=
  leBytes 2 (moduleGen c) ++ List.replicate 6 0 ++ leBytes 8 (frameNow c) ++ leBytes 8 (nextNum c r - 1) ++ leBytes 8 (reelAt c r).highest
    ++ leBytes 8 (ackedNum c r)

def sendHeartbeat (r : Nat) (c : Ctl) : Ctl := modCount 56 1 (sendReel r 5 1 (heartbeatBytes c r) c)

/-- In its slot of the frame a reel that is open and attached has its heartbeat; in Deep sleep and Off none is sent (R597). -/
def doHeartbeat (reel : Fin 4096) (s : State) : Host.Outcome State Fault Refusal :=
  .next (onCtl (fun c =>
    let c := advanceTo (frameNow c * 2 ^ 22 + reel.toNat % 256 * 2 ^ 14) c
    if rd c (Reg.AD_REEL_STATE_STATE reel) = 1 ∧ rdb c (Reg.AD_REEL_STATE_ATTACHED reel) ∧ rd c Reg.PWR_STATUS_MODE < 2 ∧
       !rdb c Reg.AD_STATUS_REPLAYING then sendHeartbeat reel c else c) s)

/-- Send every outcome that is released and not acknowledged. -/
def resendReel (r : Nat) (c : Ctl) : Ctl :=
  forEach ((reelTakes c r).filter (fun e => e.2.st == .ended && e.2.released)) (fun e c => sendReel r 3 1 (outcomeBytes e.2) c) c

/-- The submitter attaches: a lapsed reel is open again; a heartbeat, then the held outcomes (R82, R122). -/
def attachReel (r : Nat) (c : Ctl) : Ctl :=
  if rd c (Reg.AD_REEL_STATE_STATE r) = 0 then c
  else
    let c := if rd c (Reg.AD_REEL_STATE_STATE r) = 2 then wr (Reg.AD_REEL_STATE_STATE r) 1 c else c
    let c := wr (Reg.AD_REEL_STATE_ATTACHED r) 1 (setReel r { reelAt c r with lastEcho := frameNow c } c)
    resendReel r (sendHeartbeat r c)

def attachGo (peer : Peer) (bytes : List Byte) (s : State) : State :=
  reelDatagram 7 peer bytes (fun r _ c => attachReel r c) s

def execAttach (peer : Peer) (bytes : List Byte) (s : State) : Host.Outcome State Fault Refusal := .next (onDatagram peer bytes.length (attachGo peer bytes) s)

/-- The attached reels of the submitter of a reel: open ones, and closing ones, whose accepted takes still run (R115). -/
def leaseReels (c : Ctl) (r : Nat) : List Nat :=
  (List.range 4096).filter (fun q => (rd c (Reg.AD_REEL_STATE_STATE q) == 1 || rd c (Reg.AD_REEL_STATE_STATE q) == 3) &&
    rdb c (Reg.AD_REEL_STATE_ATTACHED q) && submitterOf c q == submitterOf c r)

/-- An echo renews the lease of every reel of its submitter. -/
def echoReel (r : Nat) (c : Ctl) : Ctl :=
  let f := frameNow c
  forEach (leaseReels c r) (fun q c => setReel q { reelAt c q with lastEcho := f } c) (modCount 57 1 c)

def echoGo (peer : Peer) (bytes : List Byte) (s : State) : State :=
  reelDatagram 6 peer bytes (fun r items c => if items.length < 8 then dropReel c else echoReel r c) s

def execEcho (peer : Peer) (bytes : List Byte) (s : State) : Host.Outcome State Fault Refusal := .next (onDatagram peer bytes.length (echoGo peer bytes) s)

/-- Reels lapse: their open takes end in 0x0702, and the open ones are lapsed; a closing reel stays one (R82, R115). -/
def lapseReels (rs : List Nat) (c : Ctl) : Ctl :=
  let c := endTakes (fun _ t => t.origin == 0xFFFF && rs.contains t.reel && t.st != .prepared) 0x0702
    (fun t => (0, (reelAt c t.reel).lastEcho)) c
  let c := forEach rs (fun r c =>
    let c := wr (Reg.AD_REEL_STATE_ATTACHED r) 0 c
    if rd c (Reg.AD_REEL_STATE_STATE r) = 3 then c else wr (Reg.AD_REEL_STATE_STATE r) 2 c) c
  modCount 50 1 (raise Reg.AD_EVENTS_LEASE_LAPSE c)

/-- Eight frames have passed without an echo. -/
def doLeaseExpiry (who : Holder) (s : State) : Host.Outcome State Fault Refusal :=
  match who with
  | .reel r =>
    let rs := leaseReels s.c r
    -- heartbeats go to open reels alone: a submitter left with closing ones has nothing to echo
    if rs.all (fun q => rd s.c (Reg.AD_REEL_STATE_STATE q) == 3) then .next s
    else .next (drain (settleAll (onCtl (fun c =>
      lapseReels rs (advanceTo ((maxNat (rs.map (fun q => (reelAt c q).lastEcho)) + 8) * 2 ^ 22) c)) s)))
  | .lead m =>
    .next (drain (settleAll (onCtl (endTakes (fun _ t => t.origin != 0xFFFF && t.lead == m.toNat && t.st != .prepared) 0x0702
      (fun _ => (0, frameNow s.c - 8))) s)))

/-- Once per frame every outcome that waits for its ACK goes out again (R104). -/
def execOutcomeResend (s : State) : Host.Outcome State Fault Refusal :=
  .next (onCtl (fun c =>
    forEach (c.ad.takes.filter (fun e => e.2.st == .ended && e.2.released && e.2.origin == 0xFFFF && e.2.parent.isNone)) (fun e c =>
      if reelLive c e.2.reel then modCount 54 1 (sendReel e.2.reel 3 1 (outcomeBytes e.2) c) else c) c) s)

/-! ### Reel commands (R81, R82, R124) -/

/-- Open the selected reel: refused unless it is free, or for slice 0 (R43, R81). Its energy account starts (R429). -/
def openReel (r : Nat) (c : Ctl) : Ctl :=
  if rd c (Reg.AD_REEL_STATE_STATE r) ≠ 0 ∨ rd c (Reg.AD_REEL_CFG_SLICE r) = 0 then c
  else
    let c := wr64 (Reg.GAF_E_REEL_LO_ENERGY r) (Reg.GAF_E_REEL_HI_ENERGY r) 0 c
    wr (Reg.AD_REEL_STATE_STATE r) 1 (setReel r { Reel.reset with lastEcho := frameNow c } c)

/-- Close it: new takes are rejected, accepted takes run on. -/
def closeReel (r : Nat) (c : Ctl) : Ctl :=
  if rd c (Reg.AD_REEL_STATE_STATE r) = 1 ∨ rd c (Reg.AD_REEL_STATE_STATE r) = 2 then freeReel r (wr (Reg.AD_REEL_STATE_STATE r) 3 c) else c

/-- Close it and end its open takes in 0x0704. -/
def forceReel (r : Nat) (c : Ctl) : Ctl :=
  if rd c (Reg.AD_REEL_STATE_STATE r) = 1 ∨ rd c (Reg.AD_REEL_STATE_STATE r) = 2 then
    closeReel r (endTakes (fun _ t => t.origin == 0xFFFF && t.reel == r && t.st != .prepared) 0x0704 (fun _ => (0, 0)) c)
  else c

/-- A write of AD_REEL_CMD; other values are ignored. -/
def reelCmd (v : Nat) (s : State) : State :=
  let r := rd s.c Reg.AD_REEL_SEL_REEL
  match v with
  | 1 => onCtl (openReel r) s
  | 2 => onCtl (closeReel r) s
  | 3 => drain (settleAll (onCtl (forceReel r) s))
  | _ => s

def execReelOpen (s : State) : Host.Outcome State Fault Refusal := .next (reelCmd 1 s)

def execReelClose (s : State) : Host.Outcome State Fault Refusal := .next (reelCmd 2 s)

def execReelForceClose (s : State) : Host.Outcome State Fault Refusal := .next (reelCmd 3 s)

/-! ### The start of a take (R92, R135, R136, R235) -/

/-- Generator `u` of the tile at a position (R235). -/
def seedGen (seed : DWord) (pos u : Nat) : DWord :=
  let x := seed ^^^ BitVec.ofNat 64 ((4 * pos + u + 1) * 0x6B439E1DA52F3C87)
  if x = 0 then 1 else x

/-- The state a tile holds at the start cue. -/
def startTile (c : Ctl) (k : Nat) (t : Take) (gang start : Nat) (ts : List Nat) (i : Nat) : Tile :=
  let old := tileAt c i
  let pos := (findFrom (fun j => j == i) ts 0).getD 0
  let lead := if gang = 0 then 0 else ts.getD (pos / gang * gang) 0
  let mine := c.share.notices.filter (fun n => n.tile == i && n.slice == sliceNow c && t.stepGroup == some n.step)
  let q := (List.range 8).foldl (fun m n => Map.setD 0 m (16 + n) (mine.filter (fun x => x.sem == n)).length) []
  let s := [(1, t.argBase), (2, 64 * t.argLen), (3, i), (4, pos), (5, t.num), (6, start), (7, t.deadline)]
  { old with
    take := some k, leader := lead, width := gang, pos := pos, pc := t.entry, lastPc := t.entry, ended := false, crew := false,
    s := s.foldl (fun m e => Map.setD 0 m e.1 (BitVec.ofNat 64 e.2)) [], p := [], v := [], d := [], q := q, queues := [],
    clap := none, arrived := false, msgs := [], colWait := [], cueHeld := [], active := Weights.empty, shadow := Weights.empty,
    gens := (List.range 4).map (fun u => (u, seedGen t.seed pos u)), icache := some t.handle, lastSlice := sliceNow c }

/-- The assured clock at the cap that binds now; 6 MHz in the minimum state (R407). -/
def clockNow (c : Ctl) : Nat := if c.gaf.minimum then 6 else assuredClock (capNow c)

/-- A C-die whose heat holds it back now, and its hottest valid sensor: a ceiling below the assured clock, or the issue
limit of 16/64 (R97 item 2). -/
def heldDie (c : Ctl) (tiles : List Nat) : Option (Nat × Nat) :=
  ((tiles.map dieOf).eraseDups.find? (fun d =>
    decide (rd c (Reg.CLK_TH_CEIL_MHZ d) < clockNow c) || rdb c (Reg.CLK_TH_STATE_ISSUE_LIMIT d))).map (fun d => (d, rd c (Reg.CLK_TH_STATE_TMAX d)))

def capLow (c : Ctl) : Bool := decide (capNow c < rd c Reg.GAF_LIMITS_FLOOR)

/-- Note for every take that runs whether the cap is below the floor and whether heat holds a die of it (R97). -/
def noteLimits (c : Ctl) : Ctl :=
  forEach c.ad.takes (fun e c =>
    if e.2.leaf && e.2.st == .started then
      setTake e.1 { e.2 with belowFloor := e.2.belowFloor || capLow c, thermal := match e.2.thermal with
        | some x => some x
        | none => heldDie c (plainTiles c e.2.cell) } c
    else c) c

/-- A composite take has started once a copy of it here has: its slot is written (R106). -/
def startParents : Nat → Nat → Ctl → Ctl
  | 0, _, c => c
  | fuel + 1, k, c =>
    match (takeAt c k).bind (fun t => t.parent) with
    | none => c
    | some p =>
      match takeAt c p.1 with
      | none => c
      | some t => if t.st == .accepted then startParents fuel p.1 (journalWrite p.1 (setTake p.1 { t with st := .started } c)) else c

/-- A tile of the take is busy or held in reset, or a take before it on its reel has not ended. -/
def startBlocked (c : Ctl) (t : Take) : Bool :=
  (plainTiles c t.cell).any (fun i => (tileAt c i).take.isSome || (tileAt c i).inReset) ||
    c.ad.takes.any (fun e => e.2.leaf && e.2.st != .ended && e.2.reelKey == t.reelKey && decide (e.2.num < t.num))

/-- The start cue of a take that can start, if it has one. -/
def startCue (c : Ctl) (t : Take) : Option Nat := if t.st != .accepted || !t.leaf || startBlocked c t then none else t.planned

/-- The first instruction issues on every tile of the target. A tile that changes slice is cleared first; the notifications
held for the tiles are handed over. A take whose tiles or reel are still busy does not start yet. -/
def startTake (k : Nat) (s : State) : State :=
  match takeAt s.c k with
  | none => s
  | some t =>
    match startCue s.c t with
    | none => s
    | some p =>
      let ts := plainTiles s.c t.cell
      let s := onCtl (advanceTo p) s
      let gang := ((imageOf s.c t.handle).map (fun im => im.gang)).getD 0
      let s := ts.foldl (fun s i => if (tileAt s.c i).lastSlice = sliceNow s.c then s else clearTileMemory i s) s
      onCtl (fun c =>
        let c1 := ts.foldl (fun c i => setTile i (startTile c k t gang p ts i) c) c
        let c := { c1 with share := { c1.share with
          shared := c1.share.shared.filter (fun e => !(ts.contains (e.1 / 256) || (ts.map (fun i => i / 4 * 4)).contains (e.1 / 256))),
          notices := c1.share.notices.filter (fun n => !(ts.contains n.tile && n.slice == sliceNow c1 && t.stepGroup == some n.step)) } }
        let c := setTake k { t with st := .started, startTc := p, belowFloor := capLow c, thermal := heldDie c ts } c
        let c := startParents c.ad.takes.length k (journalWrite k c)
        let c := modCount 63 1 (forEach ts (fun i c => tileCount i 62 1 c) c)
        forEach ((ts.map groupOf).eraseDups) (fun g c => modCount (640 + 8 * g + 4) 1 c) c) s

/-! ### Its end (R95 to R98) -/

/-- Every tile has ended, every queue is empty, every message has landed, and no check is pending (R96, R147, R244). -/
def wrapReady (c : Ctl) (k : Nat) (t : Take) : Bool :=
  (plainTiles c t.cell).all (fun i =>
    let u := tileAt c i
    u.ended && u.queues.all (fun x => x.2.isEmpty) && u.msgs.isEmpty) && c.share.checks.all (fun x => x.take != k)

/-- The reason of a take that passed its deadline, with its details (R97, R105). -/
def lateReason (c : Ctl) (t : Take) : Nat × Nat × Nat :=
  if t.belowFloor || (t.st == .started && capLow c) then (0x0601, capNow c, clockNow c)
  else match (if t.st == .started then (match t.thermal with | some x => some x | none => heldDie c (plainTiles c t.cell)) else none) with
    | some x => (0x0602, x.1, x.2)
    | none => (0x0204, 0, t.deadline)

/-- End a take at its deadline. -/
def missDeadline (k : Nat) (t : Take) (c : Ctl) : Ctl :=
  let (r, a, b) := lateReason c t
  endTake k r 0xFFFF a b (raise Reg.AD_EVENTS_DEADLINE_NG c)

/-- Take over the watchdog's count of cycles. -/
def setCycles (k n : Nat) (c : Ctl) : Ctl :=
  match takeAt c k with
  | some t => setTake k { t with cycles := n } c
  | none => c

/-- The watchdog's count is over the budget: cycles × 4,194,304 > Budget × 1,500,000,000 (R95). -/
def overBudget (t : Take) (cycles : Nat) : Bool := decide (t.budget * 1500000000 < cycles * 4194304)

/-- The budget watchdog cuts a take: the NG names the lowest tile and the instruction it last issued (R95, R105). -/
def cutBudget (k : Nat) (t : Take) (cycles : Nat) (c : Ctl) : Ctl :=
  let low := (plainTiles c t.cell).headD 0
  endTake k 0x0201 low (tileAt c low).lastPc cycles c

/-- The take wraps, at or before its deadline; after it, it is cut. `cycles` is the watchdog's count (R95): one over the
budget comes before the deadline (R98). -/
def execWrap (key : BitVec 32) (cycles : BitVec 64) (s : State) : Host.Outcome State Fault Refusal :=
  let k := key.toNat
  match takeAt s.c k with
  | none => .next s
  | some t =>
    if t.st != .started || !t.leaf || !wrapReady s.c k t then .next s
    else
      .next (drain (settleAll (onCtl (fun c =>
        let c := setCycles k cycles.toNat c
        if overBudget t cycles.toNat then cutBudget k t cycles.toNat c
        else if t.deadline ≠ noDeadline ∧ t.deadline < now c then missDeadline k t c else endTake k 0 0xFFFF 0 0 c) s)))

/-- The watchdog's count passes the budget. -/
def execBudgetOverrun (key : BitVec 32) (cycles : BitVec 64) (s : State) : Host.Outcome State Fault Refusal :=
  let k := key.toNat
  match takeAt s.c k with
  | none => .next s
  | some t =>
    if t.st != .started || !t.leaf || !overBudget t cycles.toNat then .next s
    else .next (drain (settleAll (onCtl (fun c => cutBudget k t cycles.toNat (setCycles k cycles.toNat c)) s)))

/-- The timecode passes the deadline of a take that has not wrapped. -/
def doDeadlineMissed (key : BitVec 32) (s : State) : Host.Outcome State Fault Refusal :=
  let k := key.toNat
  match takeAt s.c k with
  | none => .next s
  | some t =>
    if t.deadline = noDeadline || !t.leaf || !(t.st == .started || t.st == .accepted) then .next s
    else .next (drain (settleAll (onCtl (fun c => missDeadline k t (advanceTo (t.deadline + 1) c)) s)))

/-! ### Planning anew (R93) -/

/-- The lowest cap a plan may count on: the floor, or what holds the cap below it. -/
def planCap (c : Ctl) : Nat :=
  let q := Nat.min (rd c Reg.GAF_LIMITS_FLOOR) (rd c Reg.GAF_LEVEL2_Q)
  if rdb c Reg.MGT_CAP_LEASE_LAPSED then Nat.min q (rd c Reg.GAF_CFG_ORPHAN) else q

/-- The clock the AD plans with; the minimum state runs at 6 MHz (R407, R425). -/
def setFloorClock (c : Ctl) : Ctl :=
  wr Reg.AD_FLOOR_CLOCK_F (if c.gaf.minimum || rdb c Reg.AD_STATUS_CAP_UNREACHABLE then 6 else assuredClock (planCap c)) c

/-- Plan at the assured clock that applies; a take that has not started and cannot meet its deadline ends. -/
def replanCap (c : Ctl) : Ctl :=
  let c := setFloorClock c
  let lost := ((planNow c true).1.filter (fun e => !e.2.2.2)).map (fun e => e.1)
  let c := endTakes (fun k _ => lost.contains k) 0x0601 (fun _ => (capNow c, clockNow c)) c
  replan false (when (!lost.isEmpty) (fun c => modCount 51 1 (raise Reg.AD_EVENTS_REPLAN_NG c)) c)

def execReplan (s : State) : Host.Outcome State Fault Refusal := .next (drain (settleAll (onCtl replanCap s)))

/-! ### Composite takes across modules (R35, R38, R118 to R121) -/

/-- The take or copy a message is about (R38): on the lead and on a member it stands under its origin, 0xFFFF for this
module. A composite within a composite of this module is named by its own cell. -/
def findRef (c : Ctl) (x : TakeRef) : Option (Nat × Take) :=
  let own := decide (x.origin.toNat = 0xFFFF ∨ x.origin.toNat = ownLogical c)
  c.ad.takes.find? (fun e => e.2.reel == x.reel.toNat && e.2.num == x.num.toNat && e.2.gen == x.gen.toNat && e.2.cell == x.cell &&
    e.2.origin == (if own then 0xFFFF else x.origin.toNat))

/-- A control message from another module: what its packet must pass (R44, R310), then its generation, which is dropped and
counted where it is older than the newest that module has shown (R113). -/
def fromModule (m gen : Nat) (run : Ctl → Ctl) (c : Ctl) : Ctl :=
  if m ≥ 4096 ∨ !rtValid c m then bump Reg.FAB_DROP_SLICE_COUNT 1 c
  else
    match accepts (rtPhys c m) (sliceNow c) c with
    | (false, c) => c
    | (true, c) =>
      if genOlder gen (Map.getD gen c.ad.peers m) then bump Reg.AD_DROPS_COUNT 1 c
      else run (onAd (fun a => { a with peers := Map.put a.peers m gen }) c)

/-- Answer a prepare: the code is 0 to admit. -/
def answerLead (lead : Nat) (t : Take) (code : Nat) (c : Ctl) : Ctl := tellModule 2 lead (refBytes t t.cell ++ leBytes 2 code) c

/-- A prepare from a lead module: the copy is checked, planned, journaled and answered (R118 step 3). A second copy for the
same cell is answered with NG 0x0209 (R38). -/
def prepareCopy (lead gen : BitVec 16) (origin : BitVec 16) (slate : List Byte) (c : Ctl) : Ctl :=
    let t := { slateTake slate with origin := origin.toNat, lead := lead.toNat, leadGen := gen.toNat }
    let c := modCount 59 1 c
    if genOlder t.gen (Map.getD t.gen c.ad.peers origin.toNat) then bump Reg.AD_DROPS_COUNT 1 c
    else if copyHere c t t.cell then
      let o := { t with st := .ended, reason := 0x0209, detB := t.origin, endTc := now c, outGen := moduleGen c }
      tellModule 6 lead.toNat (outcomeBytes o) (overlap c)
    else
      match slateBad c t.reel (sliceNow c) true slate with
      | some off => answerLead lead.toNat t 0x010B (noteReject t.reel (0x010B, off, 0, 0) c)
      | none =>
        match takeChecks c t (sliceNow c) 0 false with
        | some x => answerLead lead.toNat t x.1 (noteReject t.reel x c)
        | none =>
          match slotKey c with
          | none => answerLead lead.toNat t 0x0103 (noteReject t.reel (0x0103, 0, rd c Reg.AD_LIMIT_LIMIT, 0) c)
          | some k =>
            let c := onAd (fun a => { a with rotor := (k + 1) % 65536 }) c
            let c := addCopies (depth c) k (setTake k { t with st := .prepared, admitFrame := frameNow c } c)
            let c := countOutstanding (journalWrite k c)
            if (remoteMembers c k).isEmpty then answerLead lead.toNat t 0 c else toMembers 1 k c

def execPrepare (lead : Sender) (origin : BitVec 16) (slate : List Byte) (s : State) : Host.Outcome State Fault Refusal :=
  .next (settleAll (onCtl (fromModule lead.module.toNat lead.gen.toNat (prepareCopy lead.module lead.gen origin slate)) s))

/-- Every remote member has admitted: the lead accepts and commits, or answers the lead above it. -/
def allAdmitted (k : Nat) (c : Ctl) : Ctl :=
  match takeAt c k with
  | none => c
  | some t =>
    if t.origin = 0xFFFF then
      let c := bookAccept k t (acceptFamily k c)
      answerLate t.reel (answerItem t.num 0 0) (toMembers 3 k c)
    else answerLead t.lead t 0 c

/-- Detail B of a member's refusal, as far as the lead knows it (R105); 0 where only the member does (log entry 55). -/
def refusalDetail (t : Take) (code : Nat) : Nat :=
  if code = 0x0105 ∨ code = 0x0106 then t.cell.toNat else if code = 0x010A then t.handle else 0

/-- A take that is prepared is given up: every member is told to abort, nothing of it is kept, and the reject goes up with its
details. -/
def refusePrepared (k code a b member : Nat) (c : Ctl) : Ctl :=
  match takeAt c k with
  | none => c
  | some t =>
    let c := dropFamily k (toMembers 4 k c)
    let c := countOutstanding (noteReject t.reel (code, a, b, member) c)
    if t.origin = 0xFFFF then freeReel t.reel (answerLate t.reel (answerItem t.num code member) c) else answerLead t.lead t code c

/-- A member refuses, or is silent (R34). -/
def memberRefuses (k idx code : Nat) (c : Ctl) : Ctl :=
  match takeAt c k with
  | none => c
  | some t => refusePrepared k code idx (refusalDetail t code) idx c

/-- Admission stops for what is prepared and not accepted: each is rejected with 0x010C, whose Detail A is the cause (R105, R291). -/
def refuseAllPrepared (cause : Nat) (c : Ctl) : Ctl :=
  forEach (c.ad.takes.filter (fun e => e.2.st == .prepared && e.2.parent.isNone)) (fun e c => refusePrepared e.1 0x010C cause 0 0 c) c

/-- The member index that the composite `k` gives the take `key`, a copy made from it however deep; `idx` for `k`
itself. -/
def topIndex (c : Ctl) (k : Nat) : Nat → Nat → Nat → Nat
  | 0, _, idx => idx
  | fuel + 1, key, idx =>
    if key = k then idx
    else match (takeAt c key).bind (fun t => t.parent) with
      | some p => topIndex c k fuel p.1 p.2
      | none => idx

/-- The member a message is about: in the take or copy it names, by index and module. One of a composite within that composite
may also be named by the outer take and the outer index: then it is the first of that module for which `fresh` holds. -/
def memberAt (c : Ctl) (k member module : Nat) (fresh : Member → Bool) : Option (Nat × Nat × Member) :=
  let l := (remoteMembers c k).filter (fun e => e.2.2.module == module)
  match ((takeAt c k).bind (fun t => t.members[member]?)) with
  | none => none
  | some m =>
    if m.module ≠ 0xFFFF then (if m.module = module then some (k, member, m) else none)
    else
      let l := l.filter (fun e => topIndex c k c.ad.takes.length e.1 e.2.1 == member)
      match l.find? (fun e => fresh e.2.2) with
      | some e => some e
      | none => l.head?

/-- The take at the top of a copy's family, which is accepted or rejected as a whole. -/
def topOf (c : Ctl) (k : Nat) : Option (Nat × Take) := (takeAt c (rootOf c k)).map (fun t => (rootOf c k, t))

/-- A member's answer: 0 admits. Once the take is accepted, an admit acknowledges the commit. -/
def memberAnswer (x : TakeRef) (member : Nat) (module : Nat) (code : Nat) (c : Ctl) : Ctl :=
  match findRef c x with
  | none => c
  | some (k0, _) =>
    match memberAt c k0 member module (fun m => !m.admitted), topOf c k0 with
    | some (key, i, m), some (k, t) =>
      if t.st != .prepared then (if code = 0 then setMember key i (fun m => { m with committed := true }) c else c)
      else if m.admitted then c
      else if code ≠ 0 then memberRefuses k (topIndex c k c.ad.takes.length key i) code c
      else
        let c := setMember key i (fun m => { m with admitted := true }) c
        if (remoteMembers c k).all (fun e => e.2.2.admitted) then allAdmitted k c else c
    | _, _ => c

def execAdmitAnswer (take : TakeRef) (member : Fin 64) (module : Sender) (code : BitVec 16) (s : State) :
    Host.Outcome State Fault Refusal :=
  .next (settleAll (onCtl (fromModule module.module.toNat module.gen.toNat (memberAnswer take member module.module.toNat code.toNat)) s))

/-- A member has not answered within one frame: it counts as refusing with 0x0106 (R29). -/
def execAdmissionTimeout (take : TakeRef) (member : Fin 64) (module : BitVec 16) (s : State) : Host.Outcome State Fault Refusal :=
  .next (settleAll (onCtl (fun c =>
    match findRef c take with
    | none => c
    | some (_, t) => if t.st == .prepared then memberAnswer take member module.toNat 0x0106 c else c) s))

/-- A commit for a take (R118 step 5): a copy that was dropped is answered with NG 0x0403 (R119). -/
def commitCopy (lead : Nat) (take : TakeRef) (c : Ctl) : Ctl :=
    match findRef c take with
    | none =>
      let t := { slateTake [] with reel := take.reel.toNat, num := take.num.toNat, gen := take.gen.toNat, origin := take.origin.toNat, st := .ended,
                                   reason := 0x0403, detB := ownLogical c, endTc := now c, outGen := moduleGen c }
      tellModule 6 lead (outcomeBytes t) c
    | some (k, t) =>
      if t.origin = 0xFFFF then c
      else
        let c := if t.st == .prepared then toMembers 3 k (countOutstanding (replan false (journalWrite k (acceptFamily k c)))) else c
        tellModule 5 lead (refBytes t t.cell) c

/-- COMMIT: the copy is accepted and planned. -/
def execCommit (lead : Sender) (take : TakeRef) (s : State) : Host.Outcome State Fault Refusal :=
  .next (settleAll (onCtl (fromModule lead.module.toNat lead.gen.toNat (commitCopy lead.module.toNat take)) s))

/-- A prepared copy is dropped with everything made from it; an ended copy, whose outcome the lead holds, frees its slot. -/
def dropCopy (ended : Bool) (x : TakeRef) (c : Ctl) : Ctl :=
  match findRef c x with
  | none => c
  | some (k, t) =>
    if t.origin = 0xFFFF ∨ t.parent.isSome then c
    else if t.st == .prepared then countOutstanding (dropFamily k (toMembers 4 k c))
    else if ended && t.st == .ended then countOutstanding (dropFamily k c) else c

def execAbort (take : SentRef) (s : State) : Host.Outcome State Fault Refusal :=
  .next (settleAll (onCtl (fromModule take.sender.module.toNat take.sender.gen.toNat (dropCopy true take.ref)) s))

/-- Sixteen frames after the admit without commit or abort. -/
def doPreparedCopyDrop (take : TakeRef) (s : State) : Host.Outcome State Fault Refusal :=
  .next (settleAll (onCtl (fun c =>
    match findRef c take with
    | none => c
    | some (_, t) => if t.st == .prepared && t.origin != 0xFFFF then dropCopy false take (advanceTo ((t.admitFrame + 16) * 2 ^ 22) c) else c) s))

/-- A remote member ends: 1 wrap, 2 NG. An NG of a take with a step group calls for the cut of R36. -/
def endMember (key i : Nat) (f : Member → Member) (c : Ctl) : Ctl :=
  let c := onAd (fun a => { a with replanDue := true }) (setMember key i f c)
  match takeAt c key with
  | none => c
  | some t => match t.members[i]? with
    | some m => when (m.kind == 2 && t.st != .ended) (dueCut t m.reason) c
    | none => c

/-- The outcome record of a member on another module: the generation it carries is that module's (R100, R113). An outcome
the lead has is acknowledged, which frees the member's slot (R104). -/
def memberOutcome (take : TakeRef) (member module : Nat) (bytes : List Byte) (c : Ctl) : Ctl :=
  match findRef c take with
  | none => c
  | some (k, _) =>
    match memberAt c k member module (fun m => m.kind == 0) with
    | none => c
    | some (key, i, m) =>
      match takeAt c key with
      | none => c
      | some t =>
        let c := tellModule 4 module (refBytes { t with origin := originId c t } m.cell) c
        if m.kind ≠ 0 ∨ (t.st == .ended ∧ t.holdFrame = none) then c
        else endMember key i (fun m =>
          { m with kind := if leAt bytes 2 1 = 1 then 1 else 2, reason := leAt bytes 6 2, startTc := leAt bytes 16 8, endTc := leAt bytes 24 8,
                   cycles := leAt bytes 32 8, energy := leAt bytes 40 4, checks := leAt bytes 44 4, mismatches := leAt bytes 48 2,
                   tile := leAt bytes 50 2, detA := leAt bytes 52 4, detB := leAt bytes 56 8 }) c

/-- The outcome of a member on another module reaches the lead. -/
def execMemberOutcome (take : TakeRef) (member : Fin 64) (module : BitVec 16) (bytes : List Byte) (s : State) : Host.Outcome State Fault Refusal :=
  .next (drain (settleAll (onCtl (fun c =>
    if bytes.length < 64 then c
    else fromModule module.toNat (leAt bytes 4 2) (memberOutcome take member module.toNat bytes) c) s)))

/-- Sixteen frames without a heartbeat of a member module: its members end in 0x0403. -/
def execRemoteMemberLost (module : BitVec 16) (s : State) : Host.Outcome State Fault Refusal :=
  .next (drain (settleAll (onCtl (fun c =>
    forEach (c.ad.takes.filter (fun e => e.2.st == .accepted || e.2.st == .started || e.2.holdFrame.isSome)) (fun e c =>
      forEach ((List.range e.2.members.length).zip e.2.members) (fun m c =>
        if m.2.module == module.toNat && m.2.kind == 0 then
          endMember e.1 m.1 (fun x => { x with kind := 2, reason := 0x0403, endTc := now c, detB := module.toNat }) c
        else c) c) c) s)))

/-- The first heartbeat of a lead with a new generation: its copies of the older one end in 0x0703, prepared ones go. -/
def execLeadGenerationChange (lead : BitVec 16) (gen : BitVec 16) (s : State) : Host.Outcome State Fault Refusal :=
  .next (drain (settleAll (onCtl (fromModule lead.toNat gen.toNat (fun c =>
    let old := fun (t : Take) => t.origin != 0xFFFF && t.lead == lead.toNat && genOlder t.leadGen gen.toNat
    let c := forEach (c.ad.takes.filter (fun e => old e.2 && e.2.st == .prepared)) (fun e c => dropTake e.1 c) c
    countOutstanding (endTakes (fun _ t => old t) 0x0703 (fun t => (0, t.leadGen)) c))) s)))

/-- The modules that share a composite take with this one: its lead, or members that have not ended. -/
def takePeers (c : Ctl) : List Nat :=
  (c.ad.takes.flatMap (fun e =>
    if e.2.st == .prepared || (e.2.st == .ended && e.2.holdFrame.isNone) then []
    else (if e.2.origin ≠ 0xFFFF ∧ e.2.parent.isNone then [e.2.lead] else []) ++
      ((e.2.members.filter (fun m => m.module != 0xFFFF && m.kind == 0)).map (fun m => m.module)))).eraseDups

/-- Every frame: commit again to the members that have not acknowledged it (R118 step 5), a heartbeat to each module that shares
a composite take, and the NGs that need wait no longer (R121). -/
def commitFrame (c : Ctl) : Ctl :=
  let c := forEach (c.ad.takes.filter (fun e => e.2.st == .accepted || e.2.st == .started)) (fun e c =>
    forEach (e.2.members.filter (fun m => m.module != 0xFFFF && m.kind == 0 && !m.committed)) (fun m c =>
      tellModule 3 m.module (refBytes { e.2 with origin := originId c e.2 } m.cell) c) c) c
  let c := forEach (takePeers c) (fun m c => tellModule 7 m (leBytes 2 (moduleGen c) ++ leBytes 8 (frameNow c)) c) c
  if c.ad.takes.any (fun e => e.2.holdFrame.isSome) then onAd (fun a => { a with replanDue := true }) c else c

end Sys2Proof.Machine
end

