-- ==== Sys2Proof/Machine/Gaffer.lean ====
section
/-! DEFINITION. The gaffer (R394 to R438): caps and limits, the governed level, room tone, the throttle and the clock, the
minimum state and shutdown, energy accounts, the line producer. -/

namespace Sys2Proof.Machine

def onGaf (f : GafSt → GafSt) (c : Ctl) : Ctl := { c with gaf := f c.gaf }

/-- An entry of the log ring (R437): kind and value in W. -/
def gafLog (kind value : Nat) (c : Ctl) : Ctl :=
  onGaf (fun g => { g with log := ((kind, Nat.min value 0xFFFF, now c) :: g.log).take 16 }) c

/-! ### Caps (R399 to R407) -/

/-- E (R401): the least of what bounds it, never below the cap floor but for the orphan cap. -/
def effCap (c : Ctl) : Nat :=
  let base := Nat.min (rd c Reg.GAF_CAP_CAP) (Nat.min (rd c Reg.GAF_LIMITS_CEIL) (rd c Reg.GAF_CFG_CFG_CEIL))
  let a := rd c Reg.GAF_LP_ALLOC_ALLOC
  let e := Nat.max (rd c Reg.GAF_LIMITS_FLOOR) (if a = 0 then base else Nat.min base a)
  if rdb c Reg.MGT_CAP_LEASE_LAPSED then Nat.min e (rd c Reg.GAF_CFG_ORPHAN) else e

/-- Q (R403); 0xFFFF when none. -/
def protLimit (c : Ctl) : Nat :=
  let p := if rdb c Reg.GAF_PROT_CAP_VALID then rd c Reg.GAF_PROT_CAP_VALUE else 0xFFFF
  if rdb c Reg.GAF_STATUS_CAPSTEP then Nat.min p (rd c Reg.GAF_CAPSTEP_VALUE) else p

/-- A reel is open, or has not yet been freed (R411). -/
def floorHold (c : Ctl) : Bool := (List.range 4096).any (fun r => rd c (Reg.AD_REEL_STATE_STATE r) != 0)

/-- The state register's mode: the higher of those that hold (R437). -/
def showMode (c : Ctl) : Ctl :=
  wr Reg.GAF_STATUS_MODE
    (if c.gaf.shutdown then 4 else if c.gaf.minimum then 3 else if rd c Reg.GAF_LEVEL2_Q ≠ 0xFFFF then 2 else if c.gaf.lag then 1 else 0) c

/-- Set T, in 1/128 W. -/
def setLevel (t : Nat) (c : Ctl) : Ctl := wr Reg.GAF_LEVEL_T (t / 128) (onGaf (fun g => { g with t128 := t }) c)

/-- Frames to comply while T exceeds E (R424). -/
def lagFrames (c : Ctl) : Nat := ceilDiv (c.gaf.t128 - 128 * rd c Reg.GAF_LEVEL_E) (125 * rd c Reg.GAF_SLOPE_DN)

/-- R, in W (R409). -/
def realDraw (c : Ctl) : Nat := rd c Reg.GAF_P_CTL_P_CTL - rd c Reg.GAF_TONE_LEVEL

/-- Neither before stage 10 (R590) nor outside Run, nor on the way to another power mode (R597). -/
def toneAllowed (c : Ctl) : Bool :=
  rd c Reg.PWR_STATUS_STAGE == 10 && rd c Reg.PWR_STATUS_MODE == 0 && c.pwr.target.isNone

/-- The tone needed under R416, before its bounds: 5 × floor((T − B/2 − R) / 5). -/
def toneNeed (c : Ctl) : Nat :=
  if !toneAllowed c then 0 else
  let x : Int := (c.gaf.t128 : Int) - (64 * rd c Reg.GAF_CS_ACTIVE_BAND : Nat) - (128 * realDraw c : Nat)
  (5 * (x / 640)).toNat

/-- Cap lag begins or ends (R424). -/
def noteLag (c : Ctl) : Ctl :=
  let lag := decide (c.gaf.t128 > 128 * rd c Reg.GAF_LEVEL_E)
  let c1 := onGaf (fun g => { g with lag := lag }) c
  showMode (if lag && !c.gaf.lag then raise Reg.GAF_EVENTS_CAP_LAG (bump Reg.GAF_LAGS_COUNT 1 c1) else c1)

/-- Q changes: a fall sets T to at most Q and withdraws tone at once; a rise leaves T (R403, R405). -/
def applyQ (c : Ctl) : Ctl :=
  let old := rd c Reg.GAF_LEVEL2_Q
  let q := protLimit c
  if q = old then c
  else
    let c := modCount 389 1 (raise Reg.GAF_EVENTS_PROTECTIVE (wr Reg.GAF_LEVEL2_Q q c))
    if old < q then c
    else
      let c := setLevel (Nat.min c.gaf.t128 (128 * q)) (bump Reg.GAF_PROTECTIVE_COUNT 1 c)
      wr Reg.GAF_TONE_LEVEL (Nat.min (rd c Reg.GAF_TONE_LEVEL) (toneNeed c)) c

/-- Form E and Q anew after a change of what they rest on; the AD plans anew when the clock it plans with moves (R402,
R406, R580). -/
def settleCaps (c : Ctl) : Ctl :=
  let c := applyQ c
  let e := effCap c
  let c := noteLag (wr Reg.GAF_CLOCK_ASSURED (if c.gaf.minimum then 6 else assuredClock e) (wr Reg.GAF_LEVEL_E e c))
  let c := noteLimits c
  if rd (setFloorClock c) Reg.AD_FLOOR_CLOCK_F = rd c Reg.AD_FLOOR_CLOCK_F then c else replanCap c

/-- Once a controlled shutdown has removed the rails, the module is in the fatal class (R467). -/
def afterShutdown (s : State) : State := if s.c.gaf.shutdown && s.c.gaf.railsOff then enterFatal 35 0x0601 s else s

/-- What a row of the gaffer does, with what follows from takes it ends. -/
def gafRow (f : Ctl → Ctl) (s : State) : Host.Outcome State Fault Refusal := .next (drain (settleAll (afterShutdown (onCtl f s))))

/-! ### Messages and register writes (R399, R400, R412, R413, R438, R570) -/

/-- A ceiling that held a value (status 1 of R400). -/
def clamped (ceiling : Nat) (c : Ctl) : Ctl := raise Reg.GAF_EVENTS_CEILING_CLAMP (gafLog 9 ceiling c)

def setContractCap (v : Nat) (c : Ctl) : Nat × Ctl :=
  let ceil := rd c Reg.GAF_LIMITS_CEIL
  if v < rd c Reg.GAF_LIMITS_FLOOR then (2, c)
  else if v > ceil then (1, settleCaps (clamped ceil (wr Reg.GAF_CAP_CAP ceil c)))
  else (0, settleCaps (wr Reg.GAF_CAP_CAP v c))

/-- Cap floor and tray ceiling (R399); a lowered ceiling lowers the contract cap. -/
def setLimits (floor ceil : Nat) (c : Ctl) : Nat × Ctl :=
  let top := rd c Reg.GAF_CFG_CFG_CEIL
  let hi := Nat.min ceil top
  if floor < 600 ∨ hi < floor ∨ rd c Reg.GAF_CAP_CAP < floor then (3, c)
  else
    let c := wr Reg.GAF_LIMITS_CEIL hi (wr Reg.GAF_LIMITS_FLOOR floor c)
    let c := wr Reg.GAF_CAP_CAP (Nat.min (rd c Reg.GAF_CAP_CAP) hi) c
    (b2n (decide (ceil > top)), settleCaps (when (decide (ceil > top)) (clamped top) c))

def setProtCap (v : Nat) (c : Ctl) : Nat × Ctl :=
  if v < 100 ∨ rd c Reg.GAF_LIMITS_CEIL < v then (4, c)
  else (0, settleCaps (gafLog 1 v (wr Reg.GAF_PROT_CAP_VALID 1 (wr Reg.GAF_PROT_CAP_VALUE v c))))

def clearProtCap (c : Ctl) : Nat × Ctl :=
  (0, settleCaps (wr Reg.GAF_PROT_CAP_VALID 0 (when (rdb c Reg.GAF_PROT_CAP_VALID) (gafLog 2 (rd c Reg.GAF_PROT_CAP_VALUE)) c)))

/-- A register write of GAF_PROT_CAP, which R438 does not have checked: both fields take what is written. -/
def writeProtCap (v : Nat) (c : Ctl) : Nat × Ctl :=
  let was := rdb c Reg.GAF_PROT_CAP_VALID
  let c := if bit v 16 then gafLog 1 (v % 2 ^ 16) c else when was (gafLog 2 (rd c Reg.GAF_PROT_CAP_VALUE)) c
  (0, settleCaps (wrb Reg.GAF_PROT_CAP_VALID (bit v 16) (wr Reg.GAF_PROT_CAP_VALUE (v % 2 ^ 16) c)))

def setCapstep (v : Nat) (c : Ctl) : Nat × Ctl :=
  if v < 100 ∨ rd c Reg.GAF_LIMITS_CEIL < v then (4, c) else (0, settleCaps (wr Reg.GAF_CAPSTEP_VALUE v c))

/-- A slope of 0 is left as it is (R570). -/
def setSlopes (up dn prot : Nat) (c : Ctl) : Nat × Ctl :=
  if up > 2000 ∨ dn > 2000 ∨ (prot ≠ 0 ∧ (prot < 100 ∨ 2000 < prot)) then (4, c)
  else
    let put := fun (f : Fld) v c => if v = 0 then c else wr f v c
    (0, put Reg.GAF_PROT_SLOPE_RATE prot (put Reg.GAF_SLOPE_DN dn (put Reg.GAF_SLOPE_UP up c)))

def stageSheet (slot band frac floorW frame : Nat) (c : Ctl) : Nat × Ctl :=
  if band < 10 ∨ 100 < band ∨ 95 < frac ∨ rd c Reg.GAF_LIMITS_CEIL < floorW ∨ 2 ^ 42 ≤ frame then (4, c)
  else
    let c := wr Reg.GAF_CS_NEXT_SLOT slot (wr Reg.GAF_CS_NEXT_BAND band (wr Reg.GAF_CS_NEXT_FRAC frac (wr Reg.GAF_CS_FLOOR_NEXT_FLOOR_W floorW c)))
    (0, wr Reg.GAF_CS_ACTIVE_PENDING 1 (wr64 Reg.GAF_CS_FRAME_LO_FRAME Reg.GAF_CS_FRAME_HI_FRAME frame c))

/-- The cap lease is renewed (R579, R580). -/
def renewCapLease (c : Ctl) : Ctl :=
  let c := { c with mgt := { c.mgt with capAt := c.time.mono } }
  if rdb c Reg.MGT_CAP_LEASE_LAPSED then
    settleCaps (raise Reg.MGT_EVENTS_CAP_LEASE_RESTORED (setAlert Reg.MGT_ALERT_CAUSE_CAP_LEASE_LAPSED false (wr Reg.MGT_CAP_LEASE_LAPSED 0 c)))
  else c

/-- The answer to a power message: its status of family 0x01; one applied renews the cap lease. -/
def powerReply (p : Nat × Ctl) (s : State) : Reply :=
  if p.1 ≤ 1 then (0x0100 + p.1, [], drain (settleAll { s with c := renewCapLease p.2 })) else (0x0100 + p.1, [], s)

def zeroBytes (b : List Byte) (l : List Nat) : Bool := l.all (fun n => leAt b n 1 == 0)

/-- CAP_SET (R570). -/
def capSet (b : List Byte) (s : State) : Reply :=
  let kind := leAt b 0 1
  let v := leAt b 2 2
  let c := s.c
  if b.length ≠ 8 ∨ kind > 4 ∨ !zeroBytes b [1, 6, 7] ∨ (kind ≠ 1 ∧ !zeroBytes b [4, 5]) ∨ (kind = 3 ∧ v ≠ 0) then (0x0002, [], s)
  else match kind with
    | 0 => powerReply (setContractCap v c) s
    | 1 => powerReply (setLimits v (leAt b 4 2) c) s
    | 2 => powerReply (setProtCap v c) s
    | 3 => powerReply (clearProtCap c) s
    | _ => powerReply (setCapstep v c) s

def slopeSet (b : List Byte) (s : State) : Reply :=
  if b.length ≠ 8 ∨ !zeroBytes b [6, 7] then (0x0002, [], s)
  else powerReply (setSlopes (leAt b 0 2) (leAt b 2 2) (leAt b 4 2) s.c) s

def callSheet (b : List Byte) (s : State) : Reply :=
  if b.length ≠ 16 ∨ !zeroBytes b [3, 6, 7] then (0x0002, [], s)
  else powerReply (stageSheet (leAt b 0 1) (leAt b 1 1) (leAt b 2 1) (leAt b 4 2) (leAt b 8 8) s.c) s

def execContractCapSet (req : Req) (bytes : List Byte) (s : State) : Host.Outcome State Fault Refusal :=
  .next (mgmtReq (.contractCapSet req bytes) 0x20 req bytes.length (capSet bytes) s)

def execCapLimitsSet (req : Req) (bytes : List Byte) (s : State) : Host.Outcome State Fault Refusal :=
  .next (mgmtReq (.capLimitsSet req bytes) 0x20 req bytes.length (capSet bytes) s)

def execProtectiveCapSet (req : Req) (bytes : List Byte) (s : State) : Host.Outcome State Fault Refusal :=
  .next (mgmtReq (.protectiveCapSet req bytes) 0x20 req bytes.length (capSet bytes) s)

def execProtectiveCapClear (req : Req) (bytes : List Byte) (s : State) : Host.Outcome State Fault Refusal :=
  .next (mgmtReq (.protectiveCapClear req bytes) 0x20 req bytes.length (capSet bytes) s)

def execCapstepValueSet (req : Req) (bytes : List Byte) (s : State) : Host.Outcome State Fault Refusal :=
  .next (mgmtReq (.capstepValueSet req bytes) 0x20 req bytes.length (capSet bytes) s)

def execSlopeSet (req : Req) (bytes : List Byte) (s : State) : Host.Outcome State Fault Refusal :=
  .next (mgmtReq (.slopeSet req bytes) 0x21 req bytes.length (slopeSet bytes) s)

def execCallSheet (req : Req) (bytes : List Byte) (s : State) : Host.Outcome State Fault Refusal :=
  .next (mgmtReq (.callSheet req bytes) 0x22 req bytes.length (callSheet bytes) s)

/-- GAF_LP_CTRL: another line producer, or none, ends the allocation held (R435). -/
def writeLpCtrl (v : Nat) (c : Ctl) : Ctl :=
  let drop := decide (v / 2 ^ 16 % 2 ^ 16 ≠ rd c Reg.GAF_LP_CTRL_LP) || !bit v 2
  let c := when drop (fun c => wrb Reg.GAF_STATUS_UNIFORM false (wr Reg.GAF_LP_ALLOC_ALLOC 0 (wr Reg.GAF_LP_ALLOC_CLOCK 0
    (onGaf (fun g => { g with allocDue := none }) c)))) c
  settleCaps (writePlain (controlBase + 0x3000100) v c)

/-- Whether a register write checked as a message was taken. -/
def checkedWrite (p : Nat × Ctl) : Option (Bool × Ctl) := some (decide (p.1 ≤ 1), p.2)

/-- A write to the gaffer's registers; limits, slopes and sheets are checked as the message is (R438). None: a plain
write. -/
def writeGaf (off v : Nat) (c : Ctl) : Option (Bool × Ctl) :=
  match off with
  | 0x04 => checkedWrite (setLimits (v % 2 ^ 16) (v / 2 ^ 16 % 2 ^ 16) c)
  | 0x0C => checkedWrite (setContractCap (v % 2 ^ 16) c)
  | 0x10 => checkedWrite (writeProtCap v c)
  | 0x14 => checkedWrite (setCapstep (v % 2 ^ 16) c)
  | 0x18 => checkedWrite (setSlopes (v % 2 ^ 16) (v / 2 ^ 16 % 2 ^ 16) 0 c)
  | 0x1C => checkedWrite (setSlopes 0 0 (v % 2 ^ 16) c)
  | 0x24 =>
    let band := bits v 8 8
    let frac := bits v 16 8
    if band < 10 ∨ 100 < band ∨ 95 < frac then some (false, c) else none
  | 0x28 => if rd c Reg.GAF_LIMITS_CEIL < v % 2 ^ 16 then some (false, c) else none
  | 0x30 => checkedWrite (stageSheet (rd c Reg.GAF_CS_NEXT_SLOT) (rd c Reg.GAF_CS_NEXT_BAND) (rd c Reg.GAF_CS_NEXT_FRAC)
      (rd c Reg.GAF_CS_FLOOR_NEXT_FLOOR_W) (rd c Reg.GAF_CS_FRAME_LO_FRAME + 2 ^ 32 * (v % 2 ^ 10)) c)
  | 0x100 => some (true, writeLpCtrl v c)
  | _ => none

/-- The staged sheet becomes active at the start of its frame, or at the next boundary where that has passed (R412). -/
def activateSheet (c : Ctl) : Ctl :=
  if !rdb c Reg.GAF_CS_ACTIVE_PENDING then c
  else
    let t := rd64 c Reg.GAF_CS_FRAME_LO_FRAME Reg.GAF_CS_FRAME_HI_FRAME * 2 ^ 22
    let c := advanceTo (if t < now c then roundUp (now c) (2 ^ 22) else t) c
    let old := rd c Reg.GAF_CS_ACTIVE_SLOT
    let slot := rd c Reg.GAF_CS_NEXT_SLOT
    let c := wr Reg.GAF_CS_ACTIVE_SLOT slot (wr Reg.GAF_CS_ACTIVE_BAND (rd c Reg.GAF_CS_NEXT_BAND) c)
    let c := wr Reg.GAF_CS_ACTIVE_FRAC (rd c Reg.GAF_CS_NEXT_FRAC) (wr Reg.GAF_CS_FLOOR_FLOOR_W (rd c Reg.GAF_CS_FLOOR_NEXT_FLOOR_W) c)
    when (decide (slot ≠ old)) armRamp (wr Reg.GAF_CS_ACTIVE_PENDING 0 c)

def doCallSheetActivate (s : State) : Host.Outcome State Fault Refusal := .next (onCtl activateSheet s)

/-! ### CAPSTEP_n (R404) -/

/-- The pin has been low, or high, for 1 µs. -/
def capstepPin (low : Bool) (c : Ctl) : Ctl :=
  let c := wr Reg.MGT_LINES_CAPSTEP_N (b2n !low) c
  if rdb c Reg.GAF_STATUS_CAPSTEP = low then c
  else
    let c := gafLog (if low then 3 else 4) (rd c Reg.GAF_CAPSTEP_VALUE) (wrb Reg.GAF_STATUS_CAPSTEP low c)
    settleCaps (when low (modCount 390 1) c)

def execCapstepAssert (s : State) : Host.Outcome State Fault Refusal := gafRow (capstepPin true) s

def execCapstepRelease (s : State) : Host.Outcome State Fault Refusal := gafRow (capstepPin false) s

/-! ### Samples and estimates (R395 to R398) -/

/-- A draw that the gaffer does not bound (R423). -/
def unboundedFall (draw : Nat) (c : Ctl) : Ctl := gafLog 10 draw (modCount 396 1 (bump Reg.GAF_UNBOUNDED_FALLS_COUNT 1 c))

def avgIn (c : Ctl) : Nat := sumNat (c.gaf.samples.map (fun x => x.1)) / Nat.max 1 c.gaf.samples.length

/-- P_rail × k over the last 100 ms (R396). -/
def scaledRail (c : Ctl) (pRail : Nat) : Nat :=
  let l := c.gaf.samples.take 1000
  sumNat (l.map (fun x => x.1)) * pRail / Nat.max 1 (sumNat (l.map (fun x => x.2)))

/-- Plausible under R398. -/
def plausible (pMod v : Nat) : Bool := decide (v ≤ 2000 ∧ pMod ≤ 2 * v ∧ 2 * v ≤ 3 * pMod)

/-- The value that stands for both P_in and k × P_rail during a sensor fault (R398), in 1/4 W; none without a fault. -/
def faultValue (c : Ctl) (p : Power) : Option Nat :=
  if !rdb c Reg.GAF_STATUS_SENSOR_FAULT then none
  else
    let l := [p.pIn, scaledRail c p.pRail].filter (plausible p.pMod)
    some (if l.isEmpty then 5 * p.pMod else 4 * maxNat l)

/-- P_ctl by mode (R396). -/
def controlEst (c : Ctl) (p : Power) : Nat :=
  match rd c Reg.GAF_STATUS_ESTIMATE with
  | 0 => 125 * p.pMod / 100
  | 1 => p.pMod
  | _ => match faultValue c p with
    | some v => 105 * v / 400
    | none => 105 * scaledRail c p.pRail / 100

def showEstimate (warming : Bool) (c : Ctl) : Ctl :=
  wr Reg.GAF_STATUS_ESTIMATE (if warming then 0 else if c.gaf.diverged then 2 else 1) c

/-- An estimate lies more than `pct` percent of P_in from it. -/
def farFrom (pct pIn x : Nat) : Bool := decide (pct * pIn < 100 * (x - pIn + (pIn - x)))

/-- One more in a row, or the row ends; 10 s of samples suffice for every test. -/
def streak (b : Bool) (n : Nat) : Nat := if b then Nat.min 100000 (n + 1) else 0

/-- Compare an input sample with the model and the rails (R396 to R398). -/
def compareSample (p : Power) (c : Ctl) : Ctl :=
  let rail := scaledRail c p.pRail
  onGaf (fun g => { g with
    corr := g.corr + 1
    modelFar := streak (farFrom 12 p.pIn p.pMod) g.modelFar
    modelNear := streak (!farFrom 8 p.pIn p.pMod) g.modelNear
    railFar := streak (farFrom 8 p.pIn rail) g.railFar
    railNear := streak (!farFrom 4 p.pIn rail) g.railNear }) c

/-- A sample comes in: input anew each 100 µs, the others each µs; the energy of the µs goes into the frame's accounts. -/
def takeSample (p : Power) (c : Ctl) : Ctl :=
  let cap16 := fun n => Nat.min n 0xFFFF
  let c := when p.fresh (fun c =>
    let v := match faultValue c p with
      | some x => x / 4
      | none => p.pIn
    let c := compareSample p (onGaf (fun g => { g with samples := ((v, p.pRail) :: g.samples).take 10000 }) c)
    wr Reg.GAF_P_IN_P_IN (cap16 p.pIn) (wr Reg.GAF_P_IN_V_IN (cap16 p.vIn) c)) c
  let c := wr Reg.GAF_P_EST_P_MOD (cap16 p.pMod) (wr Reg.GAF_P_EST_P_RAIL (cap16 p.pRail) c)
  let c := wr Reg.GAF_CORR_RATIO (cap16 (p.pIn * 1000 / Nat.max 1 p.pMod)) (wr Reg.GAF_CORR_CORR_MS (cap16 (c.gaf.corr / 10)) c)
  let c := wr Reg.GAF_P_CTL_P_CTL (cap16 (controlEst c p)) (wr Reg.GAF_P_CTL_AVG_1S (cap16 (avgIn c)) c)
  let c := forEach ((List.range 4).zip p.amps) (fun e c => wr (Reg.GAF_RAIL_CURRENT e.1) e.2 c) c
  onGaf (fun g => { g with frameIn := g.frameIn + p.pIn, frameMod := g.frameMod + p.pMod, frameOver := g.frameOver + p.overhead }) c

/-- The frame's energies go to the accounts; in Measured mode tone and overhead are scaled by the measured over the
modelled total (R429, R430). -/
def closeFrame (c : Ctl) : Ctl :=
  let g := c.gaf
  let scale := fun e => if rd c Reg.GAF_STATUS_ESTIMATE = 2 ∧ g.frameMod ≠ 0 then e * g.frameIn / g.frameMod else e
  onGaf (fun g => { g with eIn := g.eIn + g.frameIn, eTone := g.eTone + scale g.frameTone, eOver := g.eOver + scale g.frameOver,
                           eSliceOver := if sliceNow c = 0 then g.eSliceOver else g.eSliceOver + scale g.frameOver,
                           frameIn := 0, frameMod := 0, frameTone := 0, frameOver := 0 }) c

/-- P_mod has differed from P_in by more than 12% in every sample for 50 ms (R397). -/
def execModelDiverge (s : State) : Host.Outcome State Fault Refusal :=
  if s.c.gaf.modelFar < 500 then .next s
  else .next (onCtl (fun c =>
    let c := modCount 394 1 (raise Reg.GAF_EVENTS_MODEL_DIVERGE (gafLog 7 (rd c Reg.GAF_P_IN_P_IN) c))
    showEstimate (rd c Reg.GAF_STATUS_ESTIMATE == 0) (onGaf (fun g => { g with diverged := true }) c)) s)

/-- P_mod has agreed with P_in within 8% for 1 s (R396). -/
def execMeasuredEnd (s : State) : Host.Outcome State Fault Refusal :=
  if s.c.gaf.modelNear < 10000 then .next s
  else .next (onCtl (fun c => showEstimate (rd c Reg.GAF_STATUS_ESTIMATE == 0) (onGaf (fun g => { g with diverged := false }) c)) s)

/-- 100 ms of comparison have passed since the reset (R396). -/
def execWarmingEnd (s : State) : Host.Outcome State Fault Refusal :=
  if s.c.gaf.corr < 1000 then .next s else .next (onCtl (showEstimate false) s)

/-- P_rail × k has differed from P_in by more than 8% in every sample for 50 ms (R398). -/
def execSensorFault (s : State) : Host.Outcome State Fault Refusal :=
  if s.c.gaf.railFar < 500 then .next s
  else .next (onCtl (fun c =>
    let c := modCount 395 1 (raise Reg.GAF_EVENTS_SENSOR_FAULT (gafLog 8 (rd c Reg.GAF_P_IN_P_IN) c))
    setAlert Reg.MGT_ALERT_CAUSE_SENSOR_FAULT true (wr Reg.GAF_STATUS_SENSOR_FAULT 1 c)) s)

/-- The two have agreed within 4% for 10 s (R398). -/
def execSensorFaultClear (s : State) : Host.Outcome State Fault Refusal :=
  if s.c.gaf.railNear < 100000 then .next s
  else .next (onCtl (fun c => setAlert Reg.MGT_ALERT_CAUSE_SENSOR_FAULT false (wr Reg.GAF_STATUS_SENSOR_FAULT 0 c)) s)

/-! ### The governed level (R409 to R411) -/

/-- The hold floor H, in 1/128 W: without a second of input samples its fraction term is 0; from ACTIVATE_AT to its cue it
is 0 (R427). -/
def holdFloor (c : Ctl) : Nat :=
  if rdb c Reg.AD_STATUS_ACTIVATION_HOLD || !toneAllowed c then 0
  else
    let n := c.gaf.samples.length
    let avg := if n < 10000 then 0 else rd c Reg.GAF_CS_ACTIVE_FRAC * sumNat (c.gaf.samples.map (fun x => x.1)) * 128 / (100 * n)
    let fl := if floorHold c then 128 * rd c Reg.GAF_LIMITS_FLOOR else 0
    Nat.min (128 * rd c Reg.GAF_LEVEL_E) (Nat.max (128 * rd c Reg.GAF_CS_FLOOR_FLOOR_W) (Nat.max avg fl))

/-- T after a step: down by at most the down-slope, up by at most the up-slope, held to Q. -/
def stepLevel (t up dn want q : Nat) : Nat := Nat.min (Nat.min (t + up) (Nat.max (t - dn) want)) (128 * q)

/-- The allocation that is due takes effect (R434, R436). -/
def applyAlloc (w clock : Nat) (c : Ctl) : Ctl :=
  let c := wr Reg.GAF_LP_ALLOC_ALLOC w (wr Reg.GAF_LP_ALLOC_CLOCK clock (onGaf (fun g => { g with allocDue := none }) c))
  settleCaps (wrb Reg.GAF_STATUS_UNIFORM (rdb c Reg.GAF_LP_CTRL_UNIFORM && clock != 0) c)

/-- The ramp step: one that follows the step before by less than half a frame is skipped (R410). -/
def rampStep (c : Ctl) : Ctl :=
  let soon := match c.gaf.stepAt with
    | some t => decide (c.time.mono < t + 2 ^ 21)
    | none => false
  if soon then bump Reg.GAF_STEP_SKIPS_COUNT 1 c
  else
    let c := onGaf (fun g => { g with stepAt := some c.time.mono }) c
    let c := match c.gaf.allocDue with
      | some (w, k, 0) => applyAlloc w k c
      | _ => c
    let t := c.gaf.t128
    let h := holdFloor c
    let e := 128 * rd c Reg.GAF_LEVEL_E
    let pressed := rdb c Reg.GAF_STATUS_PRESSED
    let want := Nat.min e (if pressed then e else Nat.max h (128 * c.gaf.peak))
    let n := stepLevel t (125 * rd c Reg.GAF_SLOPE_UP) (125 * rd c Reg.GAF_SLOPE_DN) want (rd c Reg.GAF_LEVEL2_Q)
    let n := if c.gaf.shutdown then Nat.min t n else n
    let c := modCount 384 1 (when (decide (t < n)) (modCount 385 1) (when (decide (n < t)) (modCount 386 1) c))
    let c := wr Reg.GAF_STATUS_PRESSED 0 (when pressed (modCount 387 1) c)
    let c := onGaf (fun g => { g with peak := 0 }) (wr Reg.GAF_LEVEL2_H (h / 128) (setLevel n c))
    let c := noteLag c
    wr Reg.GAF_LAG_FRAMES (lagFrames c) c

/-! ### Room tone and the throttle (R414 to R420) -/

/-- A C-die that may carry tone (R415, R444). -/
def toneDie (c : Ctl) (d : Nat) : Bool :=
  !rdb c (Reg.CLK_TH_STATE_THROTTLED d) && Map.getD 64 c.gaf.ocIssue (d / 2) == 64 && !c.flt.outC.contains d && rd c (Reg.CLK_DOM_FREQ_MHZ d) != 0

/-- A tile that carries tone while idle: it runs no take. A non-member of a gang's group runs none (R40). -/
def toneTile (c : Ctl) (i : Nat) : Bool :=
  let t := tileAt c i
  t.take.isNone && !t.inReset && toneDie c (dieOf i)

/-- The tone the eligible tiles can carry, at 6.25 W each; `held` tiles have waited for 64 cycles (R414). -/
def toneCapacity (c : Ctl) (held : Nat) : Nat :=
  if c.gaf.railsOff then 0 else 25 * (((List.range 192).filter (toneTile c)).length + held) / 4

def minimumSettings (c : Ctl) : Bool :=
  rd c Reg.GAF_THROTTLE_ISSUE == 1 && decide (rd c Reg.GAF_CLOCK_ACTUAL ≤ 400) && rd c Reg.GAF_TONE_LEVEL == 0

/-- Keep the times that R425 counts from. -/
def noteMinimum (c : Ctl) : Ctl :=
  let q := rd c Reg.GAF_LEVEL2_Q
  let p := rd c Reg.GAF_P_CTL_P_CTL
  let t := c.time.mono
  onGaf (fun g => { g with
    overSince := if minimumSettings c && decide (p > q) then (match g.overSince with
      | some x => some x
      | none => some t) else none,
    underSince := if g.minimum && decide (p + 20 ≤ q) then (match g.underSince with
      | some x => some x
      | none => some t) else none }) c

/-- The tone level of this µs; a need beyond what the tiles can carry is a fall that T restarts from (R416, R418, R423). -/
def setTone (held : Nat) (c : Ctl) : Ctl :=
  let r := realDraw c
  let most := toneCapacity c held
  let need := if c.gaf.minimum then 0 else toneNeed c
  let tone := Nat.min most need
  let short := decide (most < need)
  let first := short && c.gaf.shortFrame != some (frameNow c)
  let c := wr Reg.GAF_TONE_LEVEL tone (wr Reg.GAF_TONE_MAX (Nat.min most 0xFFFF) c)
  let c := onGaf (fun g => { g with frameTone := g.frameTone + tone, frameMod := g.frameMod, peak := Nat.max g.peak r }) c
  let c := when first (fun c => modCount 393 1 (raise Reg.GAF_EVENTS_TONE_SHORT (bump Reg.GAF_TONE_SHORT_COUNT 1
    (onGaf (fun g => { g with shortFrame := some (frameNow c) }) c)))) c
  let c := when (first && (List.range 8).any (fun d => rdb c (Reg.CLK_TH_STATE_THROTTLED d) || Map.getD 64 c.gaf.ocIssue (d / 2) != 64))
    (unboundedFall (r + most)) c
  when short (setLevel (Nat.min c.gaf.t128 (128 * (r + most)))) c

/-- Each µs; `held` tiles of dies that may carry tone have waited for 64 cycles with an empty matrix queue. -/
def execToneUpdate (p : Power) (held : Fin 193) (s : State) : Host.Outcome State Fault Refusal :=
  gafRow (fun c => noteMinimum (noteLag (setTone held (takeSample p c)))) s

/-- Each µs; where R exceeds T, issue falls by as many steps as bring R to T, at least one. -/
def throttle (steps : Nat) (c : Ctl) : Ctl :=
  let r := realDraw c
  let t := c.gaf.t128
  let issue := rd c Reg.GAF_THROTTLE_ISSUE
  let c := onGaf (fun g => { g with peak := Nat.max g.peak r }) c
  if c.gaf.minimum then wr Reg.GAF_THROTTLE_ISSUE 1 c
  else if t < 128 * r then
    wr Reg.GAF_STATUS_PRESSED 1 (wr Reg.GAF_THROTTLE_ISSUE (Nat.max 1 (issue - Nat.max 1 steps)) c)
  else if 128 * (r + rd c Reg.GAF_CS_ACTIVE_BAND) ≤ t ∧ issue < 64 then wr Reg.GAF_THROTTLE_ISSUE (issue + 1) c
  else c

def execThrottleUpdate (p : Power) (steps : Fin 64) (s : State) : Host.Outcome State Fault Refusal :=
  gafRow (fun c => noteMinimum (throttle steps (takeSample p c))) s

/-- The arithmetic clock a limit allows (R420, R425, R436). -/
def clockLimit (c : Ctl) : Nat :=
  if c.gaf.minimum then 400
  else if rdb c Reg.GAF_STATUS_UNIFORM then Nat.min 1650 (rd c Reg.GAF_LP_ALLOC_CLOCK) else 1650

/-- The arithmetic clock moves toward a value; each core domain follows, below its thermal ceiling. -/
def setClock (mhz : Nat) (c : Ctl) : Ctl :=
  let c := wr Reg.GAF_CLOCK_ACTUAL mhz c
  forEach (List.range 8) (fun d c =>
    if rd c (Reg.CLK_DOM_FREQ_MHZ d) = 0 then c else wr (Reg.CLK_DOM_FREQ_MHZ d) (Nat.min mhz (rd c (Reg.CLK_TH_CEIL_MHZ d))) c) c

/-- Every 10 µs; `best` is the highest clock at which P_mod at the present activity and full issue stays within T − B/2. It
moves by at most 10 MHz each µs. -/
def execClockSet (best : BitVec 16) (s : State) : Host.Outcome State Fault Refusal :=
  gafRow (fun c =>
    let want := clampNat 400 (Nat.max 400 (clockLimit c)) best.toNat
    let old := rd c Reg.GAF_CLOCK_ACTUAL
    let mhz := if c.gaf.minimum then 400 else if old < want then Nat.min want (old + 100) else Nat.max want (old - 100)
    let u := rd c Reg.GAF_LP_ALLOC_CLOCK
    let broken := rdb c Reg.GAF_STATUS_UNIFORM && rd c Reg.GAF_LEVEL2_Q != 0xFFFF && decide (mhz < u ∧ u ≤ old)
    let c := when broken (fun c => modCount 399 1 (raise Reg.GAF_EVENTS_UNIFORM_BREAK c)) c
    noteMinimum (setClock mhz c)) s

/-! ### Over-current (R421) -/

def execOverCurrent (rail : Fin 4) (amps : BitVec 16) (s : State) : Host.Outcome State Fault Refusal :=
  .next (onCtl (fun c =>
    let c := wr (Reg.GAF_RAIL_CURRENT rail) amps.toNat c
    if amps.toNat ≤ rd c (Reg.GAF_RAIL_LIMIT rail) then c
    else
      modCount 392 1 (raise Reg.GAF_EVENTS_OVER_CURRENT (bump Reg.GAF_OVER_CURRENT_COUNT 1
        (onGaf (fun g => { g with ocIssue := Map.setD 64 g.ocIssue rail 16 }) c)))) s)

/-- 10 µs below 90% of the limit: issue rises by one step, to 32, 48 and 64 of 64. -/
def execOverCurrentRelease (rail : Fin 4) (amps : BitVec 16) (s : State) : Host.Outcome State Fault Refusal :=
  .next (onCtl (fun c =>
    let c := wr (Reg.GAF_RAIL_CURRENT rail) amps.toNat c
    if 9 * rd c (Reg.GAF_RAIL_LIMIT rail) ≤ 10 * amps.toNat then c
    else onGaf (fun g => { g with ocIssue := Map.setD 64 g.ocIssue rail (Nat.min 64 (Map.getD 64 g.ocIssue rail + 16)) }) c) s)

/-! ### The minimum state and shutdown (R425, R426) -/

def enterMinimum (c : Ctl) : Ctl :=
  let c := raise Reg.GAF_EVENTS_CAP_UNREACHABLE (gafLog 5 (rd c Reg.GAF_P_CTL_P_CTL) c)
  let c := onGaf (fun g => { g with minimum := true, overSince := none, underSince := none }) (wr Reg.AD_STATUS_CAP_UNREACHABLE 1 c)
  settleCaps (wr Reg.GAF_THROTTLE_ISSUE 1 (wr Reg.GAF_TONE_LEVEL 0 (setClock 400 c)))

/-- One frame above Q at the minimum settings. -/
def doMinimumStateEntry (s : State) : Host.Outcome State Fault Refusal :=
  gafRow (fun c => match c.gaf.overSince with
    | some t => if c.gaf.minimum then c else enterMinimum (passTime (t + 2 ^ 22 - c.time.mono) c)
    | none => c) s

/-- Q has exceeded P_ctl by 20 W or more for 16 frames: T starts from P_ctl. -/
def doMinimumStateExit (s : State) : Host.Outcome State Fault Refusal :=
  gafRow (fun c => match c.gaf.underSince with
    | some t =>
      if c.gaf.minimum then
        let c := passTime (t + 2 ^ 26 - c.time.mono) c
        let c := wrb Reg.AD_STATUS_CAP_UNREACHABLE c.gaf.shutdown (onGaf (fun g => { g with minimum := false, underSince := none }) c)
        settleCaps (setLevel (128 * rd c Reg.GAF_P_CTL_P_CTL) c)
      else c
    | none => c) s

/-- A controlled shutdown, from its start to the removal of the V-die rails (R426): T falls at GAF_PROT_SLOPE to the draw of
the minimum settings, takes without an outcome end, the rails go. -/
def controlledShutdown (draw : Nat) (c : Ctl) : Ctl :=
  if c.gaf.shutdown || c.gaf.railsOff then c
  else
    let c := raise Reg.GAF_EVENTS_SHUTDOWN (gafLog 6 (rd c Reg.GAF_LEVEL_T) c)
    let c := showMode (wr Reg.AD_STATUS_CAP_UNREACHABLE 1 (onGaf (fun g => { g with shutdown := true }) c))
    let fall := c.gaf.t128 - 128 * draw
    let c := passTime (fall * 2 ^ 32 / (128000 * Nat.max 1 (rd c Reg.GAF_PROT_SLOPE_RATE))) c
    let c := wr Reg.GAF_THROTTLE_ISSUE 1 (wr Reg.GAF_TONE_LEVEL 0 (setClock 400 (setLevel (c.gaf.t128 - fall) c)))
    let c := endTakes (fun _ _ => true) 0x0601 (fun _ => (capNow c, clockNow c)) c
    let c := unboundedFall draw { c with ad := { c.ad with cutsDue := [] } }
    { onGaf (fun g => { g with railsOff := true }) (disarm 32 c) with pwr := { c.pwr with rails := false } }

/-! ### The line producer (R431 to R436) -/

/-- The members: valid, unfenced entries of the route table, this module included (R431). -/
def lpMembers (c : Ctl) : List Nat :=
  (List.range 4096).filter (fun m => decide (m = ownLogical c) || (rtValid c m && !rtFenced c m))

/-- A member's record of the last 64 frames. -/
def lpRecent (c : Ctl) (m : Nat) : Option LpRecord :=
  c.gaf.lpRecords.find? (fun r => r.member == m && decide (frameNow c ≤ r.frame + 64))

/-- Floor and ceiling of a member: those of its latest record, or this module's own. -/
def lpBounds (c : Ctl) (m : Nat) : Nat × Nat :=
  match c.gaf.lpRecords.find? (fun r => r.member == m) with
  | some r => (r.floor, r.ceiling)
  | none => (rd c Reg.GAF_LIMITS_FLOOR, rd c Reg.GAF_LIMITS_CEIL)

/-- Move an allocation by a member's slack against the median: `a − MAX_SHIFT × clamp((s − m) / max(m, 1), −1, 1)`, rounded
down. -/
def shiftAlloc (a shift s m : Nat) : Int :=
  let den : Int := (Nat.max m 1 : Nat)
  let d : Int := (s : Int) - (m : Int)
  let d := if d > den then den else if d < -den then -den else d
  ((a : Int) * den - (shift : Int) * d) / den

def clampInt (lo hi : Nat) (z : Int) : Nat := if z < (lo : Int) then lo else if z > (hi : Int) then hi else z.toNat

/-- The allocations of R433: in uniform mode equal shares that do not move (R436). -/
def lpAllocate (c : Ctl) : List (Nat × Nat) × Bool :=
  let ms := lpMembers c
  let total := rd c Reg.GAF_LP_TOTAL_TOTAL
  let uniform := rdb c Reg.GAF_LP_CTRL_UNIFORM
  let share := total / Nat.max 1 ms.length
  let slacks := ms.filterMap (fun m => (lpRecent c m).map (fun r => (r.slack : Int)))
  let med := (medianInt slacks).toNat
  let a := ms.map (fun m =>
    let (lo, hi) := lpBounds c m
    let base := match Map.get? c.gaf.lpAlloc m with
      | some v => if uniform then clampNat lo hi share else v
      | none => clampNat lo hi share
    match uniform, lpRecent c m with
    | false, some r => (m, clampInt lo hi (shiftAlloc base (rd c Reg.GAF_LP_SHIFT_MAX_SHIFT) r.slack med))
    | _, _ => (m, base))
  let sum := sumNat (a.map (fun e => e.2))
  let floors := sumNat (ms.map (fun m => (lpBounds c m).1))
  if sum ≤ total then (a, false)
  else if total < floors then (ms.map (fun m => (m, (lpBounds c m).1)), true)
  else (a.map (fun e =>
    let lo := (lpBounds c e.1).1
    (e.1, lo + (e.2 - lo) * (total - floors) / Nat.max 1 (sum - floors))), false)

/-- At the frame boundary whose number is a multiple of 16. -/
def doLpAllocation (s : State) : Host.Outcome State Fault Refusal :=
  .next (onCtl (fun c =>
    if !rdb c Reg.GAF_LP_CTRL_ROLE then c
    else
      let c := advanceTo (roundUp (now c) (2 ^ 26)) c
      let (a, short) := lpAllocate c
      when short (raise Reg.GAF_EVENTS_LP_SHORT) (onGaf (fun g => { g with lpAlloc := a, lpSent := [] }) c)) s)

/-- The allocation received takes effect: a decrease now, at the ramp step; an increase two frames after its receipt. -/
def doAllocationApply (s : State) : Host.Outcome State Fault Refusal :=
  gafRow (fun c => match c.gaf.allocDue with
    | some (w, k, t) => applyAlloc w k (advanceTo t c)
    | none => c) s

end Sys2Proof.Machine
end

