-- ==== Sys2Proof/Machine/Ethernet.lean ====
section
/-! DEFINITION. The Ethernet port (R369 to R393): its link, flow control, MACsec keys, RoCEv2 queue pairs and windows. -/

namespace Sys2Proof.Machine

/-! ### Link (R370, R371) -/

/-- The link comes up: at 800 Gb/s with its event, and after a fallback with one retry to come. -/
def ethRise (fast fell : Bool) (c : Ctl) : Ctl :=
  let c := wr Reg.ETH_STATUS_LINK (if fast then 3 else 2) (onEth (fun e => { e with upAt := c.time.mono, fallback := fell }) c)
  noteProfile (when (!fast) (raise Reg.ETH_EVENTS_FALLBACK) c)

/-- A bring-up: which of the two rates trains with the partner, and how long it took. -/
def execEthLinkBringUp (fast slow : Bool) (ms : BitVec 16) (s : State) : Host.Outcome State Fault Refusal :=
  .next (onCtl (fun c =>
    if ethUp c || !rdb c Reg.ETH_CTRL_ENABLE then c
    else
      let try1600 := rdb c Reg.ETH_CTRL_ALLOW_1600
      let c := wr Reg.ETH_STATUS_TRAIN_MS ms.toNat c
      if try1600 && fast then ethRise true false c
      else if rdb c Reg.ETH_CTRL_ALLOW_800 && slow then ethRise false try1600 c
      else wr Reg.ETH_STATUS_LINK 1 c) s)

/-- After an hour at 800 Gb/s, at the next frame boundary: one more attempt at 1.6 Tb/s. -/
def doFallbackRetry (fast : Bool) (s : State) : Host.Outcome State Fault Refusal :=
  .next (onCtl (fun c =>
    if rd c Reg.ETH_STATUS_LINK ≠ 2 ∨ !c.eth.fallback then c
    else
      let c := passTime (c.eth.upAt + 3600 * 2 ^ 32 - c.time.mono) c
      ethRise fast false (advanceTo (roundUp (now c) (2 ^ 22)) c)) s)

/-- The link leaves the up state: what is queued is discarded and the port begins its bring-up anew; PTP is lost (R65). -/
def ethFall (c : Ctl) : Ctl :=
  if ethUp c then
    let c := onEth (fun e => { e with held := [] }) c
    noteProfile (loseInput .ptp (raise Reg.ETH_EVENTS_LINK_DOWN (wr Reg.ETH_STATUS_LINK (b2n (rdb c Reg.ETH_CTRL_ENABLE)) c)))
  else wr Reg.ETH_STATUS_LINK (if rdb c Reg.ETH_CTRL_ENABLE then rd c Reg.ETH_STATUS_LINK else 0) c

def execEthLinkDown (s : State) : Host.Outcome State Fault Refusal := .next (onCtl ethFall s)

/-! ### Priority flow control (R373, R374) -/

/-- A priority that pauses: those of RoCEv2 and of the reel transport. -/
def pausable (c : Ctl) (p : Nat) : Bool := p == rd c Reg.ETH_PRIO_ROCE_PRIO || p == rd c Reg.ETH_PRIO_REEL_PRIO

/-- A pause of `q` quanta of 512 bit times at the link rate, in tu. -/
def pauseTime (c : Ctl) (q : Nat) : Nat := q * 512 * 2 ^ 32 / (if rd c Reg.ETH_STATUS_LINK = 3 then 1600000000000 else 800000000000)

def unpause (p : Nat) (e : EthSt) : EthSt := { e with paused := e.paused.filter (fun x => x.1 != p) }

/-- The messages held for a priority, oldest first. -/
def heldOf (c : Ctl) (p : Nat) : List (Nat × Nat × Out) := c.eth.held.filter (fun x => x.1 == p)

def dropHeld (p : Nat) (e : EthSt) : EthSt := { e with held := e.held.filter (fun x => x.1 != p) }

/-- A priority resumes: what was held for it leaves. -/
def resumePriority (p : Nat) (c : Ctl) : Ctl :=
  forEach (heldOf c p) (fun x c => putFrames x.2.1 x.2.2 c) (onEth (fun e => dropHeld p (unpause p e)) c)

def execPfcFrame (prio : Fin 8) (quanta : BitVec 16) (s : State) : Host.Outcome State Fault Refusal :=
  .next (onCtl (fun c =>
    let c := modCount 366 1 (bump Reg.ETH_PFC_RX_COUNT 1 (modCount 354 1 (bump Reg.ETH_RX_FRAMES_COUNT 1 c)))
    let p := prio.toNat
    if !pausable c p || c.eth.ignoring.any (fun x => x.1 == p) then c
    else if quanta = 0 then resumePriority p c
    else
      let t := c.time.mono
      let since := ((c.eth.paused.find? (fun x => x.1 == p)).map (fun x => x.2.1)).getD t
      onEth (fun e => { unpause p e with paused := (p, since, t + pauseTime c quanta.toNat) :: (unpause p e).paused }) c) s)

/-- The quanta run out, and the priority resumes. -/
def doPauseExpiry (prio : Fin 8) (s : State) : Host.Outcome State Fault Refusal :=
  .next (onCtl (fun c => match c.eth.paused.find? (fun x => x.1 == prio.toNat) with
    | some x => resumePriority prio (passTime (x.2.2 - c.time.mono) c)
    | none => c) s)

/-- Paused for WATCHDOG_MS: for 1 s pauses are not honoured, and the priority's frames are dropped: those held, those the block sends
meanwhile, and `dropped` others. -/
def doPfcWatchdog (prio : Fin 8) (dropped : BitVec 32) (s : State) : Host.Outcome State Fault Refusal :=
  .next (onCtl (fun c => match c.eth.paused.find? (fun x => x.1 == prio.toNat) with
    | some x =>
      let c := passTime (x.2.1 + rd c Reg.ETH_PFC_WD_WATCHDOG_MS * 2 ^ 32 / 1000 - c.time.mono) c
      let k := sumNat ((heldOf c prio).map (fun y => y.2.1)) + dropped.toNat
      let c := onEth (fun e => { dropHeld prio (unpause prio e) with ignoring := (prio.toNat, c.time.mono + 2 ^ 32) :: e.ignoring }) c
      raise Reg.ETH_EVENTS_PFC_WATCHDOG (bump Reg.ETH_TX_DROP_PFC_COUNT k c)
    | none => c) s)

def doPfcWatchdogEnd (prio : Fin 8) (s : State) : Host.Outcome State Fault Refusal :=
  .next (onCtl (fun c => match c.eth.ignoring.find? (fun x => x.1 == prio.toNat) with
    | some x => onEth (fun e => { e with ignoring := e.ignoring.filter (fun y => y.1 != prio.toNat) }) (passTime (x.2 - c.time.mono) c)
    | none => c) s)

/-- A write of ETH_PRIO, refused whole where priorities would coincide: false. -/
def prioWrite (v : Nat) (c : Ctl) : Bool × Ctl :=
  let roce := bits v 0 3
  let reel := bits v 4 3
  let ptp := bits v 8 3
  if roce = reel ∨ ptp = roce ∨ ptp = reel then (false, raise Reg.ETH_EVENTS_PRIO_REFUSED c)
  else (true, wr Reg.ETH_PRIO_ROCE_PRIO roce (wr Reg.ETH_PRIO_REEL_PRIO reel (wr Reg.ETH_PRIO_PTP_PRIO ptp (wr Reg.ETH_PRIO_VID (bits v 16 12) c))))

def execEthPrioWrite (value : BitVec 32) (s : State) : Host.Outcome State Fault Refusal := .next (onCtl (fun c => (prioWrite value.toNat c).2) s)

/-! ### Neighbours (R376) -/

/-- A neighbour solicitation, an ARP request or an echo request: at most 100 answers a second. -/
def execNeighbourSolicitation (peer : Peer) (s : State) : Host.Outcome State Fault Refusal :=
  .next (onFrames peer.ipv4 .sealed 0 1 (onCtl (fun c =>
    let t := c.time.mono
    let l := c.eth.answers.filter (fun x => decide (t < x + 2 ^ 32))
    if decide (100 ≤ l.length) then c
    else sendFrames (rd c Reg.ETH_PRIO_PTP_PRIO) 1 .sealed (.eth 5 peer.addr.toNat peer.port.toNat []) (onEth (fun e => { e with answers := t :: l }) c))) s)

/-! ### MACsec (R378 to R380) -/

def showMacsec (c : Ctl) : Ctl := wrb Reg.ETH_STATUS_MACSEC_ACTIVE (rdb c Reg.ETH_MACSEC_CTRL_ENABLE && rdb c Reg.ETH_MACSEC_STATUS_KEY_READY) c

/-- An exchange begins: an encapsulation key goes to the partner. It needs the TRNG (R520). -/
def beginKeying (c : Ctl) : Ctl :=
  if !rdb c Reg.ETH_MACSEC_CTRL_ENABLE || !rdb c Reg.SEC_TRNG_HEALTHY then c
  else
    let an := if rdb c Reg.ETH_MACSEC_STATUS_KEY_READY then 1 - rd c Reg.ETH_MACSEC_STATUS_AN else 0
    let (seed, c) := freshBytes 64 c
    sendFrames (rd c Reg.ETH_PRIO_PTP_PRIO) 1 .bare (.eth 8 0 6621 (kemKey seed))
      (onEth (fun e => { e with keying := some an, kemSeed := seed }) c)

/-- The SCI of the module: its MAC address, then port 1, as IEEE 802.1AE has it (PRESUMED, log entry 60). -/
def sciOf (c : Ctl) : List Byte :=
  (leBytes 6 (rd c Reg.ETH_MAC_LO_MAC + 2 ^ 32 * rd c Reg.ETH_MAC_HI_MAC)).reverse ++ [0, 1]

/-- SAK and salt, 44 bytes of SHAKE256 (R379). -/
def macsecKey (c : Ctl) (answer : List Byte) (an : Nat) : List Byte :=
  shake256 44 (kemSecret c.eth.kemSeed answer ++ sciOf c ++ [BitVec.ofNat 8 an] ++ asciiBytes "ZHOUD-MACSEC")

/-- The partner's answer: SAK and salt are derived, and the next association is installed. -/
def execKeyExchange (bytes : List Byte) (s : State) : Host.Outcome State Fault Refusal :=
  .next (onFrames false .bare 0 1 (onCtl (fun c => match c.eth.keying with
    | none => c
    | some an =>
      if bytes.length ≠ 1088 then c
      else
        let k := macsecKey c bytes an
        let had := rdb c Reg.ETH_MACSEC_STATUS_KEY_READY
        let c := onEth (fun e => { e with keying := none, sak := some k, packetNum := 1, saAt := c.time.mono, oldSa := had }) c
        showMacsec (wr Reg.ETH_MACSEC_STATUS_AN an (wr Reg.ETH_MACSEC_STATUS_KEY_READY 1 (wr Reg.ETH_MACSEC_STATUS_STALLED 0 c))))) s)

/-- The packet number `pn` of the transmit association has been reached, or else the interval of REKEY_S passes; a write of REKEY is
a register's (R380). Without an association there is no interval to await. -/
def doRekey (pn : BitVec 64) (s : State) : Host.Outcome State Fault Refusal :=
  .next (onCtl (fun c =>
    let c := onEth (fun e => { e with packetNum := Nat.max e.packetNum pn.toNat }) c
    let c := if rdb c Reg.ETH_MACSEC_STATUS_KEY_READY && decide (c.eth.packetNum < 2 ^ 62) then
        passTime (c.eth.saAt + rd c Reg.ETH_MACSEC_CTRL_REKEY_S * 2 ^ 32 - c.time.mono) c else c
    let stall := rdb c Reg.ETH_MACSEC_STATUS_KEY_READY && decide (2 ^ 63 ≤ c.eth.packetNum) && !rdb c Reg.ETH_MACSEC_STATUS_STALLED
    beginKeying (when stall (fun c => raise Reg.ETH_EVENTS_MACSEC_STALL (wr Reg.ETH_MACSEC_STATUS_STALLED 1 c)) c)) s)

def doOldAssociationTimeout (s : State) : Host.Outcome State Fault Refusal :=
  .next (onCtl (fun c =>
    if c.eth.oldSa then onEth (fun e => { e with oldSa := false }) (passTime (c.eth.saAt + 2 ^ 32 - c.time.mono) c) else c) s)

/-! ### Windows and incoming requests (R382, R383, R389) -/

def winBase (c : Ctl) (w : Nat) : Nat := rd c (Reg.ETH_WIN_BASE_LO_ADDR w) + 2 ^ 32 * (rd c (Reg.ETH_WIN_BASE_HI_ADDR w) % 2 ^ 16)
def winLen (c : Ctl) (w : Nat) : Nat := 1024 * rd c (Reg.ETH_WIN_LEN_KIB w)

/-- A range that may be registered: aligned, in the slice's LPDDR5X, outside the cached range. -/
def winGood (c : Ctl) (w : Nat) : Bool :=
  let a := winBase c w
  let n := winLen c w
  decide (a % 4096 = 0 ∧ n % 4096 = 0 ∧ 0 < n) && decide (lpddrBase ≤ a) && inAllotment c a && inAllotment c (a + n - 1) &&
    (c.memory.cfg.cacheLimit ≤ c.memory.cfg.cacheBase ||
      decide (a + n ≤ lpddrBase + c.memory.cfg.cacheBase * 2 ^ 30 ∨ lpddrBase + c.memory.cfg.cacheLimit * 2 ^ 30 ≤ a))

/-- A write of ETH_WIN_CTRL for a window. -/
def winWrite (w v : Nat) (c : Ctl) : Ctl :=
  let c := when (bit v 3) (wr (Reg.ETH_WIN_CTRL_REFUSED w) 0) c
  if rdb c (Reg.ETH_WIN_CTRL_VALID w) then (if bit v 0 then c else wr (Reg.ETH_WIN_CTRL_VALID w) 0 c)
  else
    let c := wrb (Reg.ETH_WIN_CTRL_REMOTE_READ w) (bit v 1) (wrb (Reg.ETH_WIN_CTRL_REMOTE_WRITE w) (bit v 2) c)
    if !bit v 0 then c
    else if winGood c w then
      let n := (Map.getD 0 c.eth.regs w + 1) % 2 ^ 24
      wr (Reg.ETH_WIN_CTRL_VALID w) 1 (wr (Reg.ETH_WIN_KEY_KEY w) (w + 256 * n) (onEth (fun e => { e with regs := Map.put e.regs w n }) c))
    else raise Reg.ETH_EVENTS_WINDOW_REFUSED (wr (Reg.ETH_WIN_CTRL_REFUSED w) 1 c)

def execWindowRegister (value : BitVec 32) (s : State) : Host.Outcome State Fault Refusal :=
  .next (onCtl (fun c => winWrite (rd c Reg.ETH_WIN_SEL_WIN) value.toNat c) s)

def qpState (c : Ctl) (q : Nat) : Nat := rd c (Reg.ETH_QP_STATE_STATE q)
def qpAt (c : Ctl) (q : Nat) : QpSt := Map.getD QpSt.new c.eth.qps q
def setQp (q : Nat) (x : QpSt) (c : Ctl) : Ctl := onEth (fun e => { e with qps := Map.put e.qps q x }) c

/-- A queue pair enters error. -/
def qpError (q : Nat) (c : Ctl) : Ctl :=
  if qpState c q = 1 then raise Reg.ETH_EVENTS_QP_ERROR (wr (Reg.ETH_QP_STATE_STATE q) 2 c) else c

/-- Send RoCEv2 packets on their priority. -/
def sendRoce (k : Nat) (o : Out) (c : Ctl) : Ctl := sendFrames (rd c Reg.ETH_PRIO_ROCE_PRIO) k .sealed o c

/-- A NAK: 0 Remote Access error, 1 Remote Operational error, 2 Invalid Request. -/
def sendNak (q syndrome : Nat) (c : Ctl) : Ctl :=
  bump Reg.ETH_RDMA_NAK_COUNT 1 (sendRoce 1 (.eth 6 q (rd c (Reg.ETH_QP_REMOTE_QPN_QPN q)) [1, BitVec.ofNat 8 syndrome]) c)

def sendAck (q : Nat) (data : List Byte) (c : Ctl) : Ctl :=
  sendRoce (framesOf data.length) (.eth 6 q (rd c (Reg.ETH_QP_REMOTE_QPN_QPN q)) (0 :: data)) c

/-- A row that RoCEv2 frames for a queue pair bring, over the kind of IP of its peer. -/
def onRoce (q k : Nat) (act : State → State) (s : State) : State := onFrames (rdb s.c (Reg.ETH_QP_CFG_IPV4 q)) .sealed 0 k act s

/-- The address a request reaches: its key names a valid window that allows it and holds its range. -/
def winReach (c : Ctl) (key off n : Nat) (write : Bool) : Option Nat :=
  let w := key % 256
  let ok := rdb c (Reg.ETH_WIN_CTRL_VALID w) && rd c (Reg.ETH_WIN_KEY_KEY w) == key && decide (off + n ≤ winLen c w) &&
    rdb c (if write then Reg.ETH_WIN_CTRL_REMOTE_WRITE w else Reg.ETH_WIN_CTRL_REMOTE_READ w)
  if ok then some (winBase c w + off) else none

def execRdmaWrite (qp : Fin 4096) (key : BitVec 32) (off : BitVec 64) (bytes : List Byte) (s : State) : Host.Outcome State Fault Refusal :=
  let q := qp.toNat
  .next (onRoce q (framesOf bytes.length) (fun s =>
    if qpState s.c q ≠ 1 then s
    else match winReach s.c key.toNat off.toNat bytes.length true with
      | none => onCtl (fun c => sendNak q 0 (qpError q c)) s
      | some a =>
        match bypassWrite a bytes s with
        | (some _, s) => onCtl (sendNak q 1) s
        | (none, s) => onCtl (fun c => modCount 358 (ceilDiv bytes.length 64) (sendAck q [] c)) s) s)

def execRdmaRead (qp : Fin 4096) (key : BitVec 32) (off : BitVec 64) (len : BitVec 32) (s : State) : Host.Outcome State Fault Refusal :=
  let q := qp.toNat
  .next (onRoce q 1 (fun s =>
    if qpState s.c q ≠ 1 then s
    else match winReach s.c key.toNat off.toNat len.toNat false with
      | none => onCtl (fun c => sendNak q 0 (qpError q c)) s
      | some a =>
        match bypassRead a len.toNat s with
        | (.error _, s) => onCtl (sendNak q 1) s
        | (.ok b, s) => onCtl (fun c => modCount 356 (ceilDiv b.length 64) (sendAck q b c)) s) s)

/-- The remote address of a queue pair. -/
def qpAddr (c : Ctl) (q : Nat) : Nat :=
  if rdb c (Reg.ETH_QP_CFG_IPV4 q) then rd c (Reg.ETH_QP_REMOTE_ADDR_3 q)
  else rd c (Reg.ETH_QP_REMOTE_ADDR_3 q) + 2 ^ 32 * (rd c (Reg.ETH_QP_REMOTE_ADDR_2 q) + 2 ^ 32 * (rd c (Reg.ETH_QP_REMOTE_ADDR_1 q) + 2 ^ 32 * rd c (Reg.ETH_QP_REMOTE_ADDR_0 q)))

/-- A SEND: on a bound queue pair one reel datagram of that reel, whose source is the queue pair's remote address and whose
UDP port is not compared. -/
def execRdmaSend (qp : Fin 4096) (bytes : List Byte) (s : State) : Host.Outcome State Fault Refusal :=
  let q := qp.toNat
  .next (onRoce q (framesOf bytes.length) (fun s =>
    if qpState s.c q ≠ 1 then s
    else if !rdb s.c (Reg.ETH_QP_CFG_REEL_EN q) then onCtl (sendNak q 2) s
    else
      let r := rd s.c (Reg.ETH_QP_CFG_REEL q)
      let s := onCtl (sendAck q []) s
      let peer : Peer := { addr := BitVec.ofNat 128 (qpAddr s.c q), ipv4 := rdb s.c (Reg.ETH_QP_CFG_IPV4 q), port := BitVec.ofNat 16 (rd s.c (Reg.AD_REEL_PORT_PORT r)) }
      if leAt bytes 4 2 ≠ r then onCtl dropReel s
      else match leAt bytes 3 1 with
        | 1 => submitGo peer bytes s
        | 4 => ackGo peer bytes s
        | 6 => echoGo peer bytes s
        | 7 => attachGo peer bytes s
        | _ => onCtl dropReel s) s)

/-! ### Requests from tiles (R384 to R387) -/

def ringAddr (c : Ctl) (q : Nat) : Nat := rd c (Reg.ETH_QP_RING_LO_ADDR q) + 2 ^ 32 * (rd c (Reg.ETH_QP_RING_HI_ADDR q) % 2 ^ 16)
def ringSize (c : Ctl) (q : Nat) : Nat := 2 ^ rd c (Reg.ETH_QP_CFG_RING_L q)

/-- The form of a send-queue entry (R385). -/
def entryGood (b : List Byte) : Bool :=
  let op := leAt b 0 1
  let n := leAt b 4 4
  decide (1 ≤ op ∧ op ≤ 3) && decide (leAt b 1 1 ≤ 1) && zeroBytes b [2, 3] && decide (1 ≤ n ∧ n ≤ 2 ^ 30) && leAt b 28 4 == 0 && leAt b 40 8 == 0 &&
    leAt b 48 8 == 0 && leAt b 56 8 == 0 && (op != 3 || (decide (n ≤ 4096) && leAt b 16 8 == 0 && leAt b 24 4 == 0))

/-- A local range: in the slice's allotment, no unit of it in cache mode. -/
def localGood (c : Ctl) (a n : Nat) : Bool :=
  inAllotment c a && inAllotment c (a + n - 1) && decide (lpddrBase ≤ a ↔ lpddrBase ≤ a + n - 1) &&
    (List.range (n / 0x4000000 + 1)).all (fun k => inAllotment c (Nat.min (a + k * 0x4000000) (a + n - 1)))

/-- The head of a request, as it goes to the peer. -/
def requestHead (r : RdmaReq) : List Byte := leBytes 1 r.op ++ leBytes 8 r.raddr ++ leBytes 4 r.key ++ leBytes 4 r.len

/-- The status of a request that the port itself settles before it is sent, and the data it sends. -/
def startStatus (q : Nat) (b : List Byte) (s : State) : Option Nat × List Byte × State :=
  let n := leAt b 4 4
  let a := leAt b 8 8
  if qpState s.c q = 2 then (some 5, [], s)
  else if !entryGood b then (some 6, [], s)
  else if !localGood s.c a n then (some 1, [], s)
  else if leAt b 0 1 = 2 then (none, [], s)
  else match bypassRead a n s with
    | (.error _, s) => (some 4, [], s)
    | (.ok d, s) => (none, d, s)

/-- A status other than 0 puts the queue pair in error; what it has outstanding is flushed. -/
def settleQp (q status : Nat) (c : Ctl) : Ctl :=
  if status = 0 ∨ qpState c q = 2 then c
  else
    let x := qpAt c q
    qpError q (wr (Reg.ETH_QP_LAST_STATUS_STATUS q) status (setQp q { x with outstanding := x.outstanding.map (fun r =>
      match r.result with
      | some _ => r
      | none => { r with result := some 5 }) } c))

/-- Write the completions that are due, in request order (R386). -/
def complete (q : Nat) : Nat → State → State
  | 0, s => s
  | fuel + 1, s =>
    let x := qpAt s.c q
    match x.outstanding with
    | [] => s
    | r :: l =>
      match r.result with
      | none => s
      | some st =>
        let base := ringAddr s.c q
        let n := ringSize s.c q
        let at_ := base + 64 + n * 64 + 16 * (x.completed % n)
        let s := setMem (fun m => putBytes (base + 8) (leBytes 8 (x.completed + 1))
          (putBytes at_ (leBytes 8 r.id ++ leBytes 2 st ++ leBytes 2 0 ++ leBytes 4 (if st = 0 then r.len else 0)) m)) s
        complete q fuel (onCtl (setQp q { x with outstanding := l, completed := x.completed + 1 }) s)

/-- Take entries of the ring up to the doorbell: a fenced one waits for earlier READs, and no more than 16 READs are
outstanding. -/
def runRing (q bell : Nat) : Nat → State → State
  | 0, s => s
  | fuel + 1, s =>
    let x := qpAt s.c q
    let reads := (x.outstanding.filter (fun r => r.op == 2 && r.result.isNone)).length
    if bell ≤ x.taken then s
    else
      let b := getBytes s.mem (ringAddr s.c q + 64 + 64 * (x.taken % ringSize s.c q)) 64
      let op := leAt b 0 1
      if qpState s.c q = 1 ∧ entryGood b ∧ ((leAt b 1 1 = 1 ∧ 0 < reads) ∨ (op = 2 ∧ 16 ≤ reads)) then s
      else
        let (st, data, s) := startStatus q b s
        let r : RdmaReq := { index := x.taken, op := op, len := leAt b 4 4, laddr := leAt b 8 8, raddr := leAt b 16 8, key := leAt b 24 4,
                             id := leAt b 32 8, retries := 0, sentAt := s.c.time.mono, result := st }
        let s := onCtl (fun c =>
          let c := setQp q { x with taken := x.taken + 1, outstanding := x.outstanding ++ [r] } c
          match st with
          | some k => settleQp q k c
          | none => modCount 356 (ceilDiv data.length 64) (sendRoce (framesOf data.length) (.eth 2 q (rd c (Reg.ETH_QP_REMOTE_QPN_QPN q))
              (requestHead r ++ data)) c)) s
        runRing q bell fuel (complete q 17 s)

/-- Go on with the ring of a queue pair: the doorbell may not run ahead of the completions by more than the ring. -/
def ringGo (q : Nat) (s : State) : State :=
  if qpState s.c q = 0 ∨ rd s.c (Reg.ETH_QP_CFG_RING_L q) < 4 then s
  else
    let bell := leNat (getBytes s.mem (ringAddr s.c q) 8)
    let x := qpAt s.c q
    if x.completed + ringSize s.c q < bell then onCtl (qpError q) s
    else
      let n := ringSize s.c q
      complete q n (runRing q bell n (complete q n s))

/-- A write raises the doorbell of a queue pair's ring. -/
def execDoorbell (qp : Fin 4096) (s : State) : Host.Outcome State Fault Refusal := .next (ringGo qp s)

/-- Give the oldest request without a status its status, write what a READ brought, and go on. -/
def settleOldest (q status : Nat) (data : List Byte) (s : State) : State :=
  let x := qpAt s.c q
  match x.outstanding.find? (fun r => r.result.isNone) with
  | none => s
  | some r =>
    let (bad, s) := if status = 0 ∧ r.op = 2 then bypassWrite r.laddr (padTo r.len data) s else (none, s)
    let status := if bad.isSome then 4 else status
    let s := onCtl (fun c =>
      let c := if status = 0 ∧ r.op = 2 then modCount 358 (ceilDiv r.len 64) c else c
      settleQp q status (setQp q { x with outstanding := x.outstanding.map (fun y => if y.index = r.index then { y with result := some status } else y) } c)) s
    ringGo q s

/-- A retry of the oldest request: its packets are sent again, from memory; after 7 retries it fails with status 3 (R381). -/
def retryOldest (q : Nat) (s : State) : State :=
  let x := qpAt s.c q
  match x.outstanding.find? (fun r => r.result.isNone) with
  | none => s
  | some r =>
    if r.retries ≥ 7 then settleOldest q 3 [] s
    else
      match (if r.op = 2 then (Except.ok [], s) else bypassRead r.laddr r.len s) with
      | (.error _, s) => settleOldest q 4 [] s
      | (.ok d, s) =>
        let k := framesOf d.length
        onCtl (fun c => bump Reg.ETH_RETX_COUNT k (sendRoce k (.eth 2 q (rd c (Reg.ETH_QP_REMOTE_QPN_QPN q)) (requestHead r ++ d)) (setQp q { x with
          outstanding := x.outstanding.map (fun y => if y.index = r.index then { y with retries := y.retries + 1, sentAt := c.time.mono } else y) } c))) s

/-- The peer's answer to the oldest request without one. -/
def execRdmaAcknowledgement (qp : Fin 4096) (ack : RdmaAck) (s : State) : Host.Outcome State Fault Refusal :=
  let k := match ack with
    | .ok data => framesOf data.length
    | _ => 1
  .next (onRoce qp k (fun s =>
    if qpState s.c qp ≠ 1 then s
    else match ack with
      | .ok data => settleOldest qp 0 data s
      | .nak _ => settleOldest qp 2 [] s
      | .rnr => retryOldest qp s) s)

/-- 131 µs, in tu. -/
def ackTimeout : Nat := 131 * 2 ^ 32 / 1000000

/-- The acknowledgement timeout of the oldest request without a status. -/
def doRoceAckTimeout (qp : Fin 4096) (s : State) : Host.Outcome State Fault Refusal :=
  match (qpAt s.c qp).outstanding.find? (fun r => r.result.isNone) with
  | none => .next s
  | some r => if qpState s.c qp ≠ 1 then .next s else .next (retryOldest qp (onCtl (fun c => passTime (r.sentAt + ackTimeout - c.time.mono) c) s))

/-! ### Congestion (R375, R388) -/

/-- A packet with CE set: of the reel transport it is counted; of RoCEv2 it draws a CNP, at most one per 50 µs. -/
def execCePacket (qp : Fin 4096) (reel : Bool) (s : State) : Host.Outcome State Fault Refusal :=
  let q := qp.toNat
  .next (onRoce q 1 (onCtl (fun c =>
    let c := bump Reg.ETH_ECN_CE_COUNT 1 c
    let x := qpAt c q
    let soon := match x.cnpAt with
      | some t => decide (c.time.mono < t + 214748)
      | none => false
    if reel || qpState c q != 1 || soon then c
    else
      modCount 364 1 (bump Reg.ETH_CNP_TX_COUNT 1 (sendRoce 1 (.eth 7 q (rd c (Reg.ETH_QP_REMOTE_QPN_QPN q)) [])
        (setQp q { x with cnpAt := some c.time.mono } c))))) s)

def execCnp (qp : Fin 4096) (s : State) : Host.Outcome State Fault Refusal :=
  .next (onRoce qp 1 (onCtl (fun c =>
    let c := modCount 365 1 (bump Reg.ETH_CNP_RX_COUNT 1 c)
    if qpState c qp = 0 then c else setQp qp { qpAt c qp with cnp := true } c)) s)

/-- The link rate in bytes per second. -/
def ethRate (c : Ctl) : Nat := if rd c Reg.ETH_STATUS_LINK = 3 then 200000000000 else 100000000000

def nextRate (c : Ctl) (x : QpSt) : Nat :=
  let r := Nat.min (ethRate c) (x.rate.getD (ethRate c))
  if x.cnp then Nat.max 1000000000 (r * (8 - rd c Reg.ETH_CC_MD_EIGHTHS) / 8) else Nat.min (ethRate c) (r + rd c Reg.ETH_CC_AI_GBPS * 1000000000)

/-- PERIOD_US has passed since the last update: the rate of every queue pair changes. -/
def doRoceRateUpdate (s : State) : Host.Outcome State Fault Refusal :=
  .next (onCtl (fun c =>
    let c := passTime (c.eth.rateAt + rd c Reg.ETH_CC_PERIOD_US * 2 ^ 32 / 1000000 - c.time.mono) c
    onEth (fun e => { e with rateAt := c.time.mono, qps := e.qps.map (fun y => (y.1, { y.2 with rate := some (nextRate c y.2), cnp := false })) }) c) s)

/-! ### Queue pairs (R387, R393) -/

/-- A write of ETH_QP_CMD for the selected queue pair: 1 create, 2 destroy, 3 reset from error. -/
def qpCmd (v : Nat) (c : Ctl) : Ctl :=
  let q := rd c Reg.ETH_QP_SEL_QP
  match v % 4, qpState c q with
  | 1, 0 => wr (Reg.ETH_QP_STATE_STATE q) 1 (wr (Reg.ETH_QP_LOCAL_QPN_QPN q) q (wr (Reg.ETH_QP_LAST_STATUS_STATUS q) 0 (setQp q QpSt.new c)))
  | 2, 0 => c
  | 2, _ => wr (Reg.ETH_QP_STATE_STATE q) 0 (onEth (fun e => { e with qps := Map.del e.qps q }) c)
  | 3, 2 => wr (Reg.ETH_QP_STATE_STATE q) 1 (wr (Reg.ETH_QP_LAST_STATUS_STATUS q) 0 c)
  | _, _ => c

def execQpCreate (s : State) : Host.Outcome State Fault Refusal := .next (onCtl (qpCmd 1) s)

def execQpDestroy (s : State) : Host.Outcome State Fault Refusal := .next (onCtl (qpCmd 2) s)

def execQpReset (s : State) : Host.Outcome State Fault Refusal := .next (onCtl (qpCmd 3) s)

/-- Slice release destroys every queue pair and window (R381); so does a cold reset (R487). -/
def destroyRdma (c : Ctl) : Ctl :=
  let c := forEach c.eth.qps (fun e c => wr (Reg.ETH_QP_STATE_STATE e.1) 0 c) c
  let c := forEach (List.range 256) (fun w c => wr (Reg.ETH_WIN_CTRL_VALID w) 0 c) c
  onEth (fun e => { e with qps := [] }) c

/-- A warm reset puts every queue pair in error, with status 5 (R487). -/
def errorRdma (c : Ctl) : Ctl :=
  forEach c.eth.qps (fun e c => settleQp e.1 5 c) c

end Sys2Proof.Machine
end

