-- ==== Sys2Proof/Machine/MemRows.lean ====
section
/-! DEFINITION. Commands of the memory system: apply a partition (R268, R269, R290), flush (R267), release a slice (R291),
prefetch trackers (R274), drift (R278), refresh (R280), patrol scrub (R284, R287), a lost device (R279). -/

namespace Sys2Proof.Machine

def onMem (f : MemSt → MemSt) (c : Ctl) : Ctl := { c with memory := f c.memory }

/-! ### The partition (R268, R269) -/

/-- The eight words of a unit map as one number. -/
def unitMap (c : Ctl) (f : Nat → Fld) : Nat := sumNat ((List.range 8).map (fun w => rd c (f w) * 2 ^ (32 * w)))

/-- The configuration the staged registers spell. -/
def staged (c : Ctl) : MemCfg :=
  { base := rd c Reg.MEM_ALLOT_LPDDR_BASE, limit := rd c Reg.MEM_ALLOT_LPDDR_LIMIT, cacheBase := rd c Reg.MEM_CACHE_RANGE_BASE,
    cacheLimit := rd c Reg.MEM_CACHE_RANGE_LIMIT, unitMode := unitMap c Reg.MEM_UNIT_MODE_CACHE,
    allotSram := unitMap c Reg.MEM_ALLOT_SRAM_ALLOT, placement := rd c Reg.MEM_CACHE_CFG_PLACEMENT }

/-- A take of the module has been accepted and has not ended. -/
def openTake (c : Ctl) : Bool := c.ad.takes.any (fun e => e.2.st == .accepted || e.2.st == .started)

def rangeBad (c : Ctl) (base limit : Nat) : Bool := limit != 0 && (decide (limit ≤ base) || decide (limit > rd c Reg.MEM_SIZE_GIB))

/-- The first failing check of R268, with that of R290 on ENABLE; 0 where all pass. -/
def applyRefusal (c : Ctl) : Nat :=
  let g := staged c
  let encChange := rdb c Reg.MEM_ENC_CTRL_ENABLE != rdb c Reg.MEM_ENC_CTRL_ACTIVE
  if openTake c || (encChange && (sliceNow c != 0 || rdb c Reg.MEM_STATUS_RELEASE_BUSY)) then 1
  else if (List.range 256).any (fun u => bit g.unitMode u && bit g.allotSram u) then 3
  else if rangeBad c g.base g.limit || rangeBad c g.cacheBase g.cacheLimit ||
    (g.cacheLimit != 0 && (g.limit == 0 || decide (g.cacheBase < g.base) || decide (g.limit < g.cacheLimit))) then 4
  else if c.memory.flush.isSome || rdb c Reg.MEM_STATUS_RELEASE_BUSY then 5
  else 0

/-- Apply the staged configuration: the whole cache is flushed where its units or placement change; units that change mode are
zeroed. -/
def applyCfg (s : State) : State :=
  let r := applyRefusal s.c
  let s := onCtl (wr Reg.MEM_CFG_STATUS_REFUSAL r) s
  if r ≠ 0 then s
  else
    let g := staged s.c
    let old := s.c.memory.cfg
    let s := if g.unitMode ≠ old.unitMode ∨ g.placement ≠ old.placement then flushLines (fun _ => true) true s else s
    let changed := (List.range 256).filter (fun u => bit g.unitMode u != bit old.unitMode u)
    let s := changed.foldl (fun s u => zeroUnit u s) s
    onCtl (fun c => raise Reg.MEM_CFG_STATUS_APPLIED (wrb Reg.MEM_ENC_CTRL_ACTIVE (rdb c Reg.MEM_ENC_CTRL_ENABLE) (onMem (fun m => { m with cfg := g }) c))) s

def execMemCfgApply (s : State) : Host.Outcome State Fault Refusal := .next (applyCfg s)

/-! ### Flush (R267) -/

/-- Start a management flush; one in progress goes on undisturbed. -/
def startFlush (cmd : Nat) (c : Ctl) : Ctl :=
  if c.memory.flush.isSome then c
  else
    wr Reg.MEM_FLUSH_STATUS_UNITS_LEFT (popCount c.memory.cfg.unitMode 256)
      (wr Reg.MEM_FLUSH_STATUS_RESUMED 0 (wr Reg.MEM_FLUSH_STATUS_BUSY 1 (wr Reg.MEM_STATUS_FLUSH_BUSY 1 (onMem (fun m => { m with flush := some cmd }) c))))

def flushCmd (v : Nat) (c : Ctl) : Ctl := if v = 1 ∨ v = 2 then startFlush v c else c

def execMemFlushWriteBack (s : State) : Host.Outcome State Fault Refusal := .next (onCtl (flushCmd 1) s)

def execMemFlushInvalidate (s : State) : Host.Outcome State Fault Refusal := .next (onCtl (flushCmd 2) s)

/-- The flush completes: every dirty line is written back, and for command 2 every line is invalid. -/
def execFlushDone (s : State) : Host.Outcome State Fault Refusal :=
  match s.c.memory.flush with
  | none => .next s
  | some cmd =>
    let s := flushLines (fun _ => true) (cmd == 2) s
    .next (onCtl (fun c =>
      let c := wr Reg.MEM_FLUSH_STATUS_UNITS_LEFT 0 (wr Reg.MEM_FLUSH_STATUS_BUSY 0 (wr Reg.MEM_STATUS_FLUSH_BUSY 0 c))
      raise Reg.MEM_EVENTS_FLUSH_DONE (onMem (fun m => { m with flush := none }) c)) s)

/-! ### Slice release (R291) -/

/-- The ranges a release clears (the spec gives the record no layout): base and end of the LPDDR5X, of the bonded SRAM, of
the scratchpads. -/
def clearedRanges (c : Ctl) : List Byte :=
  leBytes 8 lpddrBase ++ leBytes 8 (lpddrBase + lpddrBytes c) ++ leBytes 8 sramBase ++ leBytes 8 0x001400000000 ++ leBytes 8 0 ++ leBytes 8 0x18000000

def releaseHead (r : ReleaseRecord) : List Byte := leBytes 2 r.slice ++ leBytes 2 r.gen ++ leBytes 8 r.at_ ++ r.ranges

/-- Zero all memory but the units reserved for crew. -/
def zeroAll (m : Memory) : Memory :=
  let crew := fun (a : Nat) => decide (sramBase ≤ a) && decide (a < 0x001400000000) && (a - sramBase) / 0x4000000 % 32 == 15
  { bytes := m.bytes.filter (fun e => crew e.1), poison := m.poison.filter (fun e => crew e.1), encrypted := m.encrypted.filter (fun e => crew e.1),
    flaws := m.flaws.filter (fun e => crew e.1) }

/-- The five steps of a release; `ms` is the time it took, 700 ms at most. Takes that are prepared are rejected, and admission stays
stopped. Groups, queue pairs and windows of the slice go (R340, R381). -/
def releaseSlice (ms : Nat) (s : State) : State :=
  let s := onCtl (fun c => refuseAllPrepared 1 (onMem (fun m => { m with released := true }) c)) s
  let s := settleAll (onCtl (endTakes (fun _ t => t.st != .prepared) 0x0303 (fun _ => (0, 0))) s)
  let s := onCtl (fun c =>
    let c := when c.memory.sliceKey.isSome (raise Reg.SEC_EVENTS_KEY_DESTROYED) c
    let c := wr Reg.MEM_ENC_CTRL_KEY_PRESENT 0 (onMem (fun m => { m with sliceKey := none, cache := [], linkErrs := [] }) { c with sec := { c.sec with wrapped := [] } })
    destroyRdma (forEach c.coll.groups (fun e c => destroySlot e.1 c) c)) s
  let s := setMem zeroAll s
  let s := onCtl (fun c => { c with tiles := c.tiles.map (fun e => (e.1, { e.2 with acc := [], accWritten := 0, hist := [] })) }) s
  onCtl (fun c =>
    let r0 : ReleaseRecord := { slice := sliceNow c, gen := moduleGen c, at_ := now c, ranges := clearedRanges c, hash := [] }
    let r := { r0 with hash := sha3_256 (releaseHead r0) }
    let c := { c with sec := { c.sec with m7 := sha3_256 (releaseHead r ++ r.hash) } }
    wr Reg.MEM_RELEASE_STATUS_LAST_MS (Nat.min ms 700) (raise Reg.MEM_RELEASE_STATUS_DONE (onMem (fun m => { m with release := some r }) c))) s

/-- A write of 1 to MEM_RELEASE_CMD. -/
def execSliceRelease (ms : BitVec 16) (s : State) : Host.Outcome State Fault Refusal := .next (drain (releaseSlice ms.toNat s))

/-! ### Trackers, drift, refresh -/

/-- A tracker, by its place in the list, has been idle for 2^16 cycles (R274). -/
def execTrackerFree (index : Fin 256) (s : State) : Host.Outcome State Fault Refusal :=
  .next (onCtl (fun c => setTrackers (c.memory.trackers.eraseIdx index) c) s)

/-- An M-die samples the interval oscillators and adjusts its timing (R278). -/
def execDriftAdjustment (mdie : Fin 4) (s : State) : Host.Outcome State Fault Refusal := .next (onCtl (modCount (288 + 16 * mdie + 15) 1) s)

/-- A device reports its refresh rate: 0 for 1×, 1 for 2×, 2 for 4×; and RFM commands were issued to it (R280). -/
def noteRefresh (d rate rfm : Nat) (c : Ctl) : Ctl :=
  let old := rd c Reg.MEM_REFRESH_MODE
  let rates := Map.setD 0 c.memory.rates d rate
  let top := maxNat (rates.map (fun e => e.2))
  let dev := ((rates.find? (fun e => e.2 == top)).map (fun e => e.1)).getD d
  let c := wr Reg.MEM_REFRESH_MODE top (wr Reg.MEM_REFRESH_DEVICE (if top = 0 then d else dev) (onMem (fun m => { m with rates := rates }) c))
  let c := when (decide (old < top)) (raise Reg.MEM_EVENTS_REFRESH_UP) c
  modCount (288 + 16 * (d / 3) + 7) rfm (bump Reg.MEM_RFM_COUNT rfm c)

def execRefresh (device : Fin 12) (rate : Fin 3) (rfm : BitVec 16) (s : State) : Host.Outcome State Fault Refusal :=
  .next (onCtl (noteRefresh device rate rfm.toNat) s)

/-! ### Patrol scrub (R284, R287) -/

/-- The line that a word of a cache-mode unit belongs to: the ways of a set are taken in the order its lines stand (R260,
R262). -/
def lineAtWord (c : Ctl) (u off : Nat) : Option CacheLine :=
  let us := servingUnits c (u / 32)
  let pos := (findFrom (fun x => x == u) us 0).getD us.length
  (c.memory.cache.filter (fun y => y.die == copyOf c (u / 32) && homeOf us.length y.line == (pos, off / 4096)))[off / 256 % 16]?

/-- An uncorrectable word of a cache-mode unit: a clean line is invalidated, a dirty one poisoned (R258). -/
def spoilLine (y : CacheLine) (s : State) : State :=
  if y.dirty then updateLine { y with poisoned := true } s
  else setCache (s.c.memory.cache.filter (fun x => !(x.die == y.die && x.line == y.line))) s

/-- An error in a word of a cache-mode unit is found as it comes (DESIGN CHOICE, log entry 61): one bit is corrected. -/
def spoilWord (u a n : Nat) (s : State) : State :=
  if n ≤ 1 then onCtl (fun c => bump Reg.MEM_SRAM_CORR_COUNT 1 (noteCorrected c)) s
  else
    let s := onCtl (bump Reg.MEM_SRAM_UNCORR_COUNT 1) s
    match lineAtWord s.c u ((a - sramBase) % 0x4000000) with
    | some y => spoilLine y s
    | none => s

/-- An error comes to stand in memory, for the next read to meet. -/
def plantError (e : MemError) (s : State) : State :=
  match e with
  | .cells addr n =>
    let a := addr.toNat
    let stand := if n.toNat = 0 then s else setMem (fun m => { m with flaws := Map.put m.flaws (poisonBase a) n.toNat }) s
    match regionOf s.c a with
    | .sram u => if bit s.c.memory.cfg.unitMode u then (if n.toNat = 0 then s else spoilWord u a n.toNat s) else stand
    | .spad _ => stand
    | .lpddr => stand
    | _ => s
  | .link addr bits =>
    let a := addr.toNat
    if regionOf s.c a = .lpddr ∧ bits.toNat ≠ 0 then onCtl (onMem (fun m => { m with linkErrs := Map.put m.linkErrs (poisonBase a) bits.toNat })) s else s
  | .tags unit =>
    if bit s.c.memory.cfg.unitMode unit then onCtl (onMem (fun m => { m with badTags := (unit.toNat :: m.badTags).eraseDups })) s else s

/-- One access of the patrol at an address of LPDDR5X or bonded SRAM: the line or word is read and written back, and what stands there is
corrected or poisoned (R284). `errors` came to stand in memory before it; `last` ends a pass over LPDDR5X. A period of 0 stops
the patrol, and the errors wait for another read. -/
def execPatrolScrub (addr : BitVec 48) (errors : List MemError) (last : Bool) (s : State) : Host.Outcome State Fault Refusal :=
  let a := addr.toNat
  let s := errors.foldl (fun s e => plantError e s) s
  match regionOf s.c a with
  | .lpddr =>
    if rd s.c Reg.MEM_SCRUB_CTRL_LPDDR_PERIOD_H = 0 then .next s
    else
      let s := onCtl (fun c => wr Reg.MEM_SCRUB_STATUS_POSITION_GIB ((a - lpddrBase) / 2 ^ 30) (modCount (288 + 16 * (deviceOf c a / 3) + 13) 1 c)) s
      let s := if deviceLost s.c a then s else meetFlaws (poisonBase a) 1 s
      .next (if last then onCtl (fun c => raise Reg.MEM_EVENTS_SCRUB_PASS (bump Reg.MEM_SCRUB_STATUS_PASSES 1 c)) s else s)
  | .sram _ =>
    if rd s.c Reg.MEM_SCRUB_CTRL_SRAM_PERIOD_H = 0 then .next s else .next (meetFlaws a 1 s)
  | _ => .next s

/-! ### A lost device (R279) -/

def execDevOut (device : Fin 12) (s : State) : Host.Outcome State Fault Refusal :=
  .next (onCtl (fun c =>
    let d := device.toNat
    let m := rd c Reg.MEM_STATUS_DEV_IN_SERVICE
    if !bit m d then c
    else
      let c := onMem (fun x => { x with lostDevices := (d :: x.lostDevices).eraseDups }) (wr Reg.MEM_STATUS_DEV_IN_SERVICE (m - 2 ^ d) c)
      noteProfile (raise Reg.MEM_EVENTS_DEV_OUT c)) s)

end Sys2Proof.Machine
end

