-- ==== Sys2Proof/Machine/Clocks.lean ====
section
/-! DEFINITION. Clocks, droop and thermal control (R439 to R466). -/

namespace Sys2Proof.Machine

def onClk (f : ClkSt → ClkSt) (c : Ctl) : Ctl := { c with clk := f c.clk }

/-! ### Sources (R439, R440, R449, R450) -/

/-- The crystal is judged stable: the MG-die leaves its wait. -/
def crystalGood (c : Ctl) : Ctl :=
  if c.pwr.mg = 2 ∨ c.pwr.mg = 3 then c
  else setAlert Reg.MGT_ALERT_CAUSE_XO_LOST false (wr Reg.CLK_STATUS_XO_OK 1 { c with pwr := { c.pwr with mg := 0 } })

/-- 100 ms without a judgement: the MG-die holds itself in reset until input power is removed. -/
def execCrystalTimeout (s : State) : Host.Outcome State Fault Refusal :=
  .next (onCtl (fun c =>
    if rdb c Reg.CLK_STATUS_XO_OK || c.pwr.mg == 3 then c else driveFault { c with pwr := { c.pwr with mg := 2 } }) s)

/-- The frequency a source of a domain gives in MHz, none where the domain does not list it (R441). -/
def sourceMhz (c : Ctl) (dom src : Nat) : Option Nat :=
  let listed := if dom ≤ 8 then decide (src ≤ 1) else if dom ≤ 11 then decide (src = 0) else decide (dom = 12 ∧ (src = 0 ∨ src = 2))
  if listed then some (Map.getD 0 c.clk.plls (4 * dom + src)) else none

/-- The PLL of a source is locked: one that holds its last word is not. -/
def sourceLocked (c : Ctl) (dom src : Nat) : Bool :=
  (Map.get? c.clk.plls (4 * dom + src)).isSome && (if src = 2 then rdb c Reg.CLK_STATUS_XO_OK else rdb c Reg.CLK_STATUS_REFCLK_OK)

/-- A domain moves to a source: after the ramp its divider stands at 16/16 of it (R445). -/
def moveSource (dom src : Nat) (c : Ctl) : Ctl :=
  let c := wr (Reg.CLK_DOM_CTRL_SOURCE dom) src (wr (Reg.CLK_DOM_CTRL_DIV dom) 16 (wr (Reg.CLK_DOM_CTRL_SWITCHING dom) 0 c))
  let c := wr (Reg.CLK_DOM_FREQ_MHZ dom) (Map.getD 0 c.clk.plls (4 * dom + src)) c
  modCount 455 1 (raise Reg.CLK_EVENTS_SWITCH_DONE c)

def execRefclkLost (s : State) : Host.Outcome State Fault Refusal :=
  .next (onCtl (fun c =>
    if !rdb c Reg.CLK_STATUS_REFCLK_OK then c
    else
      let c := raise Reg.CLK_EVENTS_REFCLK_LOST (wr Reg.CLK_STATUS_REFCLK_OK 0 (wr Reg.CLK_STATUS_HOLDOVER 1 c))
      let c := modCount 456 1 (setAlert Reg.MGT_ALERT_CAUSE_REFCLK_LOST true c)
      if sourceLocked c 12 2 then moveSource 12 2 c else c) s)

/-- Qualified again for 10 ms. -/
def refclkBack (c : Ctl) : Ctl :=
  if rdb c Reg.CLK_STATUS_REFCLK_OK then c
  else
    let c := raise Reg.CLK_EVENTS_REFCLK_BACK (wr Reg.CLK_STATUS_REFCLK_OK 1 (wr Reg.CLK_STATUS_HOLDOVER 0 c))
    let c := setAlert Reg.MGT_ALERT_CAUSE_REFCLK_LOST false c
    if rd c (Reg.CLK_DOM_CTRL_SOURCE 12) = 2 ∧ sourceLocked c 12 0 then moveSource 12 0 c else c

/-- The crystal is lost: an alert, or, where Management runs on it, the MG-die goes back to judging it. -/
def execXoLost (s : State) : Host.Outcome State Fault Refusal :=
  .next (onCtl (fun c =>
    if !rdb c Reg.CLK_STATUS_XO_OK then c
    else
      let c := wr Reg.CLK_STATUS_XO_OK 0 c
      if rd c (Reg.CLK_DOM_CTRL_SOURCE 12) = 2 then { c with pwr := { c.pwr with mg := 1 } }
      else if rdb c Reg.CLK_STATUS_REFCLK_OK then setAlert Reg.MGT_ALERT_CAUSE_XO_LOST true (raise Reg.CLK_EVENTS_XO_LOST c)
      else c) s)

/-! ### Switching a source (R445 to R448) -/

/-- The sum of the ratios held, each for 256 output cycles: from `a` for `n` steps upward. -/
def ratioSum (a n : Nat) : Nat := n * a + n * (n - 1) / 2

/-- The duration of a switch from `fA` to `fB` MHz, in slots: the ramp down to half the lower, the handover, the ramp up
(R445). -/
def switchSlots (fA fB : Nat) : Nat :=
  if fA = 0 ∨ fB = 0 then 0
  else
    let low := Nat.min fA fB
    let j := Nat.max 16 (ceilDiv (32 * fA) low)
    let nB := Nat.max 16 (ceilDiv (fB * j) fA)
    let down := ceilDiv (16 * ratioSum 16 (j - 16) * 2 ^ 32) (fA * 1000000)
    let hand := ceilDiv (j * 2 ^ 32) (16 * fA * 1000000)
    let up := ceilDiv (16 * ratioSum 17 (nB - 16) * 2 ^ 32) (fB * 1000000)
    ceilDiv (down + hand + up) (2 ^ 14)

/-- The plan holds with a reservation added: running takes end before it, every deadline is met (R90, R447). -/
def reservationFits (r : Reservation) (c : Ctl) : Bool :=
  !c.ad.reservations.any (fun x => x.kind == 2 && decide (r.from_ < x.until_ ∧ x.from_ < r.until_)) &&
  c.ad.takes.all (fun e => !(e.2.leaf && e.2.st == .started && decide (r.from_ < e.2.reservedEnd) && (plainTiles c e.2.cell).any (fun i => r.tiles.contains i))) &&
  planFits { c with ad := { c.ad with reservations := r :: c.ad.reservations } } []

/-- The tiles of a core domain. -/
def dieTiles (d : Nat) : List Nat := (List.range 24).map (fun i => 24 * d + i)

/-- A free channel among 40 to 43. -/
def freeChannel (c : Ctl) : Option Nat := [40, 41, 42, 43].find? (fun n => !c.clk.switches.any (fun x => x.chan == n))

def showArmed (c : Ctl) : Ctl := wr Reg.CLK_SW_STATUS_ARMED c.clk.switches.length c

def refuseSwitch (code : Nat) (c : Ctl) : Ctl := raise Reg.CLK_EVENTS_SWITCH_REFUSED (wr Reg.CLK_SW_STATUS_REFUSAL code c)

/-- A write of CLK_SW_CMD: a switch is armed on its cue, or refused and nothing changes. -/
def requestSwitch (v : Nat) (c : Ctl) : Ctl :=
  let dom := bits v 0 4
  let src := bits v 4 2
  match sourceMhz c dom src with
  | none => refuseSwitch 3 c
  | some fB =>
    if rd c (Reg.CLK_DOM_CTRL_SOURCE dom) = src then refuseSwitch 2 c
    else if !sourceLocked c dom src then refuseSwitch 1 c
    else match freeChannel c with
      | none => refuseSwitch 5 c
      | some n =>
        let asked := rd64 c Reg.CLK_SW_TIME_LO_TIME Reg.CLK_SW_TIME_HI_TIME
        let t := if asked = 0 then slotCeil (now c + 2 ^ 14) else asked
        let r : Reservation := { kind := 2, tiles := dieTiles dom, from_ := t, until_ := t + switchSlots (rd c (Reg.CLK_DOM_FREQ_MHZ dom)) fB * 2 ^ 14 }
        if dom < 8 ∧ !reservationFits r c then refuseSwitch 4 c
        else
          let c := when (decide (dom < 8)) (fun c => replan false { c with ad := { c.ad with reservations := r :: c.ad.reservations } }) c
          let c := onClk (fun k => { k with switches := k.switches ++ [{ chan := n, dom := dom, source := src, at_ := t }] }) c
          showArmed (wr Reg.CLK_SW_STATUS_REFUSAL 0 (armChannel n t actSwitch (dom + 16 * src) 0 c))


/-- The switches due on a channel run; the reservation is spent. -/
def runSwitch (n : Nat) (c : Ctl) : Ctl :=
  match c.clk.switches.find? (fun x => x.chan == n) with
  | none => c
  | some x =>
    let c := showArmed (onClk (fun k => { k with switches := k.switches.filter (fun y => y.chan != n) }) c)
    let c := { c with ad := { c.ad with reservations := c.ad.reservations.filter (fun r => !(r.kind == 2 && r.from_ == x.at_ && r.tiles == dieTiles x.dom)) } }
    if sourceLocked c x.dom x.source then moveSource x.dom x.source c else c

/-! ### CLK_OBS and frequency counts (R451, R452) -/

/-- The frequency of an observable clock, in units of 10 kHz; none for a code that is refused. -/
def obsFreq (c : Ctl) (src : Nat) : Option Nat :=
  if src ≤ 13 then some (100 * rd c (Reg.CLK_DOM_FREQ_MHZ src))
  else if src = 16 then some 15625 else if src = 17 then some 1000 else if src = 18 then some 2500 else none

def obsWrite (v : Nat) (c : Ctl) : Ctl :=
  let src := bits v 0 5
  let n := bits v 8 4
  let c := wr Reg.CLK_OBS_SRC src (wr Reg.CLK_OBS_N n (wrb Reg.CLK_OBS_EN (bit v 12) c))
  let bad := match obsFreq c src with
    | some f => bit v 12 && decide (f > 20000 * 2 ^ n)
    | none => true
  when bad (raise Reg.CLK_EVENTS_OBS_REFUSED) (wrb Reg.CLK_OBS_REFUSED bad c)

def execClkObsWrite (value : BitVec 32) (s : State) : Host.Outcome State Fault Refusal := .next (onCtl (obsWrite value.toNat) s)

def countStart (v : Nat) (c : Ctl) : Ctl :=
  if (obsFreq c (bits v 0 5)).isNone then c
  else
    let c := wr Reg.CLK_FCOUNT_SEL_SRC (bits v 0 5) c
    if bit v 8 then onClk (fun k => { k with counting := some (now c) }) (wr Reg.CLK_FCOUNT_VALID 0 (wrb Reg.CLK_FCOUNT_GATE_XO (!rdb c Reg.CLK_STATUS_REFCLK_OK) c))
    else c

def execFcountStart (value : BitVec 32) (s : State) : Host.Outcome State Fault Refusal := .next (onCtl (countStart value.toNat) s)

/-- The gate of 1 ms ends with the result of the measurement (R452). -/
def doFcountDone (khz : BitVec 24) (s : State) : Host.Outcome State Fault Refusal :=
  match s.c.clk.counting with
  | none => .next s
  | some t =>
    .next (onCtl (fun c => wr Reg.CLK_FCOUNT_VALID 1 (wr Reg.CLK_FCOUNT_KHZ khz.toNat
      (onClk (fun k => { k with counting := none }) (advanceTo (t + usTu 1000) c)))) s)

def execClkTripClear (s : State) : Host.Outcome State Fault Refusal := .next (onCtl (wr Reg.CLK_TRIP_VALID 0) s)

/-! ### The ramp ladder and droop (R453 to R455) -/

/-- A quiet group asks for admission in core cycle `cycle` of its die; no admission follows another within 16 cycles. -/
def execLadderAdmission (group : Fin 48) (cycle : BitVec 64) (s : State) : Host.Outcome State Fault Refusal :=
  .next (onCtl (fun c =>
    let k := group.toNat / 6
    let at_ := match Map.get? c.clk.admitted k with
      | some x => Nat.max cycle.toNat (x + 16)
      | none => cycle.toNat
    let c := onClk (fun z => { z with admitted := Map.put z.admitted k at_ }) c
    let c := modCount (64 + 16 * k + 5) 1 (modCount (640 + 8 * group + 3) 1 c)
    if cycle.toNat < at_ then modCount (64 + 16 * k + 6) 1 (bump (Reg.CLK_LADDER_WAITS_COUNT k) 1 c) else c) s)

/-- A sensor reads `mv` below the set point; the stretch it begins lasts `cycles` in all. -/
def execDroop (die : Fin 8) (sensor : Fin 16) (mv : BitVec 8) (cycles : BitVec 32) (s : State) : Host.Outcome State Fault Refusal :=
  .next (onCtl (fun c =>
    if mv.toNat < 30 then c
    else
      let n := Nat.max 32 cycles.toNat
      let c := bump (Reg.CLK_DROOP_EVENTS_COUNT die) 1 (bump (Reg.CLK_DROOP_STRETCHED_CYCLES die) n (noteCorrected c))
      let c := modCount (64 + 16 * die + 2) n c
      if rd c (Reg.CLK_DROOP_WORST_MV die) < mv.toNat then
        wr (Reg.CLK_DROOP_WORST_MV die) mv.toNat (wr (Reg.CLK_DROOP_WORST_SENSOR die) sensor.toNat c)
      else c) s)

/-! ### Thermal control (R456 to R462) -/

def sensorsOf (die : Nat) : Nat := if die < 8 then 32 else 4

/-- The inlet temperature the plausibility checks use, in 0.1 °C. -/
def inletNow (c : Ctl) : Nat := if rdb c Reg.CLK_COOL_VALID then rd c Reg.CLK_COOL_TEMP else 450

/-- Exclude a sensor: cold, or flat under the rise test. -/
def exclude (die i : Nat) (cold : Bool) (c : Ctl) : Ctl :=
  let n := 32 * die + i
  let was := rdb c (Reg.CLK_TH_SENSOR_EXCL_COLD n) || rdb c (Reg.CLK_TH_SENSOR_EXCL_FLAT n)
  let c := wr (if cold then Reg.CLK_TH_SENSOR_EXCL_COLD n else Reg.CLK_TH_SENSOR_EXCL_FLAT n) 1 c
  let c := onClk (fun k => { k with passes := Map.del k.passes n }) (wr (Reg.CLK_TH_SENSOR_VALID n) 0 c)
  if was then c else modCount 457 1 (raise Reg.CLK_EVENTS_SENSOR_EXCLUDED c)

/-- The rise test of one sensor: three passes in a row admit an excluded sensor again. -/
def riseTest (die i rise : Nat) (c : Ctl) : Ctl :=
  let n := 32 * die + i
  if rise < 20 then exclude die i false c
  else if rdb c (Reg.CLK_TH_SENSOR_EXCL_COLD n) || rdb c (Reg.CLK_TH_SENSOR_EXCL_FLAT n) then
    let p := Map.getD 0 c.clk.passes n + 1
    if p ≥ 3 then
      wr (Reg.CLK_TH_SENSOR_EXCL_COLD n) 0 (wr (Reg.CLK_TH_SENSOR_EXCL_FLAT n) 0 (wr (Reg.CLK_TH_SENSOR_VALID n) 1
        (onClk (fun k => { k with passes := Map.del k.passes n }) c)))
    else onClk (fun k => { k with passes := Map.put k.passes n p }) c
  else c

/-- Intervals of 1 s follow one another; one in which the modelled power rose by 100 W or more tests the sensors. -/
def riseInterval (die power : Nat) (temps : List Nat) (c : Ctl) : Ctl :=
  let start := onClk (fun k => { k with rise := Map.put k.rise die (c.time.mono, power, temps) }) c
  match Map.get? c.clk.rise die with
  | none => start
  | some (t, p0, l0) =>
    if c.time.mono < t + 2 ^ 32 then c
    else if power < p0 + 100 then start
    else forEach (List.range (sensorsOf die)) (fun i c => riseTest die i (temps.getD i 0 - l0.getD i 0) c) start

/-- Valid sensors of a die, and the hottest reading among them. -/
def validOf (c : Ctl) (die : Nat) : List Nat :=
  ((List.range (sensorsOf die)).filter (fun i => rdb c (Reg.CLK_TH_SENSOR_VALID (32 * die + i)))).map (fun i => rd c (Reg.CLK_TH_SENSOR_TEMP (32 * die + i)))

/-- The state of throttling after a change (R458, R462). -/
def noteThrottle (k : Nat) (c : Ctl) : Ctl :=
  let t := decide (rd c (Reg.CLK_TH_CEIL_MHZ k) < 1650) || rdb c (Reg.CLK_TH_STATE_ISSUE_LIMIT k) || rdb c (Reg.CLK_TH_STATE_PINNED k)
  let was := rdb c (Reg.CLK_TH_STATE_THROTTLED k)
  noteLimits (when (t && !was) (raise Reg.CLK_EVENTS_THROTTLE) (wrb (Reg.CLK_TH_STATE_THROTTLED k) t c))

/-- A C-die's temperature is formed from its valid sensors (R456, R458, R462). -/
def judgeCdie (k : Nat) (c : Ctl) : Ctl :=
  let l := validOf c k
  let pinned := decide (l.length < 8)
  let was := rdb c (Reg.CLK_TH_STATE_PINNED k)
  let tmax := if pinned then rd c Reg.CLK_TH_LIMIT_THROTTLE else maxNat l
  let c := wr (Reg.CLK_TH_STATE_VALID k) l.length (wr (Reg.CLK_TH_STATE_TMAX k) tmax (wrb (Reg.CLK_TH_STATE_PINNED k) pinned c))
  let c := when (pinned && !was) (fun c => modCount 458 1 (raise Reg.CLK_EVENTS_DIE_PINNED c)) c
  let c := setAlert Reg.MGT_ALERT_CAUSE_DIE_PINNED ((List.range 8).any (fun d => rdb c (Reg.CLK_TH_STATE_PINNED d))) c
  let c := when l.isEmpty (fun c => noteProfile (wr (Reg.CLK_TH_CEIL_MHZ k) 600 c)) c
  let c := if tmax ≥ 1030 then wr (Reg.CLK_TH_STATE_ISSUE_LIMIT k) 1 c
    else if tmax < 1010 then wr (Reg.CLK_TH_STATE_ISSUE_LIMIT k) 0 c else c
  noteThrottle k c

/-- The hottest valid sensor of any other die (R459). -/
def judgeOthers (c : Ctl) : Ctl :=
  let best := (List.range 32).foldl (fun (b : Nat × Nat) j =>
    let t := maxNat (validOf c (8 + j))
    if b.1 < t then (t, 8 + j) else b) (0, 0)
  let hot := decide (best.1 ≥ 1000)
  let c := wr Reg.CLK_TH_OTHER_TMAX best.1 (wr Reg.CLK_TH_OTHER_DIE best.2 c)
  setAlert Reg.MGT_ALERT_CAUSE_OTHER_HOT hot (when (hot && !rdb c Reg.MGT_ALERT_CAUSE_OTHER_HOT) (raise Reg.CLK_EVENTS_OTHER_HOT) c)

/-- The sensors of a die are read, in 0.1 °C, with the modelled power of the die in W. -/
def execSensorRead (die : Fin 40) (temps : List (BitVec 12)) (power : BitVec 16) (s : State) : Host.Outcome State Fault Refusal :=
  .next (onCtl (fun c =>
    let l := (temps.take (sensorsOf die)).map (fun t => t.toNat)
    let c := forEach ((List.range l.length).zip l) (fun e c =>
      let n := 32 * die.toNat + e.1
      let c := wr (Reg.CLK_TH_SENSOR_TEMP n) e.2 c
      if e.2 + 10 < inletNow c then exclude die e.1 true c
      else
        let c := when (decide (e.2 < inletNow c)) (onClk (fun k => { k with passes := Map.del k.passes n })) c
        wrb (Reg.CLK_TH_SENSOR_VALID n) (!rdb c (Reg.CLK_TH_SENSOR_EXCL_COLD n) && !rdb c (Reg.CLK_TH_SENSOR_EXCL_FLAT n)) c) c
    let c := riseInterval die power.toNat l c
    let c := when (decide (die.toNat < 8)) (fun c => wr (Reg.CLK_TH_EXCLUDED_SENSORS die)
      (ofBits (fun i => rdb c (Reg.CLK_TH_SENSOR_EXCL_COLD (32 * die + i)) || rdb c (Reg.CLK_TH_SENSOR_EXCL_FLAT (32 * die + i))) 32) c) c
    if die.toNat < 8 then judgeCdie die c else judgeOthers c) s)

/-- The next ceiling of a C-die (R457, R462). -/
def nextCeiling (c : Ctl) (k : Nat) : Nat :=
  let old := rd c (Reg.CLK_TH_CEIL_MHZ k)
  let t := rd c (Reg.CLK_TH_STATE_TMAX k)
  let limit := rd c Reg.CLK_TH_LIMIT_THROTTLE
  if t = 0xFFF then old
  else if rdb c (Reg.CLK_TH_STATE_PINNED k) then
    if rd c (Reg.CLK_TH_STATE_VALID k) = 0 then 600
    else if old ≤ assuredClock (rd c Reg.GAF_LEVEL_E) then old else Nat.max 400 (old - 20)
  else if t ≥ limit then Nat.max 400 (old - 20)
  else if t + 20 ≤ limit then Nat.min 1650 (old + 10)
  else old

/-- Every 100 µs. -/
def execThermalCeilingUpdate (die : Fin 8) (s : State) : Host.Outcome State Fault Refusal :=
  .next (onCtl (fun c =>
    let k := die.toNat
    let c := noteThrottle k (wr (Reg.CLK_TH_CEIL_MHZ k) (nextCeiling c k) c)
    let c := when (rdb c (Reg.CLK_TH_STATE_THROTTLED k)) (fun c =>
      let n := Map.getD 0 c.clk.throttled k + 1
      let c := modCount (64 + 16 * k + 4) (100 * rd c (Reg.CLK_DOM_FREQ_MHZ k)) (onClk (fun z => { z with throttled := Map.put z.throttled k (n % 10) }) c)
      when (decide (n % 10 = 0)) (bump (Reg.CLK_TH_THROTTLE_MS_MS k) 1) c) c
    if rd c (Reg.CLK_DOM_FREQ_MHZ k) = 0 then c
    else wr (Reg.CLK_DOM_FREQ_MHZ k) (Nat.min (rd c (Reg.CLK_DOM_FREQ_MHZ k)) (rd c (Reg.CLK_TH_CEIL_MHZ k))) c) s)

/-- A valid sensor reaches 115 °C: the V-die rails go, FAULT_n latches; on the MG-die its rail goes as well. The next boot reports the
die and sensor, and the takes end at its replay (R110, R460). -/
def execOverTemperatureTrip (die : Fin 40) (sensor : Fin 32) (s : State) : Host.Outcome State Fault Refusal :=
  let n := 32 * die.toNat + sensor
  if rdb s.c (Reg.CLK_TH_SENSOR_EXCL_COLD n) || rdb s.c (Reg.CLK_TH_SENSOR_EXCL_FLAT n) || decide (sensorsOf die ≤ sensor.toNat) || s.c.flt.tripLatch
  then .next s
  else
    .next (onCtl (fun c =>
      let c := unboundedFall (rd c Reg.GAF_P_CTL_P_CTL)
        (driveFault (onFlt (fun f => { f with tripLatch := true, trip := some (die.toNat, sensor.toNat) }) c))
      let c := onGaf (fun g => { g with railsOff := true }) { disarm 32 c with pwr := { c.pwr with rails := false, mg := if die.toNat = 35 then 3 else c.pwr.mg } }
      if rdb c Reg.FLT_STATUS_FATAL then c
      else
        let c := raise Reg.FLT_EVENTS_FATAL (wr Reg.FLT_STATUS_FATAL 1 (bump Reg.FLT_COUNT_FATAL_COUNT 1 c))
        noteProfile (addLog 4 die 0x0701 0x30000000 (moduleGen c) 0xFF 0 c)) s)

/-! ### Coolant inlet and leak loop (R463 to R465) -/

/-- The inlet NTC: its resistance in Ω and the temperature it gives in 0.1 °C. -/
def execCoolantRead (ohms : BitVec 32) (temp : BitVec 12) (s : State) : Host.Outcome State Fault Refusal :=
  .next (onCtl (fun c =>
    let open_ := decide (ohms.toNat > 500000)
    let short := decide (ohms.toNat < 200)
    let valid := !open_ && !short
    let high := valid && decide (temp.toNat > 450)
    let wasBad := rdb c Reg.CLK_COOL_OPEN || rdb c Reg.CLK_COOL_SHORT
    let wasHigh := rdb c Reg.CLK_COOL_HIGH
    let c := when valid (wr Reg.CLK_COOL_TEMP temp.toNat) c
    let c := wrb Reg.CLK_COOL_VALID valid (wrb Reg.CLK_COOL_OPEN open_ (wrb Reg.CLK_COOL_SHORT short (wrb Reg.CLK_COOL_HIGH high c)))
    let c := when (!valid && !wasBad) (fun c => modCount 460 1 (raise Reg.CLK_EVENTS_COOL_FAULT c)) c
    let c := when (high && !wasHigh) (raise Reg.CLK_EVENTS_COOL_HIGH) c
    setAlert Reg.MGT_ALERT_CAUSE_COOL_FAULT (!valid) (setAlert Reg.MGT_ALERT_CAUSE_COOL_HIGH high c)) s)

/-- The state a loop resistance in Ω reads as: 0 dry, 1 marginal, 2 wet, 4 open (R464). -/
def leakState (ohms : Nat) : Nat :=
  if ohms < 2000 then 2 else if ohms < 5000 then 1 else if ohms ≤ 20000 then 0 else if ohms ≤ 100000 then 1 else 4

/-- A state of the loop is entered and acted on; a wet loop begins a controlled shutdown, to the draw of the minimum
settings. -/
def enterLeak (st draw : Nat) (c : Ctl) : Ctl :=
  let c := modCount 459 1 (wr Reg.CLK_LEAK_STATE st c)
  let c := setAlert Reg.MGT_ALERT_CAUSE_LEAK_MARGINAL (st == 1) (setAlert Reg.MGT_ALERT_CAUSE_LEAK_OPEN (st == 4) c)
  match st with
  | 1 => raise Reg.CLK_EVENTS_LEAK_MARGINAL c
  | 2 => controlledShutdown draw (driveFault (raise Reg.CLK_EVENTS_LEAK_WET (onFlt (fun f => { f with leakLatch := true }) c)))
  | 4 => raise Reg.CLK_EVENTS_LEAK_OPEN c
  | _ => c

/-- Every 10 ms; the fifth reading in a row in one range enters its state. -/
def doLeakLoopRead (ohms : BitVec 32) (draw : BitVec 16) (s : State) : Host.Outcome State Fault Refusal :=
  gafRow (fun c =>
    let st := leakState ohms.toNat
    let n := if c.clk.leakRun.1 = st then c.clk.leakRun.2 + 1 else 1
    let c := onClk (fun k => { k with leakRun := (st, Nat.min n 5) }) (wr Reg.CLK_LEAK_RES (Nat.min 0xFFFF (ohms.toNat / 10)) c)
    if n ≥ 5 ∧ rd c Reg.CLK_LEAK_STATE ≠ st then enterLeak st draw.toNat c else c) s

end Sys2Proof.Machine
end

