-- ==== Sys2Proof/Machine/Security.lean ====
section
/-! DEFINITION. Records, debug tokens, slice keys, quotes (R517 to R541). Whether a signature or a seal verifies comes with
the command (log entry 40). -/

namespace Sys2Proof.Machine

def onSec (f : SecSt → SecSt) (c : Ctl) : Ctl := { c with sec := f c.sec }

/-- The answer with a code of R556 that SEC_REFUSAL keeps. -/
def secReply (code : Nat) (payload : List Byte) (s : State) : Reply := (0x0200 + code, payload, onCtl (wr Reg.SEC_REFUSAL_CODE code) s)

/-- Every byte of a range is zero. -/
def zerosAt (b : List Byte) (off len : Nat) : Bool := (sub b off len).all (fun x => x == 0)

def serialNo (c : Ctl) : Nat := rd64 c Reg.SEC_SERIAL_LO_SERIAL Reg.SEC_SERIAL_HI_SERIAL

def revoked (c : Ctl) (key : Nat) : Bool := bit (rd c Reg.SEC_STATUS_REVOKED) key

/-! ### Records (R524 to R526) -/

/-- Step 1: the header is that of R524 and its length is that of the whole. -/
def recordForm (b : List Byte) : Bool :=
  let typ := leAt b 4 1
  let svn := leAt b 20 2
  let l := leAt b 24 4
  leAt b 0 4 == 0x44524B5A && (typ == 2 || typ == 3) && leAt b 5 1 == 1 && zerosAt b 22 2 && zerosAt b 28 36 &&
  decide (svn ≤ (if typ = 2 then 511 else 0)) && decide (1 ≤ l ∧ l ≤ 262144) && b.length == 64 + l + 4627

def recordSigner (c : Ctl) (b : List Byte) : Bool :=
  let k := leAt b 6 2
  if k = 0xFF then leAt b 4 1 == 3 else (k == 4 || k == 5) && !revoked c k

/-- The record held of a type. -/
def recordHeld (c : Ctl) (typ : Nat) : Option Record := if typ = 2 then c.sec.cfg else c.sec.repair

def recordSeq (r : Option Record) : Nat := (r.map (fun x => leAt x.bytes 16 4)).getD 0

/-- The ordering code the module has: 0 for NZ40-1600-768, 1 for NZ40-1200-768. -/
def orderingNow (c : Ctl) : Nat := (c.sec.cfg.map (fun r => r.content.ordering)).getD 0

/-- A key of each range stays unrevoked. -/
def maskLeaves (m : Nat) : Bool := m % 16 != 15 && m / 16 % 4 != 3 && m / 64 % 4 != 3

/-- The code of the first check of R526 that fails; 0 when the record is accepted. -/
def recordCode (c : Ctl) (b : List Byte) (x : RecContent) (sigOk : Bool) : Nat :=
  let typ := leAt b 4 1
  let svn := leAt b 20 2
  if !recordForm b then 0x08
  else if leAt b 8 8 ≠ serialNo c then 0x04
  else if !recordSigner c b then 0x03
  else if !sigOk then 0x02
  else if leAt b 16 4 ≤ recordSeq (recordHeld c typ) ∧ (recordHeld c typ).isSome then 0x07
  else if typ = 2 ∧ (svn < rd c (Reg.SEC_ARC_VALUE 1) ∨ svn = 511) then 0x05
  else if typ = 2 ∧ (x.ordering ≠ orderingNow c ∨ (if x.ordering = 0 then 1600 else 1200) < x.ceiling ∨ !maskLeaves x.mask) then 0x11
  else 0

/-- An accepted record is written over its older copy; it takes effect at a reset (R525). -/
def storeRecord (b : List Byte) (x : RecContent) (c : Ctl) : Ctl :=
  let r : Record := { bytes := b, content := x }
  let seq := leAt b 16 2
  let c := raise Reg.SEC_EVENTS_RECORD_LOADED c
  if leAt b 4 1 = 2 then wr Reg.SEC_RECORD_SEQ_CFG_SEQ seq (wr Reg.SEC_STATUS_CFG_OK 1 (onSec (fun s => { s with cfg := some r }) c))
  else wr Reg.SEC_RECORD_SEQ_REPAIR_SEQ seq (wr Reg.SEC_STATUS_REPAIR_OK 1 (wrb Reg.SEC_STATUS_REPAIR_SELF (leAt b 6 2 == 0xFF)
    (onSec (fun s => { s with repair := some r }) c)))

def loadRecord (b : List Byte) (x : RecContent) (sigOk : Bool) (s : State) : Reply :=
  let code := recordCode s.c b x sigOk
  if code = 0 then secReply 0 [] (onCtl (storeRecord b x) s) else secReply code [] (onCtl (raise Reg.SEC_EVENTS_RECORD_REFUSED) s)

/-- RECORD_LOAD; the content is what the payload says, whose layout the spec does not give. -/
def execRecordLoad (req : Req) (bytes : List Byte) (content : RecContent) (sigOk : Bool) (s : State) : Host.Outcome State Fault Refusal :=
  .next (mgmtReq (.recordLoad req bytes content sigOk) 0x41 req bytes.length (loadRecord bytes content sigOk) s)

/-- An anti-rollback counter advances (R529). -/
def advanceArc (n v : Nat) (c : Ctl) : Ctl :=
  if rd c (Reg.SEC_ARC_VALUE n) < v then raise Reg.SEC_EVENTS_ARC_ADVANCED (wr (Reg.SEC_ARC_VALUE n) v c) else c

/-- The configuration record held takes effect at a module reset (R525, R529): caps, mask, rail limits. -/
def applyConfig (cold : Bool) (c : Ctl) : Ctl :=
  match c.sec.cfg with
  | none => c
  | some r =>
    let x := r.content
    let c := onSec (fun s => { s with cfgNow := some r }) c
    let c := wr Reg.GAF_CFG_CFG_CEIL x.ceiling (wr Reg.GAF_CFG_ORPHAN x.orphan (wr Reg.SEC_STATUS_REVOKED x.mask c))
    let c := forEach ((List.range 4).zip x.railLimits) (fun e c => wr (Reg.GAF_RAIL_LIMIT e.1) (Nat.min e.2 (Config.railMax e.1).toNat) c) c
    let c := if cold then wr Reg.GAF_LIMITS_CEIL x.ceiling (wr Reg.GAF_CAP_CAP x.orphan c)
      else wr Reg.GAF_LIMITS_CEIL (Nat.min (rd c Reg.GAF_LIMITS_CEIL) x.ceiling) c
    let c := wr Reg.GAF_LIMITS_FLOOR (Nat.min (rd c Reg.GAF_LIMITS_FLOOR) x.ceiling) (wr Reg.GAF_CAP_CAP (Nat.min (rd c Reg.GAF_CAP_CAP) x.ceiling) c)
    advanceArc 2 x.minEpoch (advanceArc 1 (leAt r.bytes 20 2) c)

/-! ### The TRNG (R520) -/

def execTrngFail (s : State) : Host.Outcome State Fault Refusal :=
  .next (onCtl (fun c => setAlert Reg.MGT_ALERT_CAUSE_TRNG_FAIL true (raise Reg.SEC_EVENTS_TRNG_FAIL (wr Reg.SEC_TRNG_HEALTHY 0 c))) s)

def execTrngHealthy (s : State) : Host.Outcome State Fault Refusal :=
  .next (onCtl (fun c => setAlert Reg.MGT_ALERT_CAUSE_TRNG_FAIL false (wr Reg.SEC_TRNG_HEALTHY 1 c)) s)

/-! ### Debug (R539 to R541) -/

def tokenForm (b : List Byte) : Bool :=
  b.length == 4691 && leAt b 0 4 == 0x4B544B5A && leAt b 4 2 == 1 && zerosAt b 7 1 && zerosAt b 18 2 && zerosAt b 40 24 &&
  decide (leAt b 16 2 ≤ 511) && decide (leAt b 20 4 < 8)

/-- The code of the first check that fails. -/
def tokenCode (c : Ctl) (b : List Byte) (sigOk : Bool) : Nat :=
  let k := leAt b 6 1
  let epoch := leAt b 16 2
  if !tokenForm b then 0x08
  else if leAt b 8 8 ≠ serialNo c then 0x04
  else if (k ≠ 6 ∧ k ≠ 7) ∨ revoked c k then 0x03
  else if !sigOk then 0x02
  else if epoch < rd c (Reg.SEC_ARC_VALUE 2) ∨ epoch = 511 then 0x05
  else if lockOf c < 3 ∨ now c < leAt b 24 8 ∨ leAt b 32 8 < now c then 0x10
  else if sliceNow c ≠ 0 then 0x0F
  else if rdb c Reg.SEC_STATUS_DEBUG_ACTIVE then 0x0B
  else 0

def m6Now (c : Ctl) : List Byte := padTo 32 c.sec.m6

/-- A token is accepted: M6 is extended, the permissions granted. -/
def grant (b : List Byte) (c : Ctl) : Ctl :=
  let c := onSec (fun s => { s with m6 := sha3_256 (m6Now c ++ sha3_256 b) }) c
  let c := wr Reg.SEC_STATUS_DEBUG_ACTIVE 1 (wr Reg.SEC_DEBUG_PERMS (leAt b 20 4) (wr Reg.SEC_DEBUG_EPOCH (leAt b 16 2) c))
  raise Reg.SEC_EVENTS_DEBUG_ON (wr64 Reg.SEC_DEBUG_END_LO_TIME Reg.SEC_DEBUG_END_HI_TIME (leAt b 32 8) c)

def loadToken (b : List Byte) (sigOk : Bool) (s : State) : Reply :=
  let code := tokenCode s.c b sigOk
  if code = 0 then secReply 0 [] (onCtl (grant b) s) else secReply code [] (onCtl (raise Reg.SEC_EVENTS_DEBUG_REFUSED) s)

def execDebugToken (req : Req) (bytes : List Byte) (sigOk : Bool) (s : State) : Host.Outcome State Fault Refusal :=
  .next (mgmtReq (.debugToken req bytes sigOk) 0x42 req bytes.length (loadToken bytes sigOk) s)

/-- The permissions end: at not-after, or at a module reset. -/
def endToken (c : Ctl) : Ctl :=
  let c := wr Reg.SEC_STATUS_DEBUG_ACTIVE 0 (wr Reg.SEC_DEBUG_PERMS 0 (wr Reg.SEC_DEBUG_EPOCH 0 c))
  onSec (fun s => { s with jtag := if s.jtag = 6 then 0 else s.jtag }) (wr64 Reg.SEC_DEBUG_END_LO_TIME Reg.SEC_DEBUG_END_HI_TIME 0 c)

def doDebugTokenExpiry (s : State) : Host.Outcome State Fault Refusal :=
  .next (onCtl (fun c =>
    if rdb c Reg.SEC_STATUS_DEBUG_ACTIVE then endToken (advanceTo (rd64 c Reg.SEC_DEBUG_END_LO_TIME Reg.SEC_DEBUG_END_HI_TIME) c) else c) s)

/-- The instruction that takes effect (R539): the EXTEST class only in recovery entered through BOOT_HOLD, others only by a
token. -/
def jtagEffect (c : Ctl) (i : Nat) : Nat :=
  if i ≤ 2 then i
  else if i ≤ 5 then (if rdb c Reg.SEC_STATUS_RECOVERY && rdb c Reg.MGT_STRAPS_BOOT_HOLD then i else 0)
  else if rdb c Reg.SEC_STATUS_DEBUG_ACTIVE && bit (rd c Reg.SEC_DEBUG_PERMS) 0 then 6 else 0

/-- 0 BYPASS, 1 IDCODE, 2 SAMPLE/PRELOAD, 3 EXTEST, 4 EXTEST_PULSE, 5 EXTEST_TRAIN, 6 any other. IDCODE shifts out the
value of the identity record. -/
def execJtagInstruction (instr : Fin 7) (s : State) : Host.Outcome State Fault Refusal :=
  .next (onCtl (fun c =>
    let i := jtagEffect c instr
    let c := onSec (fun s => { s with jtag := i }) c
    if i = 1 then emit (.word (rd c Reg.SEC_JTAG_ID_IDCODE)) c else c) s)

/-! ### Measurements and quotes (R535, R536) -/

def zeros32 : List Byte := List.replicate 32 0

/-- Measurement m of R535. -/
def measure (c : Ctl) (m : Nat) : List Byte :=
  let rec_ := fun (r : Option Record) => (r.map (fun x => sha3_256 x.bytes)).getD zeros32
  match m with
  | 0 => (List.range 32).map Config.romDigest
  | 1 => padTo 32 c.upd.slotA.digest
  | 2 => padTo 32 c.upd.slotB.digest
  | 3 => rec_ c.sec.cfgNow
  | 4 => rec_ c.sec.repairNow
  | 5 => padTo 32 c.sec.m5
  | 6 => m6Now c
  | _ => padTo 32 c.sec.m7

/-- Bytes 0 to 351 of a quote. -/
def quoteHead (nonce : List Byte) (c : Ctl) : List Byte :=
  let flags := rd c Reg.UPD_STATUS_SLOT + 2 * rd c Reg.UPD_STATUS_TRIAL + 4 * rd c Reg.SEC_STATUS_DEBUG_ACTIVE + 8 * rd c Reg.FAB_STATUS_RT_HASH_VALID
  leBytes 4 0x54514B5A ++ leBytes 2 1 ++ leBytes 1 flags ++ leBytes 1 (lockOf c) ++ leBytes 8 (now c) ++ leBytes 2 (moduleGen c)
    ++ leBytes 2 (sliceNow c) ++ (List.range 3).flatMap (fun k => leBytes 2 (rd c (Reg.SEC_ARC_VALUE k))) ++ leBytes 2 c.flt.profileSeq
    ++ leBytes 4 0 ++ padTo 32 nonce ++ padTo 32 (if rdb c Reg.SEC_STATUS_IMPORT_OPEN then c.sec.binding else [])
    ++ (List.range 8).flatMap (measure c)

/-- Ten quotes a second: may another be signed (R536)? -/
def quoteFree (c : Ctl) : Bool := decide ((c.sec.quotes.filter (fun t => decide (c.time.mono < t + 2 ^ 32))).length < 10)

/-- The measurements are formed at the boot: the record held takes effect, the alias key is derived and its certificate signed (R522, R530
step 8). -/
def formAlias (slot : Nat) (c : Ctl) : Ctl :=
  let c := onSec (fun s => { s with repairNow := match s.repair with
    | some r => some r
    | none => s.repairNow }) c
  let gen := leBytes 2 (moduleGen c)
  let (rnd, c) := freshBytes 32 c
  onSec (fun s => { s with
    aliasSeed := aliasSeed (measure c 0 ++ measure c (1 + slot) ++ measure c 3 ++ measure c 4 ++ gen),
    aliasMsg := (List.range 5).flatMap (measure c) ++ gen, aliasRnd := rnd }) c

/-- The alias certificate: the identity key's signature over the alias key, M0 to M4 and the generation (R536). -/
def aliasCert (c : Ctl) : List Byte :=
  dsa44Sign identitySeed (asciiBytes "ZHOUD-ALIAS" ++ dsa44Key c.sec.aliasSeed ++ c.sec.aliasMsg) c.sec.aliasRnd

/-- Sign a quote with the alias key. -/
def quote (nonce : List Byte) (c : Ctl) : List Byte × Ctl :=
  let (rnd, c) := freshBytes 32 c
  let body := quoteHead nonce c ++ dsa44Key c.sec.aliasSeed ++ aliasCert c
  let c := onSec (fun s => { s with quotes := (c.time.mono :: s.quotes).take 10 }) (bump Reg.SEC_QUOTES_COUNT 1 c)
  (body ++ dsa44Sign c.sec.aliasSeed body rnd, c)

def attest (b : List Byte) (s : State) : Reply :=
  if b.length ≠ 32 then (0x0002, [], s)
  else if !quoteFree s.c then (0x0004, [], s)
  else if !rdb s.c Reg.SEC_TRNG_HEALTHY then (0x0003, [], s)
  else
    let (q, c) := quote b s.c
    (0, q, { s with c := c })

def execAttest (req : Req) (bytes : List Byte) (s : State) : Host.Outcome State Fault Refusal :=
  .next (mgmtReq (.attest req bytes) 0x40 req bytes.length (attest bytes) s)

/-! ### Slice keys (R537, R538) -/

/-- A slice key of 64 bytes is loaded into the M-dies and kept in MRAM, wrapped under a nonce of its own. -/
def loadKey (k : List Byte) (c : Ctl) : Ctl :=
  let (nonce, c) := freshBytes 12 c
  let c := onSec (fun s => { s with wrapped := nonce ++ gcmSeal wrapKey nonce [] k }) c
  raise Reg.SEC_EVENTS_KEY_LOADED (wr Reg.MEM_ENC_CTRL_KEY_PRESENT 1 { c with memory := { c.memory with sliceKey := some k } })

/-- A key may enter only while encryption is in effect. -/
def keyDoor (s : State) (trng : Bool) (f : State → Reply) : Reply :=
  if !rdb s.c Reg.MEM_ENC_CTRL_ACTIVE then (0x0003, [], s)
  else if s.c.memory.sliceKey.isSome then secReply 0x14 [] s
  else if trng && !rdb s.c Reg.SEC_TRNG_HEALTHY then (0x0003, [], s)
  else f s

def execSliceKeyGenerate (req : Req) (bytes : List Byte) (s : State) : Host.Outcome State Fault Refusal :=
  .next (mgmtReq (.sliceKeyGenerate req bytes) 0x43 req bytes.length (fun s =>
    if bytes.length ≠ 1 ∨ leAt bytes 0 1 ≠ 1 then secReply 0x08 [] s
    else keyDoor s true (fun s => secReply 0 [] (onCtl (fun c => loadKey (freshBytes 64 c).1 (freshBytes 64 c).2) s))) s)

def closeImport (c : Ctl) : Ctl := onSec (fun s => { s with importAt := none, binding := [], importSeed := [] }) (wr Reg.SEC_STATUS_IMPORT_OPEN 0 c)

def execSliceKeyImportOpen (req : Req) (bytes : List Byte) (s : State) : Host.Outcome State Fault Refusal :=
  .next (mgmtReq (.sliceKeyImportOpen req bytes) 0x43 req bytes.length (fun s =>
    if bytes.length ≠ 1 ∨ leAt bytes 0 1 ≠ 2 then secReply 0x08 [] s
    else if !rdb s.c Reg.SEC_TRNG_HEALTHY then (0x0003, [], s)
    else
      let (seed, c) := freshBytes 64 s.c
      let c := onSec (fun x => { x with importAt := some c.time.mono, binding := sha3_256 (kemKey seed), importSeed := seed }) (wr Reg.SEC_STATUS_IMPORT_OPEN 1 c)
      secReply 0 (kemKey seed) { s with c := c }) s)

/-- The slice key that a sealed import brings (R538 step 3). -/
def importedKey (c : Ctl) (ct box : List Byte) : List Byte :=
  gcmOpen (shake256 32 (kemSecret c.sec.importSeed ct ++ asciiBytes "ZHOUD-SLICEKEY" ++ leBytes 2 (sliceNow c))) (List.replicate 12 0) box

/-- The ciphertext and the sealed key come; `sealOk` says whether the seal opens: it does not under another key. -/
def execSliceKeyImport (req : Req) (bytes : List Byte) (sealOk : Bool) (s : State) : Host.Outcome State Fault Refusal :=
  .next (mgmtReq (.sliceKeyImport req bytes sealOk) 0x43 req bytes.length (fun s =>
    if bytes.length ≠ 1169 ∨ leAt bytes 0 1 ≠ 3 then secReply 0x08 [] s
    else
      let live := match s.c.sec.importAt with
        | some t => decide (s.c.time.mono < t + 60 * 2 ^ 32)
        | none => false
      if !live then secReply 0x13 [] s
      else keyDoor s false (fun s =>
        if sealOk then secReply 0 [] (onCtl (fun c => loadKey (importedKey c (sub bytes 1 1088) (sub bytes 1089 80)) (closeImport c)) s) else secReply 0x02 [] (onCtl closeImport s))) s)

/-- 60 s after its opening. -/
def doImportTimeout (s : State) : Host.Outcome State Fault Refusal :=
  .next (onCtl (fun c => match c.sec.importAt with
    | some t => closeImport (passTime (t + 60 * 2 ^ 32 - c.time.mono) c)
    | none => c) s)

end Sys2Proof.Machine
end

