-- ==== Sys2Proof/Machine/Update.lean ====
section
/-! DEFINITION. Cans and their slots, splices, activation, the health window's conditions (R542 to R554). -/

namespace Sys2Proof.Machine

def onUpd (f : UpdSt → UpdSt) (c : Ctl) : Ctl := { c with upd := f c.upd }

/-! ### NOR flash and slots (R531, R542, R543) -/

/-- Bytes of the NOR flash. -/
def norBytes (c : Ctl) (a n : Nat) : List Byte := (List.range n).map (fun k => Map.getD 0 c.upd.nor (a + k))

def norWrite (a : Nat) (b : List Byte) (c : Ctl) : Ctl :=
  onUpd (fun u => { u with nor := ((List.range b.length).zip b).foldl (fun m e => Map.setD 0 m (a + e.1) e.2) u.nor }) c

/-- Where a slot begins: A at 0, B at 480 MiB. -/
def slotBase (k : Nat) : Nat := if k = 0 then 0 else 0x1E000000

def slotNo (c : Ctl) (k : Nat) : Slot := if k = 0 then c.upd.slotA else c.upd.slotB

def setSlot (k : Nat) (x : Slot) (c : Ctl) : Ctl := onUpd (fun u => if k = 0 then { u with slotA := x } else { u with slotB := x }) c

/-- The state shown of a slot: 0 empty or failed, 1 incomplete, 2 ready, 3 booted. -/
def slotState (c : Ctl) (k : Nat) : Nat := rd c (if k = 0 then Reg.UPD_STATUS_STATE_A else Reg.UPD_STATUS_STATE_B)

def setSlotState (k v : Nat) (c : Ctl) : Ctl := wr (if k = 0 then Reg.UPD_STATUS_STATE_A else Reg.UPD_STATUS_STATE_B) v c

def bootedSlot (c : Ctl) : Nat := rd c Reg.UPD_STATUS_SLOT
def spareSlot (c : Ctl) : Nat := 1 - bootedSlot c

/-- A slot is marked failed, which ends a splice into it. -/
def failSlot (k : Nat) (c : Ctl) : Ctl :=
  let c := setSlotState k 0 (setSlot k { slotNo c k with failed := true } c)
  raise Reg.UPD_EVENTS_SLOT_FAILED (if k = spareSlot c then onUpd (fun u => { u with manifest := none, bitmap := 0 }) c else c)

/-- An entry of the image list: type, offset, length, digest, whether its zero bytes are zero. -/
def canImage (h : List Byte) (i : Nat) : Nat × Nat × Nat × List Byte × Bool :=
  let o := 64 + 64 * i
  (leAt h o 1, leAt h (o + 4) 4, leAt h (o + 8) 4, sub h (o + 32) 32, zerosAt h (o + 1) 3 && zerosAt h (o + 12) 20)

/-- The form of a can's header (R542, R543): each of the seven image types once. -/
def canForm (h : List Byte) : Bool :=
  let n := leAt h 7 1
  let len := leAt h 24 4
  let ims := (List.range n).map (canImage h)
  leAt h 0 4 == 0x4E414B5A && leAt h 4 2 == 1 && n == 7 && zerosAt h 18 6 && zerosAt h 28 36 && decide (len ≤ 0x1E000000) &&
  zerosAt h (64 + 64 * n) (64 * (16 - n)) &&
  ims.all (fun x => x.2.2.2.2 && decide (8192 ≤ x.2.1) && x.2.1 % 4096 == 0 && decide (x.2.1 + x.2.2.1 ≤ len) && (x.1 != 1 || decide (x.2.2.1 ≤ 0x800000))) &&
  (List.range 7).all (fun t => (ims.filter (fun x => x.1 == t + 1)).length == 1)

/-- The code of the first check a can fails; 0 when it verifies. `sigOk` says whether its signature does. -/
def canCode (c : Ctl) (base : Nat) (sigOk : Bool) : Nat :=
  let h := norBytes c base 5715
  let svn := leAt h 16 2
  if !canForm h then 0x08
  else if leAt h 6 1 > 3 ∨ revoked c (leAt h 6 1) then 0x03
  else if !sigOk then 0x02
  else if svn < rd c (Reg.SEC_ARC_VALUE 0) ∨ 511 ≤ svn then 0x05
  else if !((List.range 7).all (fun i => let x := canImage h i
    sha3_256 (norBytes c (base + x.2.1) x.2.2.1) == x.2.2.2.1)) then 0x08
  else 0

def slotFromNor (c : Ctl) (k : Nat) : Slot :=
  let h := norBytes c (slotBase k) 5715
  { version := leAt h 8 8, svn := leAt h 16 2, digest := sha3_256 h, failed := false }

/-! ### Splices (R544 to R549) -/

/-- An answer with a code of R556 that UPD_REFUSAL keeps, and the bitmap's count and first clear bit (R548). -/
def updReply (code : Nat) (s : State) : Reply :=
  let n := match s.c.upd.manifest with
    | some m => m.n
    | none => 0
  let clear := ((List.range n).find? (fun k => !bit s.c.upd.bitmap k)).getD n
  (0x0200 + code, leBytes 4 (popCount s.c.upd.bitmap n) ++ leBytes 4 clear, onCtl (wr Reg.UPD_REFUSAL_CODE code) s)

/-- A splice item by either way (R547): over Ethernet the answer goes back to its sender. -/
def viaReq (self : Instr) (via : Via) (len : Nat) (act : State → Reply) (s : State) : State :=
  match via with
  | .port r => mgmtReq self 0x44 r len act s
  | .eth p =>
    onFrames p.ipv4 .sealed 0 (framesOf len) (fun s =>
      if rdb s.c Reg.UPD_ETH_EN && !rdb s.c Reg.SEC_STATUS_RECOVERY && s.c.sec.dead.isNone && s.c.pwr.mg == 0 then
        let (status, payload, s) := act s
        onCtl (fun c => sendFrames (rd c Reg.ETH_PRIO_REEL_PRIO) 1 .sealed
          (.eth 3 p.addr.toNat p.port.toNat (mgmtHeader 0x44 0 status payload.length true ++ payload)) c) s
      else onCtl (bump Reg.ETH_RX_DROP_ADDR_COUNT 1) s) s

/-- An item that comes sooner than UPD_RATE allows after the item accepted before. -/
def tooSoon (c : Ctl) (len : Nat) : Bool :=
  match c.upd.lastItem with
  | some (t, _) => decide ((c.time.mono - t) * (1000 * rd c Reg.UPD_RATE_KBPS) < 8 * len * 2 ^ 32)
  | none => false

def noteItem (len : Nat) (c : Ctl) : Ctl := onUpd (fun u => { u with lastItem := some (c.time.mono, len) }) c

/-- The chunk table of a manifest. -/
def manifestOf (b : List Byte) : Manifest :=
  let n := leAt b 96 4
  { version := leAt b 48 8, svn := leAt b 56 2, length := leAt b 60 4, digest := sub b 64 32, n := n,
    chunks := (List.range n).map (fun k => (leAt b (128 + 48 * k) 1, leAt b (128 + 48 * k + 4) 4, sub b (128 + 48 * k + 16) 32)) }

def manifestForm (b : List Byte) : Bool :=
  let n := leAt b 96 4
  let len := leAt b 60 4
  leAt b 0 4 == 0x4C504B5A && leAt b 4 2 == 1 && zerosAt b 7 1 && zerosAt b 58 2 && zerosAt b 100 28 && n == ceilDiv len 16384 && decide (n ≤ 30720) &&
  b.length == 128 + 48 * n + 4627 && decide (leAt b 56 2 ≤ 511) &&
  (List.range n).all (fun k =>
    let op := leAt b (128 + 48 * k) 1
    (op == 1 || op == 2 || op == 3) && zerosAt b (128 + 48 * k + 1) 3 && zerosAt b (128 + 48 * k + 8) 8 && (op == 1 || zerosAt b (128 + 48 * k + 4) 4))

/-- A health window is open. -/
def inHealth (c : Ctl) : Bool := rdb c Reg.UPD_STATUS_TRIAL

def activationArmed (c : Ctl) : Bool := rdb c Reg.AD_STATUS_ACTIVATION_HOLD

/-- The code of the first check of R545 that fails. -/
def manifestCode (c : Ctl) (b : List Byte) (sigOk : Bool) : Nat :=
  let here := slotNo c (bootedSlot c)
  if !manifestForm b then 0x08
  else if leAt b 6 1 > 3 ∨ revoked c (leAt b 6 1) then 0x03
  else if !sigOk then 0x02
  else if sub b 16 32 ≠ here.digest then 0x06
  else if leAt b 56 2 < rd c (Reg.SEC_ARC_VALUE 0) ∨ leAt b 56 2 = 511 then 0x05
  else if leAt b 48 8 ≤ here.version then 0x07
  else if activationArmed c || inHealth c then 0x0B
  else 0

/-- How long the manifest is, as its head says; none while the head is incomplete. -/
def manifestLen (b : List Byte) : Option Nat := if b.length < 128 then none else some (128 + 48 * leAt b 96 4 + 4627)

/-- A manifest piece (R545): piece 0 begins anew, the others follow in order; the last one brings the checks. -/
def takePiece (b : List Byte) (sigOk : Bool) (s : State) : Reply :=
  let i := leAt b 4 4
  let data := b.drop 8
  if b.length < 8 ∨ leAt b 0 1 ≠ 1 ∨ !zerosAt b 1 3 ∨ data.length > 16384 ∨ data.isEmpty then updReply 0x08 s
  else if i ≠ 0 ∧ i ≠ s.c.upd.nextPiece then updReply 0x0A s
  else if tooSoon s.c data.length then updReply 0x01 s
  else
    let all := (if i = 0 then [] else s.c.upd.pieces) ++ data
    let s := onCtl (fun c => noteItem data.length (onUpd (fun u => { u with pieces := all, nextPiece := i + 1 }) c)) s
    match manifestLen all with
    | some n =>
      if all.length < n ∧ data.length = 16384 then updReply 0 s
      else
        let s := onCtl (onUpd (fun u => { u with pieces := [], nextPiece := 0 })) s
        let code := manifestCode s.c all sigOk
        if code ≠ 0 then updReply code s
        else
          updReply 0 (onCtl (fun c =>
            let c := onUpd (fun u => { u with manifest := some (manifestOf all), bitmap := 0 }) c
            raise Reg.UPD_EVENTS_MANIFEST_ACCEPTED (setSlotState (spareSlot c) 1 (setSlot (spareSlot c) Slot.empty c))) s)
    | none => if data.length = 16384 then updReply 0 s else updReply 0x08 (onCtl (onUpd (fun u => { u with pieces := [], nextPiece := 0 })) s)

def execManifestPiece (via : Via) (bytes : List Byte) (sigOk : Bool) (s : State) : Host.Outcome State Fault Refusal :=
  .next (viaReq (.manifestPiece via bytes sigOk) via bytes.length (takePiece bytes sigOk) s)

/-- The length of chunk k: the last one is shorter. -/
def chunkLen (m : Manifest) (k : Nat) : Nat := if k + 1 = m.n then m.length - 16384 * (m.n - 1) else 16384

def setChunk (k : Nat) (c : Ctl) : Ctl := onUpd (fun u => { u with bitmap := if bit u.bitmap k then u.bitmap else u.bitmap + 2 ^ k }) c

/-- A DATA chunk (R546). -/
def takeChunk (b : List Byte) (s : State) : Reply :=
  let k := leAt b 4 4
  let data := b.drop 8
  if b.length < 8 ∨ leAt b 0 1 ≠ 2 ∨ !zerosAt b 1 3 then updReply 0x08 s
  else match s.c.upd.manifest with
    | none => updReply 0x0A s
    | some m =>
      match m.chunks[k]? with
      | none => updReply 0x0A s
      | some (op, _, hash) =>
        if op ≠ 2 then updReply 0x0A s
        else if bit s.c.upd.bitmap k then updReply 0 s
        else if data.length ≠ chunkLen m k then updReply 0x08 s
        else if tooSoon s.c data.length then updReply 0x01 s
        else
          let s := onCtl (norWrite (slotBase (spareSlot s.c) + 16384 * k) data) s
          if sha3_256 data ≠ hash then updReply 0x09 (onCtl (bump Reg.UPD_CHUNKS_BAD_COUNT 1) s)
          else updReply 0 (onCtl (fun c => setChunk k (noteItem data.length c)) s)

def execDataChunk (via : Via) (bytes : List Byte) (s : State) : Host.Outcome State Fault Refusal :=
  .next (viaReq (.dataChunk via bytes) via bytes.length (takeChunk bytes) s)

/-- A COPY or ZERO chunk is built in the background (R546). -/
def execLocalChunkBuild (index : BitVec 16) (s : State) : Host.Outcome State Fault Refusal :=
  .next (onCtl (fun c =>
    let k := index.toNat
    match c.upd.manifest with
    | none => c
    | some m =>
      match m.chunks[k]? with
      | none => c
      | some (op, off, hash) =>
        if op = 2 || bit c.upd.bitmap k then c
        else
          let n := chunkLen m k
          let data := if op = 1 then norBytes c (slotBase (bootedSlot c) + off) n else List.replicate n 0
          let c := norWrite (slotBase (spareSlot c) + 16384 * k) data c
          if sha3_256 data = hash then setChunk k c else failSlot (spareSlot c) c) s)

/-- Every bit is set: the can in the inactive slot is verified (R549). -/
def verifySlot (sigOk : Bool) (c : Ctl) : Ctl :=
  match c.upd.manifest with
  | none => c
  | some m =>
    let k := spareSlot c
    if slotState c k ≠ 1 ∨ popCount c.upd.bitmap m.n ≠ m.n then c
    else
      let x := slotFromNor c k
      if x.digest = m.digest ∧ canCode c (slotBase k) sigOk = 0 then raise Reg.UPD_EVENTS_SLOT_READY (setSlotState k 2 (setSlot k x c))
      else failSlot k c

def execSlotVerify (sigOk : Bool) (s : State) : Host.Outcome State Fault Refusal := .next (onCtl (verifySlot sigOk) s)

/-- UPD_CMD 1 (R558, R559). -/
def abandonSplice (c : Ctl) : Ctl :=
  if activationArmed c || inHealth c then wr Reg.UPD_REFUSAL_CODE 0x0B c
  else
    let k := spareSlot c
    setSlotState k 0 (setSlot k Slot.empty (onUpd (fun u => { u with manifest := none, bitmap := 0, pieces := [], nextPiece := 0 }) c))

def execSpliceAbandon (s : State) : Host.Outcome State Fault Refusal := .next (onCtl abandonSplice s)

/-- The phase UPD_STATUS shows (R558). -/
def updPhase (c : Ctl) : Nat :=
  if rdb c Reg.SEC_STATUS_RECOVERY then 7
  else if inHealth c then 6
  else if activationArmed c then 5
  else if slotState c (spareSlot c) = 2 then 4
  else match c.upd.manifest with
    | some m => if popCount c.upd.bitmap m.n = m.n then 3 else 2
    | none => if c.upd.pieces.isEmpty then 0 else 1

/-! ### Activation (R550) -/

/-- The code of the first condition of R550 that does not hold. -/
def activateCode (c : Ctl) (slot cue : Nat) : Nat :=
  if slotState c slot ≠ 2 then 0x0C
  else if lockOf c < 3 ∨ cue < now c + 2 ^ 32 ∨ now c + 604800 * 2 ^ 32 < cue then 0x0D
  else if c.ad.takes.any (fun e => e.2.st != .ended && e.2.deadline != noDeadline && decide (cue < e.2.deadline)) then 0x0E
  else if activationArmed c || inHealth c then 0x0B
  else if rdb c Reg.FLT_STATUS_FATAL || rdb c Reg.FLT_STATUS_DEPARTING then 0x12
  else 0

def armActivation (slot cue : Nat) (c : Ctl) : Ctl :=
  let c := wr64 Reg.UPD_CUE_LO_TIME Reg.UPD_CUE_HI_TIME cue (wr Reg.AD_STATUS_ACTIVATION_HOLD 1 c)
  raise Reg.UPD_EVENTS_ARMED (armChannel 44 cue actActivate slot 0 c)

/-- Cancelling undoes the hold of admission, the hold of H and the arming. -/
def cancelActivation (c : Ctl) : Ctl :=
  if activationArmed c then disarm 44 (wr Reg.AD_STATUS_ACTIVATION_HOLD 0 (wr64 Reg.UPD_CUE_LO_TIME Reg.UPD_CUE_HI_TIME 0 c)) else c

def activateAt (b : List Byte) (s : State) : Reply :=
  let code := fun (n : Nat) (s : State) => (0x0200 + n, ([] : List Byte), onCtl (wr Reg.UPD_REFUSAL_CODE n) s)
  if b.length ≠ 16 ∨ !zerosAt b 2 6 then code 0x08 s
  else match leAt b 0 1 with
    | 1 =>
      let slot := leAt b 1 1
      if slot > 1 then code 0x08 s
      else
        let n := activateCode s.c slot (leAt b 8 8)
        if n ≠ 0 then code n s else code 0 (onCtl (armActivation slot (leAt b 8 8)) s)
    | 2 => code 0 (onCtl cancelActivation s)
    | _ => code 0x08 s

def execActivateAt (req : Req) (bytes : List Byte) (s : State) : Host.Outcome State Fault Refusal :=
  .next (mgmtReq (.activateAt req bytes) 0x45 req bytes.length (activateAt bytes) s)

def execActivateCancel (req : Req) (bytes : List Byte) (s : State) : Host.Outcome State Fault Refusal :=
  .next (mgmtReq (.activateCancel req bytes) 0x45 req bytes.length (activateAt bytes) s)

/-- A write of UPD_CMD. -/
def updCmd (v : Nat) (c : Ctl) : Ctl :=
  match v % 4 with
  | 1 => abandonSplice c
  | 2 => cancelActivation c
  | _ => c

/-! ### The health window (R552) -/

/-- Seconds into the window. -/
def healthSeconds (c : Ctl) : Nat := match c.upd.healthAt with
  | some t => Nat.min 63 ((c.time.mono - t) / 2 ^ 32)
  | none => 0

/-- The parts out of service. -/
def partsOut (c : Ctl) : List (List Nat) :=
  [c.ad.outTiles, c.flt.outC, c.flt.outM, c.flt.outS, c.flt.outV, c.flt.outUnits, c.flt.outLinks, if c.flt.outN then [0] else [],
   if rd c Reg.MEM_STATUS_DEV_IN_SERVICE = 0 then [] else (List.range 12).filter (fun d => !bit (rd c Reg.MEM_STATUS_DEV_IN_SERVICE) d)]

/-- Every part in service before the cue still is. -/
def partsKept (c : Ctl) : Bool :=
  ((partsOut c).zip c.upd.partsOut).all (fun e => e.1.all (fun x => e.2.contains x))

/-- At 45 s without a wrap: the acceptance take runs on the spare row of the lowest C-die that has it free; `wraps` says
whether it wraps. -/
def doAcceptanceTake (wraps : Bool) (s : State) : Host.Outcome State Fault Refusal :=
  .next (onCtl (fun c => match c.upd.healthAt with
    | none => c
    | some t =>
      let free := (List.range 8).any (fun k => !c.share.spareTaken.contains k && !c.flt.outC.contains k)
      if !inHealth c || rdb c Reg.UPD_HEALTH_TAKE_WRAPPED || !free then c
      else
        let c := passTime (t + 45 * 2 ^ 32 - c.time.mono) c
        wrb Reg.UPD_HEALTH_TAKE_WRAPPED wraps (wr Reg.UPD_HEALTH_ACCEPTANCE_RUN 1 c)) s)

end Sys2Proof.Machine
end

