-- ==== Sys2Proof/Machine/Boot.lean ====
section
/-! DEFINITION. Module resets (R486 to R489), the ROM boot (R530 to R534), the bring-up (R586 to R594), departure (R490,
R491), escalation (R468), power modes (R595 to R600), activation and the health window (R551 to R554). -/

namespace Sys2Proof.Machine

def onPwr (f : PwrSt → PwrSt) (c : Ctl) : Ctl := { c with pwr := f c.pwr }

def stageNow (c : Ctl) : Nat := rd c Reg.PWR_STATUS_STAGE

def setStage (n : Nat) (c : Ctl) : Ctl := wr Reg.PWR_STATUS_STAGE n c

/-! ### What a module reset keeps (R487; log entry 50) -/

/-- Offsets of a block that keep their values over every module reset. -/
def keptAlways (b off : Nat) : Bool :=
  match b with
  | 1 => decide (0x108 ≤ off ∧ off ≤ 0x13C)
  | 2 => decide (0xC ≤ off ∧ off ≤ 0x14)
  | 3 => decide (off = 0x8)
  | 4 => decide (off = 0x310)
  | 5 => off == 0x10 || off == 0x14 || off == 0x34
  | 7 => decide (off ≤ 0x18) || decide (0x40 ≤ off ∧ off < 0x80) || off == 0x94 || off == 0x98 || off == 0x8C
  | 9 => off == 0 || off == 4 || off == 8 || off == 0x24 || decide (0x30 ≤ off ∧ off < 0x50) || decide (0x4000 ≤ off ∧ off < 0x4200)
  | 10 => off == 4 || off == 8
  | 11 => off == 8 || off == 0xC
  | 12 => decide (off ≤ 0x18) || off == 0x38
  | 13 => off == 0 || off == 0x3C
  | 14 => decide (0xC ≤ off ∧ off ≤ 0x10) || off == 0x18 || off == 0x1C || off == 0x20
  | 15 => off == 0x14
  | _ => false

/-- Offsets kept over a warm reset only: hold registers of the gaffer (R413), the cap lease (R575), queue pairs and windows,
the last bring-up. -/
def keptWarm (b off : Nat) : Bool :=
  match b with
  | 3 => decide (0x4 ≤ off ∧ off ≤ 0x20) || off == 0x28
  | 7 => off == 0x84
  | 11 => decide (0x104 ≤ off ∧ off ≤ 0x130) || decide (0x204 ≤ off ∧ off ≤ 0x214)
  | 14 => off == 8
  | 15 => off == 0x10 || decide (0x100 ≤ off ∧ off ≤ 0x128)
  | _ => false

/-- The energy accounts of the reels, which only a power-on clears. -/
def keptPowered (b off : Nat) : Bool := b == 3 && (off == 0xA4 || off == 0xA8)

def keptAddr (cold power : Bool) (a : Nat) : Bool :=
  match locate a with
  | .block b off => keptAlways b off || (!cold && keptWarm b off) || (!power && keptPowered b off)
  | _ => false

/-- The groups a module holds break (R340); their pool reservations stand until they are destroyed. -/
def brokenGroup (g : Group) : Group :=
  if g.state = 0 then g
  else { g with state := 3, ops := [], sigs := [], inbox := [], failCode := 0x0703, failMember := g.index }

/-- The control state at the start of the boot after a module reset. -/
def resetCtl (cold power : Bool) (c : Ctl) : Ctl :=
  let n := Ctl.reset
  let echo := if power then 0 else frameNow c
  { n with
    regs := c.regs.filter (fun e => keptAddr cold power (e.1 % 2 ^ 64 / 32)),
    freeCtr := c.freeCtr, out := c.out,
    time := { n.time with tc := if power then 0 else c.time.tc, mono := c.time.mono },
    ad := { n.ad with takes := c.ad.takes, rotor := c.ad.rotor, cells := c.ad.cells, suspect := c.ad.suspect,
                      reels := c.ad.reels.map (fun e => (e.1, { e.2 with lastEcho := echo })), fiveGroups := c.ad.fiveGroups },
    share := { n.share with images := if cold then [] else c.share.images, spareTaken := c.share.spareTaken,
                            nextId := c.share.nextId, charges := c.share.charges, checkersOut := c.share.checkersOut },
    memory := { n.memory with cfg := c.memory.cfg, cache := if cold then [] else c.memory.cache, release := c.memory.release, released := c.memory.released,
                              flush := if cold then none else c.memory.flush,
                              lostDevices := if cold then [] else c.memory.lostDevices, lostDies := if cold then [] else c.memory.lostDies,
                              badTags := if cold then [] else c.memory.badTags, trained := c.memory.trained,
                              trainTemps := if cold then [] else c.memory.trainTemps, sliceKey := c.memory.sliceKey },
    fab := { n.fab with allow := c.fab.allow },
    coll := { n.coll with groups := c.coll.groups.map (fun e => (e.1, brokenGroup e.2)) },
    flt := { n.flt with gens := c.flt.gens, log := c.flt.log, dumps := c.flt.dumps, dumpCount := c.flt.dumpCount,
                        cuts := c.flt.cuts, cutNo := c.flt.cutNo, warmTimes := c.flt.warmTimes, resetTimes := c.flt.resetTimes,
                        profile := c.flt.profile, profileSeq := c.flt.profileSeq, outLinks := c.flt.outLinks,
                        badLinks := c.flt.badLinks, tripLatch := c.flt.tripLatch, leakLatch := c.flt.leakLatch,
                        trip := c.flt.trip },
    gaf := { n.gaf with eIn := if power then 0 else c.gaf.eIn, eTone := if power then 0 else c.gaf.eTone,
                        eOver := if power then 0 else c.gaf.eOver, eSliceOver := if power then 0 else c.gaf.eSliceOver,
                        eSliceTakes := if power then 0 else c.gaf.eSliceTakes },
    sec := { c.sec with importAt := none, binding := [], importSeed := [], dead := none, jtag := if c.sec.jtag = 6 then 0 else c.sec.jtag },
    upd := { c.upd with pieces := [], nextPiece := 0, lastItem := none },
    mgt := { n.mgt with secret := c.mgt.secret, unheldAt := c.time.mono, capAt := c.mgt.capAt, tolerance := c.mgt.tolerance,
                        thermal := c.mgt.thermal, alerted := 0, profiled := c.mgt.profiled },
    pwr := { c.pwr with t0 := if cold then c.time.mono else c.pwr.t0, ts := if cold then none else c.pwr.ts, target := none,
                        mg := if c.pwr.mg = 3 then 0 else c.pwr.mg, rails := false, boot := none },
    eth := { n.eth with qps := if cold then [] else c.eth.qps, regs := if cold then [] else c.eth.regs } }

/-- The generations of every domain and of the module rise (R109, R473). -/
def newGenerations (old : Nat) (c : Ctl) : Ctl :=
  wr Reg.AD_STATUS_GENERATION (old + 1) (forEach (List.range 8) (fun k c => bumpGens (dieCell k) c) c)

/-- What follows from the state kept: lines, alerts, accounts in registers. -/
def afterReset (source old : Nat) (c : Ctl) : Ctl :=
  let c := newGenerations old c
  let c := wr Reg.FLT_LAST_RESET_SOURCE source (raise Reg.FLT_EVENTS_MODULE_RESET c)
  let c := wr Reg.SEC_STATUS_DEBUG_ACTIVE 0 (wr Reg.SEC_STATUS_IMPORT_OPEN 0 (wr Reg.SEC_STATUS_RECOVERY 0 c))
  let c := wr Reg.GAF_CS_ACTIVE_PENDING 0 (wr Reg.GAF_CS_FLOOR_NEXT_FLOOR_W 0 c)
  let c := wrb Reg.GAF_STATUS_CAPSTEP (!rdb c Reg.MGT_LINES_CAPSTEP_N) (wr Reg.MGT_LINES_RESET_N 1 c)
  let c := match c.flt.trip with
    | some t => wr Reg.CLK_TRIP_DIE t.1 (wr Reg.CLK_TRIP_SENSOR t.2 (wr Reg.CLK_TRIP_VALID 1 (onFlt (fun f => { f with trip := none }) c)))
    | none => c
  let latched := c.flt.tripLatch || c.flt.leakLatch
  let c := wrb Reg.MGT_LINES_FAULT_DRIVEN latched (onFlt (fun f => { f with faultPin := latched }) c)
  let c := wr Reg.FAB_STATUS_PORTS_UP 0 (wrb Reg.MEM_STATUS_FLUSH_BUSY c.memory.flush.isSome c)
  let c := when c.memory.flush.isSome (fun c => wr Reg.MEM_FLUSH_STATUS_BUSY 1 (wr Reg.MEM_FLUSH_STATUS_RESUMED 1 c)) c
  let c := when (rdb c Reg.UPD_STATUS_TRIAL && c.upd.healthAt.isNone) (wr Reg.UPD_STATUS_TRIAL 0) c
  let c := when (match c.upd.manifest with
    | some m => popCount c.upd.bitmap m.n != m.n
    | none => false) (raise Reg.UPD_EVENTS_RESUMED) c
  setAlert Reg.MGT_ALERT_CAUSE_CAP_LEASE_LAPSED (rdb c Reg.MGT_CAP_LEASE_LAPSED) c

/-- After a warm reset clock control and the update block arm their channels again, from what they held before it (R69); the gaffer
does so as it starts. -/
def rearm (old : Ctl) (c : Ctl) : Ctl :=
  let c := forEach old.clk.switches (fun x c => armChannel x.chan x.at_ actSwitch (x.dom + 16 * x.source) 0 c) c
  let c := showArmed (onClk (fun k => { k with switches := old.clk.switches }) c)
  let c := { c with ad := { c.ad with reservations := old.ad.reservations.filter (fun r => r.kind == 2) } }
  if activationArmed old then
    let t := rd64 old Reg.UPD_CUE_LO_TIME Reg.UPD_CUE_HI_TIME
    armChannel 44 t actActivate (rd old (Reg.TC_CUE_ARG 44)) 0 (wr64 Reg.UPD_CUE_LO_TIME Reg.UPD_CUE_HI_TIME t (wr Reg.AD_STATUS_ACTIVATION_HOLD 1 c))
  else c

/-- Everything a module reset clears. -/
def resetModule (source : Nat) (cold power : Bool) (s : State) : State :=
  let old := moduleGen s.c
  let s := onCtl (fun c => when (!cold) (rearm c) (afterReset source old (resetCtl cold power c))) s
  setMem (fun m => if cold then Memory.empty else zeroRange 0 (192 * 0x200000) m) s

/-! ### The ROM (R530 to R534) -/

/-- A dead unit (R534). -/
def deadUnit (n : Nat) (c : Ctl) : Ctl := driveFault (onSec (fun x => { x with dead := some n }) c)

def enterRecovery (c : Ctl) : Ctl := raise Reg.UPD_EVENTS_RECOVERY (wr Reg.SEC_STATUS_RECOVERY 1 c)

/-- A slot can be booted (R531). -/
def bootable (b : Boot) (c : Ctl) (k : Nat) : Bool :=
  !(slotNo c k).failed && (if k = 0 then b.slotA else b.slotB) && decide (rd c (Reg.SEC_ARC_VALUE 0) ≤ (slotNo c k).svn)

/-- A slot is booted: what UPD_STATUS shows of both. -/
def bootSlot (k : Nat) (c : Ctl) : Ctl :=
  let c := when (slotState c (1 - k) == 3) (setSlotState (1 - k) 2) c
  setSlotState k 3 (wr Reg.UPD_STATUS_SLOT k (onUpd (fun u => { u with pointer := k }) c))

/-- The revert (R554): the pointer goes back, the trial slot is failed. -/
def revert (c : Ctl) : Ctl :=
  let k := c.upd.pointer
  let c := setSlotState k 0 (setSlot k { slotNo c k with failed := true } c)
  let c := onUpd (fun u => { u with pointer := 1 - k, trial := false, trialUsed := false, healthAt := none, partsOut := [] }) c
  raise Reg.UPD_EVENTS_SLOT_FAILED (raise Reg.UPD_EVENTS_REVERTED (bump Reg.UPD_REVERTS_COUNT 1 (wr Reg.UPD_STATUS_TRIAL 0 c)))

/-- The choice of the boot slot (R531). -/
def chooseSlot (b : Boot) (c : Ctl) : Ctl :=
  let first := c.upd.trial && !c.upd.trialUsed
  let c := onUpd (fun u => { u with trialUsed := u.trialUsed || first }) c
  if first && bootable b c c.upd.pointer then
    wr Reg.UPD_HEALTH_BOOTED 1 (raise Reg.UPD_EVENTS_ACTIVATED (wr Reg.UPD_STATUS_TRIAL 1 (bootSlot c.upd.pointer c)))
  else
    let c := when c.upd.trial revert c
    if bootable b c c.upd.pointer then bootSlot c.upd.pointer c
    else if bootable b c (1 - c.upd.pointer) then raise Reg.SEC_EVENTS_SLOT_FALLBACK (bootSlot (1 - c.upd.pointer) c)
    else enterRecovery c

/-- Steps 1 to 9 of R530. -/
def romBoot (cold : Bool) (b : Boot) (c : Ctl) : Ctl :=
  let c := wr Reg.MGT_STRAPS_SLOT_ID b.slotId (wrb Reg.MGT_STRAPS_XO_JUDGE b.xoJudge c)
  if !b.romTest then deadUnit 2 c
  else if !b.identity then deadUnit 1 c
  else if !b.counters then deadUnit 3 c
  else
    let c := wr Reg.SEC_TRNG_HEALTHY 1 (wr Reg.SEC_STATUS_ID_OK 1 (wrb Reg.SEC_STATUS_CFG_OK b.cfgOk (wrb Reg.SEC_STATUS_REPAIR_OK b.repairOk c)))
    let c := wrb Reg.SEC_STATUS_REPAIR_SELF ((c.sec.repair.map (fun r => leAt r.bytes 6 2 == 0xFF)).getD false) c
    let c := wrb Reg.MGT_STRAPS_BOOT_HOLD b.hold (when b.cfgOk (applyConfig cold) c)
    let c := if b.hold then enterRecovery c else chooseSlot b c
    let c := when (!rdb c Reg.SEC_STATUS_RECOVERY) (fun c => formAlias (bootedSlot c) c) c
    let c := wrb Reg.MGT_STATUS_FIRST_OK (!b.badUnits.contains 0) (wrb Reg.MGT_STATUS_SECOND_OK (!b.badUnits.contains 1) c)
    let c := wr Reg.MGT_STATUS_LINK_UP 1 (onFlt (fun f => { f with outUnits := b.badUnits }) c)
    if !b.mgmtSet || (b.badUnits.contains 0 && b.badUnits.contains 1) then deadUnit 4 c
    else setAlert Reg.MGT_ALERT_CAUSE_UNIT_OUT (!b.badUnits.isEmpty) c

/-- The MG-die has booted its firmware. -/
def booted (c : Ctl) : Bool := c.sec.dead.isNone && !rdb c Reg.SEC_STATUS_RECOVERY

/-! ### Replay (R110 to R112) -/

/-- A slot that cannot be read: its take, and what was recorded of it, is known only by its number. -/
def loseSlot (k : Nat) (c : Ctl) : Ctl :=
  let c := raise Reg.CJ_EVENTS_SLOT_LOST (bump Reg.CJ_ERRORS_LOST 1 c)
  match takeAt c k with
  | none => c
  | some t =>
    if t.st == .prepared then dropTake k c
    else setTake k { t with st := .accepted, readable := false, crc := t.crc ^^^ 1, released := false, reason := 0, cycles := 0, energy := 0, checks := 0,
                            mismatches := 0, startTc := 0, endTc := 0 } c

/-- A composite take of this module's that is open with members elsewhere: its NG waits for their reports, 16 frames at most
(R121). -/
def holdComposites (c : Ctl) : Ctl :=
  let f := frameNow c + 16
  forEach c.ad.takes (fun e c =>
    if (e.2.st == .accepted || e.2.st == .started) && membersAwaited c e.1 then setTake e.1 { e.2 with holdFrame := some f } c else c) c

/-- What the MRAM's checks find at a replay: errors corrected, reel records repaired from their second copy, wear (R112,
R126). The two copies of a record never differ but for such damage, so that State holds it once. -/
def journalHealth (b : Boot) (c : Ctl) : Ctl :=
  let worn := decide (rd c Reg.CJ_WEAR_PERCENT ≤ 80 ∧ 80 < b.wear)
  let c := bump Reg.CJ_ERRORS_CORRECTED b.corrected (bump Reg.FLT_COUNT_CORR_COUNT b.corrected c)
  let c := when (!b.reelCopies.isEmpty) (raise Reg.CJ_EVENTS_REEL_COPY) c
  when worn (raise Reg.CJ_EVENTS_WEAR_WARN) (wr Reg.CJ_WEAR_PERCENT (Nat.min b.wear 255) c)

/-- Replay the journal under the new generation. Slates that stood by are forgotten: their submitter sends them again. -/
def replay (b : Boot) (c : Ctl) : Ctl :=
  let lost := b.lostSlots
  let ms := b.replayMs
  let c := journalHealth b (onAd (fun a => { a with reels := a.reels.map (fun e => (e.1, { e.2 with slates := [] })), ctlDue := [] }) c)
  let c := holdComposites c
  let old := (moduleGen c + 2 ^ 16 - 1) % 2 ^ 16
  let c := forEach lost loseSlot c
  let open_ := (c.ad.takes.filter (fun e => decide (e.1 < 65536) && (e.2.st == .accepted || e.2.st == .started))).length
  let c := endTakes (fun _ t => t.st != .prepared) 0x0703 (fun _ => (0, old)) c
  let c := forEach (c.ad.takes.filter (fun e => e.2.st == .prepared)) (fun e c => dropTake e.1 c) c
  let c := settle { c with ad := { c.ad with cutsDue := [], replanDue := true } }
  let c := wr Reg.CJ_REPLAY_NG_COUNT open_ (wr Reg.CJ_REPLAY_TIME_MS (Nat.min ms 50) { c with ad := { c.ad with cutsDue := [] } })
  modCount 53 1 <| raise Reg.CJ_EVENTS_REPLAYED (wr Reg.CJ_STATUS_REPLAY_DONE 1 (wr Reg.AD_STATUS_REPLAYING 0 c))

/-! ### Rails, clocks, self-test -/

/-- The PLLs that lock to REFCLK and the crystal, with their outputs (R441). -/
def pllTable (b : Boot) : List (Nat × Nat) :=
  (List.range 8).flatMap (fun d => [(4 * d, b.coreMhz), (4 * d + 1, b.coreMhz)]) ++
  [(32, 1250), (33, 1250), (36, 1250), (40, b.memMhz), (44, 1250), (48, 400), (50, 400)]

/-- The PLLs lock; every domain stands at the output of its primary PLL, the core domains at 0.40 GHz; Management moves
to its primary PLL (R445, R586). -/
def lockClocks (b : Boot) (c : Ctl) : Ctl :=
  let c := onClk (fun k => { k with plls := pllTable b }) c
  let c := wr Reg.GAF_CLOCK_ACTUAL 400 (forEach (List.range 12) (fun d c =>
    wr (Reg.CLK_DOM_FREQ_MHZ d) (if d < 8 then 400 else Map.getD 0 (pllTable b) (4 * d)) c) c)
  let c := wr (Reg.CLK_DOM_CTRL_SOURCE 12) 2 (wr (Reg.CLK_DOM_FREQ_MHZ 12) 400 c)
  if rdb c Reg.CLK_STATUS_REFCLK_OK then moveSource 12 0 c else c

/-- The gaffer starts from the measured draw; the ramp cue is armed (R410, R590). -/
def startGaffer (draw : Nat) (c : Ctl) : Ctl := settleCaps (armRamp (setLevel (128 * draw) c))

/-- What fails its test leaves service; each C-die takes up the repair record (R477, R591). -/
def applyTests (b : Boot) (c : Ctl) : Ctl :=
  let dead := b.badC.flatMap dieTiles
  let c := { c with ad := { c.ad with outTiles := (b.badTiles ++ dead).eraseDups }, memory := { c.memory with lostDies := b.badC } }
  let c := onFlt (fun f => { f with outC := b.badC, outM := b.badM, outS := b.badS, outV := b.badV, outN := b.badN }) c
  let f := bitsOf 6 (fun k => !b.badF.contains k)
  let c := wr Reg.FAB_STATUS_FDIES f (wr Reg.COL_STATUS_ENGINES f c)
  let c := forEach (List.range 8) applyRecord c
  forEach ((b.badTiles.map groupOf).eraseDups) suspectGroup c

/-- Wilef ports and the Ethernet link begin to train (R587). -/
def startLinks (c : Ctl) : Ctl :=
  let c := forEach (List.range 18) (fun q c =>
    when (rdb c (Reg.FAB_PORT_CTRL_ENABLE q) && (fdiesUp c).contains (q / 3)) (wr (Reg.FAB_PORT_STATE_STATE q) 1) c) c
  when (rdb c Reg.ETH_CTRL_ENABLE && !c.flt.outN) (wr Reg.ETH_STATUS_LINK 1) c

/-! ### Training of the memory devices (R277 to R281, R592) -/

/-- The devices of a bitmap. -/
def devicesIn (m : Nat) : List Nat := (List.range 12).filter (fun d => bit m d)

/-- The stored results of a device hold: its ID, the bin they are for, its temperature (R278). -/
def storedGood (b : Boot) (c : Ctl) (d : Nat) : Bool :=
  match Map.get? c.memory.trained d with
  | some t => t.id == b.deviceIds.getD d 0 && t.bin == rd c Reg.MEM_SPEED_TARGET && decide ((t.temp - b.temps.getD d 0).natAbs ≤ 20)
  | none => false

/-- Training may use the stored results (R278). -/
def storedValid (b : Boot) (c : Ctl) : Bool := !rdb c Reg.MEM_TRAIN_FORCE_COLD && (devicesIn b.devices).all (storedGood b c)

/-- Devices are trained: from stored results within 120 ms, else within 900 ms (R278). -/
def noteTraining (b : Boot) (stored : Bool) (l : List Nat) (c : Ctl) : Ctl :=
  let c := forEach l (fun d => onMem (fun m => { m with trainTemps := Map.put m.trainTemps d (b.temps.getD d 0) })) c
  wr Reg.MEM_TRAIN_LAST_MS (Nat.min b.trainMs (if stored then 120 else 900)) (wrb Reg.MEM_TRAIN_STORED_USED stored c)

/-- Results that are stored: the cold path stores new ones (R592). -/
def storeTraining (b : Boot) (c : Ctl) : Ctl :=
  forEach (devicesIn b.devices) (fun d c =>
    onMem (fun m => { m with trained := Map.put m.trained d { id := b.deviceIds.getD d 0, bin := rd c Reg.MEM_SPEED_TARGET, temp := b.temps.getD d 0 } }) c) c

/-- The devices refresh themselves: an entry for each M-die that has one in service (R281, R509). -/
def selfRefresh (c : Ctl) : Ctl :=
  forEach (List.range 4) (fun j => when ((devicesIn (rd c Reg.MEM_STATUS_DEV_IN_SERVICE)).any (fun d => d / 3 == j)) (modCount (288 + 16 * j + 14) 1)) c

/-- The devices leave self-refresh: those whose temperature has moved by 10 °C or more are trained again, from stored results where
these hold (R278, R281). -/
def leaveRefresh (b : Boot) (c : Ctl) : Ctl :=
  let moved := (devicesIn (rd c Reg.MEM_STATUS_DEV_IN_SERVICE)).filter (fun d => match Map.get? c.memory.trainTemps d with
    | some t => decide (10 ≤ (t - b.temps.getD d 0).natAbs)
    | none => true)
  if moved.isEmpty then c else noteTraining b (!rdb c Reg.MEM_TRAIN_FORCE_COLD && moved.all (storedGood b c)) moved c

/-! ### Module warm reset (R488) -/

/-- The dailies of every C-die in service. -/
def dumpAll (s : State) : State :=
  ((List.range 8).filter (fun k => !s.c.flt.outC.contains k)).foldl (fun s k =>
    let g := domainGen s.c (dieCell k)
    (dumpDie k (dieTiles k) (dieCell k).toNat g ((g + 1) % 2 ^ 16) [] 0 s).2) s

/-- The boot of the MG-die and what follows it, up to the wait for links and time. -/
def warmBoot (b : Boot) (c : Ctl) : Ctl :=
  let c := romBoot false b (wr Reg.CLK_STATUS_XO_OK 1 (wrb Reg.CLK_STATUS_REFCLK_OK b.refclk c))
  if !booted c then c
  else
    let c := onPwr (fun p => { p with rails := true }) (replay b c)
    let c := startLinks (applyTests b (lockClocks b (leaveRefresh b c)))
    let c := unboundedFall b.draw (startGaffer b.draw c)
    setStage 9 (onPwr (fun p => { p with s5 := c.time.mono }) c)

/-- The C-dies that fail their test at a warm reset, or pass it again: the cache is written back as its units change (R269, R270). -/
def loseDies (b : Boot) (s : State) : State :=
  let new := b.badC.filter (fun k => !s.c.memory.lostDies.contains k)
  if new.isEmpty && s.c.memory.lostDies.all (fun k => b.badC.contains k) then s
  else onCtl (fun c => when (!new.isEmpty) (raise Reg.MEM_EVENTS_UNIT_RECOVERED) (onMem (fun m => { m with lostDies := b.badC }) c)) (recoverUnits new s)

/-- A module warm reset with a source code of R486, up to the first use of the can's images. -/
def bootWarm (source : Nat) (b : Boot) (s : State) : State :=
  let s := onCtl (fun c =>
    let c := announceCuts 65536 0x0703 3 c
    errorRdma (addLog 3 35 0x0703 0x30000000 (moduleGen c) 0xFF 0 c)) s
  onCtl (warmBoot b) (loseDies b (onCtl selfRefresh (resetModule source false false (dumpAll s))))

/-- A module warm reset nobody asked for: the third within an hour of powered time is the fatal class instead (R467, R468). -/
def bootError (b : Boot) (s : State) : State :=
  let t := s.c.time.mono
  let l := s.c.flt.warmTimes.filter (fun x => decide (t ≤ x + 3600 * 2 ^ 32))
  let s := onCtl (fun c => bump Reg.FLT_COUNT_MODULE_COUNT 1 (onFlt (fun f => { f with warmTimes := t :: l }) c)) s
  if l.length ≥ 2 then enterFatal 35 0x0703 (onCtl (raise Reg.FLT_EVENTS_ESCALATED) s) else bootWarm 4 b s

/-- The management firmware hashes the other images of the can before their first use: where one does not hash right, its slot is
marked failed, and the module resets with source 4 and boots the slot that is left (R532). Two slots give two such resets at most. -/
def useImages (b : Boot) : Nat → State → State
  | 0, s => s
  | n + 1, s =>
    let k := bootedSlot s.c
    if booted s.c && decide (9 ≤ stageNow s.c) && b.badImages.contains k && !(slotNo s.c k).failed then
      useImages b n (bootError b (onCtl (failSlot k) s))
    else s

/-- A module warm reset with a source code of R486. -/
def warmReset (source : Nat) (b : Boot) (s : State) : State := useImages b 2 (bootWarm source b s)

/-- A module warm reset for an error. -/
def errorReset (b : Boot) (s : State) : State := useImages b 2 (bootError b s)

/-! ### The bring-up (R586 to R594) -/

/-- Stage `n` ends `ms` after a moment on the free-running counter. -/
def endStage (n base ms : Nat) (c : Ctl) : Ctl :=
  let c := passTime (base + ms * 2 ^ 32 / 1000 - c.time.mono) c
  wr (Reg.PWR_STAGE_END_MS n) ((c.time.mono - base) * 1000 / 2 ^ 32) c

/-- The cold path is taken (R592). -/
def coldPath (b : Boot) (c : Ctl) : Bool :=
  !storedValid b c || (c.sec.repairNow.map (fun r => r.bytes)).getD [] != c.pwr.testRecord ||
  decide (rd c Reg.PWR_FULL_TEST_TENTHS + 7200 ≤ rd c Reg.MGT_HOURS_TENTHS)

/-- The memory devices after their training and zeroing (R277 to R279, R282): a device that fails at every bin leaves service. -/
def trainMemory (b : Boot) (cold : Bool) (c : Ctl) : Ctl :=
  let n := popCount b.devices 12
  let c := wr Reg.MEM_STATUS_DEV_IN_SERVICE b.devices (wr Reg.MEM_STATUS_CHANNELS (8 * n) (wr Reg.MEM_SIZE_GIB (60 * n) c))
  let c := wr Reg.MEM_SPEED_DEV_BIN b.bins (noteTraining b (!cold) (devicesIn b.devices) (when cold (storeTraining b) c))
  let c := when (decide (n < 12)) (raise Reg.MEM_EVENTS_DEV_OUT) c
  let slow := (List.range 12).any (fun d => bit b.devices d && decide (rd c Reg.MEM_SPEED_TARGET < bits b.bins (2 * d) 2))
  when slow (raise Reg.MEM_EVENTS_TRAIN_FALLBACK) (wr Reg.MEM_STATUS_INIT_DONE 1 c)

/-- Stages 6 to 8, once the clocks run. -/
def testStages (b : Boot) (c : Ctl) : Ctl :=
  let base := (c.pwr.ts).getD c.time.mono
  let at_ := fun n => b.ms.getD n 0
  let c := startLinks (onPwr (fun p => { p with s5 := c.time.mono, boot := none }) c)
  let c := forEach (List.range 8) applyRecord c
  let cold := coldPath b c
  let c := endStage 7 base (at_ 7) (endStage 6 base (at_ 6) (trainMemory b cold c))
  let c := endStage 8 base (at_ 8) (applyTests b c)
  let c := when cold (fun c =>
    raise Reg.PWR_EVENTS_COLD_PATH (wr Reg.PWR_FULL_TEST_TENTHS (rd c Reg.MGT_HOURS_TENTHS)
      (onPwr (fun p => { p with testRecord := (c.sec.repairNow.map (fun r => r.bytes)).getD [] }) c))) c
  setStage 9 (startLinks (wrb Reg.PWR_STATUS_PATH cold c))

/-- Stage 5: it holds until REFCLK is qualified (R589). -/
def clockStage (b : Boot) (c : Ctl) : Ctl :=
  if !rdb c Reg.CLK_STATUS_REFCLK_OK then setStage 5 c
  else testStages b (endStage 5 ((c.pwr.ts).getD c.time.mono) (b.ms.getD 5 0) (lockClocks b c))

/-- Stage 3 ends with START_OK, not before 500 ms from t0; the rails come up, after a wet shutdown only over a dry loop
(R465, R586). -/
def railStage (b : Boot) (c : Ctl) : Ctl :=
  if !rdb c Reg.MGT_LINES_START_OK || rd c Reg.CLK_LEAK_STATE == 2 then setStage 3 c
  else
    let c := endStage 3 c.pwr.t0 500 c
    let ts := c.time.mono
    let c := endStage 4 ts (b.ms.getD 4 0) (onPwr (fun p => { p with rails := true, ts := some ts }) c)
    clockStage b (startGaffer b.draw c)

/-- Stages 1 and 2, once the crystal is judged. -/
def romStage (b : Boot) (c : Ctl) : Ctl :=
  let c := endStage 1 c.pwr.t0 (b.ms.getD 1 0) (wr Reg.CLK_STATUS_XO_OK 1 (onPwr (fun p => { p with mg := 0 }) c))
  let c := romBoot true b (setStage 2 c)
  if !booted c then onPwr (fun p => { p with boot := none }) c
  else railStage b (replay b (endStage 2 c.pwr.t0 (b.ms.getD 2 0) c))

/-- The sequence of R586 from its start. -/
def bringUp (b : Boot) (c : Ctl) : Ctl :=
  let c := wrb Reg.CLK_STATUS_REFCLK_OK b.refclk (onPwr (fun p => { p with boot := some b }) c)
  let c := endStage 0 c.pwr.t0 (b.ms.getD 0 0) c
  if b.crystal then romStage b c else setStage 1 (onPwr (fun p => { p with mg := 1 }) c)

/-- A module cold reset with a source code of R486. -/
def coldReset (source : Nat) (b : Boot) (s : State) : State :=
  let s := onCtl (fun c => addLog 3 35 0x0703 0x30000000 (moduleGen c) 0xFF 0 c) s
  useImages b 2 (onCtl (fun c => bringUp b (settleCaps c)) (resetModule source true (source == 0) s))

/-- A stage of the bring-up that waits goes on, as `f` has it from where it stands. -/
def resume (stage : Nat) (f : Boot → Ctl → Ctl) (s : State) : State :=
  match s.c.pwr.boot with
  | some b => if stageNow s.c = stage then useImages b 2 (onCtl (f b) s) else s
  | none => s

def execCrystalJudged (s : State) : Host.Outcome State Fault Refusal :=
  .next (resume 1 (fun b c => if c.pwr.mg = 0 then romStage b c else c) (onCtl crystalGood s))

/-- REFCLK is qualified again for 10 ms; a bring-up that waits for it goes on. -/
def execRefclkBack (s : State) : Host.Outcome State Fault Refusal :=
  .next (resume 5 clockStage (onCtl refclkBack s))

/-- START_OK has been high for 1 ms. -/
def execStartOk (s : State) : Host.Outcome State Fault Refusal :=
  .next (resume 3 railStage (onCtl (wr Reg.MGT_LINES_START_OK 1) s))

/-- P48V reaches 40.0 V. -/
def execPowerOn (boot : Boot) (s : State) : Host.Outcome State Fault Refusal :=
  if s.c.pwr.power then .next s
  else
    .next (onCtl (fun c =>
      let c := bump Reg.MGT_POWER_CYCLES_COUNT 1 c
      when (c.pwr.lost == 1) (raise Reg.FLT_EVENTS_POWER_LOSS) (when (c.pwr.lost == 2) (raise Reg.PWR_EVENTS_ORDERLY_OFF)
        (onPwr (fun p => { p with lost := 0 }) c)))
      (coldReset 0 boot (onCtl (fun c =>
        wr Reg.MGT_LINES_START_OK 0 (onFlt (fun f => { f with tripLatch := false, leakLatch := false })
          (onPwr (fun p => { p with power := true, mg := 0 }) c))) s)))

/-! ### Stage 9 (R588) -/

/-- Every Wilef port has completed step 5 of R299. -/
def portsReady (c : Ctl) : Bool :=
  (List.range 18).all (fun q => rd c (Reg.FAB_PORT_STATE_STATE q) == 3 && decide (4 ≤ rd c (Reg.TC_LINK_RUN q)))

/-- The links and the lock that stage 9 waits for. -/
def linksReady (c : Ctl) : Bool := ethUp c && (decide (3 ≤ lockOf c) || !rdb c Reg.PWR_CTRL_LOCK_WAIT)

def readyNow (c : Ctl) : Bool := linksReady c && (portsReady c || decide (c.pwr.s5 + 2 * 2 ^ 32 ≤ c.time.mono))

/-- Stage 10: admission opens, the profile is announced. A bring-up records its time. -/
def enterReady (c : Ctl) : Ctl :=
  let c := match c.pwr.ts with
    | none => c
    | some ts =>
      let ms := (c.time.mono - ts) * 1000 / 2 ^ 32
      onPwr (fun p => { p with ts := none }) (wr (Reg.PWR_STAGE_END_MS 9) ms (wr Reg.PWR_LAST_READY_MS ms (wrb Reg.PWR_LAST_PATH (rdb c Reg.PWR_STATUS_PATH) c)))
  let c := noteProfile (raise Reg.PWR_EVENTS_READY (setStage 10 c))
  postNotice 0x60 (profileBytes c) (onMgt (fun m => { m with profiled := c.flt.profileSeq }) c)

/-- READY: ports still down are waited for until 2 s after stage 5. -/
def doReady (s : State) : Host.Outcome State Fault Refusal :=
  .next (onCtl (fun c =>
    if stageNow c ≠ 9 ∨ !linksReady c then c
    else enterReady (if portsReady c then c else passTime (c.pwr.s5 + 2 * 2 ^ 32 - c.time.mono) c)) s)

/-! ### Resets by request, by line, by error -/

/-- A request for a reset over the port (R469, R498, R569): type 0x51; its status. -/
def resetReply (kind : Nat) (cell : BitVec 32) (c : Ctl) : Nat :=
  match resetRefusal c kind cell with
  | 0 => 0
  | 1 => 2
  | 2 => 4
  | _ => 3

/-- A reset asked for by a register write (`none`), or by a RESET message, which is answered first. -/
def askReset (self : Instr) (ask : Option Req) (kind : Nat) (cell : BitVec 32) (run : State → State) (s : State) : State :=
  let r := resetRefusal s.c kind cell
  match ask with
  | none =>
    let s := onCtl (wr Reg.FLT_RESET_STATUS_REFUSAL r) s
    if r ≠ 0 then s else run s
  | some q =>
    let s' := mgmtReq self 0x51 q 8 (fun s =>
      (resetReply kind cell s.c, [], if resetRefusal s.c kind cell = 0 then onCtl (wr Reg.FLT_STATUS_RESET_BUSY 1) s else s)) s
    if rdb s'.c Reg.FLT_STATUS_RESET_BUSY && !rdb s.c Reg.FLT_STATUS_RESET_BUSY then run (onCtl (wr Reg.FLT_STATUS_RESET_BUSY 0) s') else s'

/-- DOMAIN_RESET: for an error inside the domain (`error`), or as requested. -/
def execDomainReset (cell : BitVec 32) (error : Bool) (ask : Option Req) (dark : List Nat) (us : BitVec 16) (failed : List Nat) (s : State) :
    Host.Outcome State Fault Refusal :=
  if error then
    if resetRefusal s.c 1 cell ≠ 0 then .next s else .next (drain (domainReset cell 0x0701 true dark us.toNat failed s))
  else
    .next (askReset (.domainReset cell error ask dark us failed) ask 1 cell (fun s => drain (domainReset cell 0 false dark us.toNat failed s)) s)

/-- MODULE_WARM_RESET: for an error of the module class, or as requested. -/
def execModuleWarmReset (ask : Option Req) (error : Bool) (boot : Boot) (s : State) : Host.Outcome State Fault Refusal :=
  if error then if resetRefusal s.c 2 0 ≠ 0 then .next s else .next (errorReset boot s)
  else .next (askReset (.moduleWarmReset ask error boot) ask 2 0 (warmReset 2 boot) s)

def execModuleColdReset (ask : Option Req) (boot : Boot) (s : State) : Host.Outcome State Fault Refusal :=
  .next (askReset (.moduleColdReset ask boot) ask 3 0 (coldReset 3 boot) s)

/-- RESET_n has been low for 10 µs; a module that holds itself in reset over its crystal stays there (R440). -/
def execResetN (boot : Boot) (s : State) : Host.Outcome State Fault Refusal :=
  if !s.c.pwr.power || s.c.pwr.mg == 2 then .next s
  else
    let wet := s.c.flt.leakLatch && rd s.c Reg.CLK_LEAK_STATE == 2
    .next (coldReset 1 boot (onCtl (fun c => onFlt (fun f => { f with tripLatch := false, leakLatch := false })
      (wrb Reg.MGT_LINES_START_OK (rdb c Reg.MGT_LINES_START_OK && !wet) c)) s))

/-- A response of a domain, or of the module, has not completed in its time. -/
def execEscalation (cell : BitVec 32) (boot : Boot) (s : State) : Host.Outcome State Fault Refusal :=
  let s := onCtl (fun c => addLog (if cellLevel cell ≥ 2 then 3 else 2) 35 0x0701 cell.toNat (domainGen c cell) 0xFF 0 (raise Reg.FLT_EVENTS_ESCALATED c)) s
  if cellLevel cell = 3 then .next (enterFatal 35 0x0701 s)
  else if !isDomain s.c cell || rdb s.c Reg.FLT_STATUS_FATAL then .next s
  else match cellLevel cell with
    | 0 => .next (drain (resetNow (groupCell (cellDie cell) (cellGroup cell)) 0x0701 true [] s))
    | 1 => .next (drain (resetNow (dieCell (cellDie cell)) 0x0701 true [] s))
    | _ => .next (errorReset boot s)

/-- No unit has claimed the token for 10 s (R578). -/
def doNoUnitTimeout (boot : Boot) (s : State) : Host.Outcome State Fault Refusal :=
  if !rdb s.c Reg.MGT_STATUS_UNHELD || s.c.sec.dead.isSome || s.c.pwr.mg != 0 then .next s
  else
    let s := onCtl (fun c => raise Reg.MGT_EVENTS_NO_UNIT (passTime (c.mgt.unheldAt + 10 * 2 ^ 32 - c.time.mono) c)) s
    if resetRefusal s.c 2 0 ≠ 0 then .next s else .next (errorReset boot s)

/-! ### Loss of input power (R490, R491, R599, R614) -/

/-- Issue stops on every tile. -/
def stopTiles (c : Ctl) : Ctl :=
  { c with tiles := c.tiles.map (fun e => (e.1, { e.2 with inReset := true, queues := [], clap := none })) }

/-- The departure datagram (R390). -/
def departDatagram (c : Ctl) : Ctl :=
  if rd c Reg.ETH_DEPART_PORT_PORT = 0 then c
  else
    let addr := sumNat ((List.range 4).map (fun n => rd c (Reg.ETH_DEPART_ADDR_ADDR n) * 2 ^ (32 * n)))
    sendFrames (rd c Reg.ETH_PRIO_PTP_PRIO) 1 .bare (.eth 9 addr (rd c Reg.ETH_DEPART_PORT_PORT) (leBytes 2 0x5A44 ++ [1, 0] ++ leBytes 2 (ownPhys c) ++ leBytes 2 (moduleGen c) ++ leBytes 8 (now c))) c

/-- Input power is gone: in Off an orderly entry, else the departure, over the dies whose rails are up. -/
def losePower (c : Ctl) : Ctl :=
  if !c.pwr.power then c
  else
    let off := rd c Reg.PWR_STATUS_MODE == 3
    let c := when (!off) (fun c => wr Reg.GAF_TONE_LEVEL 0 (stopTiles (wr Reg.FLT_STATUS_DEPARTING 1 c))) c
    let c := when (!off && c.pwr.rails) (fun c => departDatagram (sendDepart (announceCuts 16 0x0703 4 c))) c
    let c := addLog (if off then 0 else 4) 35 (if off then 0 else 0x0703) 0x30000000 (moduleGen c) 0xFF 0 c
    onPwr (fun p => { p with power := false, rails := false, mg := 3, boot := none, lost := if off then 2 else 1 }) c

def execInputPowerLoss (s : State) : Host.Outcome State Fault Refusal := .next (onCtl losePower s)

/-- The hot-swap controller has opened. -/
def execOvervoltage (s : State) : Host.Outcome State Fault Refusal := .next (onCtl losePower s)

/-- Input power is back before the MG-die rail has fallen. -/
def execPowerReturn (boot : Boot) (s : State) : Host.Outcome State Fault Refusal :=
  if s.c.pwr.power || !rdb s.c Reg.FLT_STATUS_DEPARTING then .next s
  else
    .next (onCtl (fun c => raise Reg.FLT_EVENTS_POWER_LOSS (onPwr (fun p => { p with lost := 0 }) c))
      (coldReset 6 boot (onCtl (onPwr (fun p => { p with power := true })) s)))

/-! ### Activation and the health window (R551 to R554) -/

/-- The activation cue fires: in the fatal class or in a departure it is discarded. -/
def activate (b : Boot) (s : State) : State :=
  if rdb s.c Reg.FLT_STATUS_FATAL || rdb s.c Reg.FLT_STATUS_DEPARTING then onCtl cancelActivation s
  else
    warmReset 5 b (onCtl (fun c =>
      let k := rd c (Reg.TC_CUE_ARG 44)
      cancelActivation (onUpd (fun u => { u with pointer := k, trial := true, trialUsed := false, healthAt := some c.time.mono, partsOut := partsOut c }) c)) s)

/-- 60 s from the cue: commit, or a warm reset that reverts. -/
def doHealthWindowEnd (boot : Boot) (s : State) : Host.Outcome State Fault Refusal :=
  match s.c.upd.healthAt with
  | none => .next s
  | some t =>
    if !inHealth s.c then .next s
    else
      let s := onCtl (fun c => passTime (t + 60 * 2 ^ 32 - c.time.mono) c) s
      if rdb s.c Reg.UPD_HEALTH_BOOTED && partsKept s.c && rdb s.c Reg.UPD_HEALTH_TAKE_WRAPPED then
        .next (onCtl (fun c =>
          let c := advanceArc 0 (slotNo c (bootedSlot c)).svn c
          let c := onUpd (fun u => { u with trial := false, trialUsed := false, healthAt := none, partsOut := [] }) c
          raise Reg.UPD_EVENTS_COMMITTED (wr Reg.UPD_HEALTH_PASSED 1 (wr Reg.UPD_STATUS_TRIAL 0 c))) s)
      else .next (errorReset boot s)

/-! ### Power modes (R595 to R600) -/

/-- Why PWR_CMD is refused (R600). -/
def pwrRefusal (c : Ctl) (v : Nat) : Nat :=
  let mode := rd c Reg.PWR_STATUS_MODE
  if stageNow c ≠ 10 then 1
  else if mode = 3 ∨ c.pwr.target.isSome ∨ v = mode + 1 ∨ (mode = 2 ∧ v = 2) then 2
  else if rdb c Reg.FLT_STATUS_FATAL || rdb c Reg.FLT_STATUS_DEPARTING || rdb c Reg.SEC_STATUS_RECOVERY || activationArmed c || inHealth c then 3
  else 0

/-- A drain toward a mode begins, or, with no take to wait for, the way there. -/
def beginMode (m : Nat) (c : Ctl) : Ctl :=
  wrb Reg.PWR_STATUS_DRAINING (rd c Reg.PWR_STATUS_MODE == 0) (onPwr (fun p => { p with target := some (m, c.time.mono) }) c)

/-- The domains that run in a mode (R443). -/
def domainRuns (c : Ctl) (mode d : Nat) : Bool :=
  d == 12 || d == 13 || rdb c (if mode = 0 then Reg.CLK_DOM_CTRL_EN_RUN d else if mode = 1 then Reg.CLK_DOM_CTRL_EN_SLEEP d else Reg.CLK_DOM_CTRL_EN_DEEP d)

/-- The queues of a domain have drained: no take runs on a core domain, and its tiles have nothing queued. -/
def domainIdle (c : Ctl) (d : Nat) : Bool :=
  decide (8 ≤ d) || (dieTiles d).all (fun i => (tileAt c i).take.isNone && (tileAt c i).queues.all (fun q => q.2.isEmpty))

/-- A domain stops: LPDDR5X refreshes itself, a port without its clock is down. -/
def stopDomain (d : Nat) (c : Ctl) : Ctl :=
  if rd c (Reg.CLK_DOM_FREQ_MHZ d) = 0 then c
  else
    let c := wr (Reg.CLK_DOM_FREQ_MHZ d) 0 c
    let c := when (d == 10) selfRefresh c
    when (d == 11) ethFall (when (d == 9) (forEach (List.range 18) portDown) c)

/-- The enable of a domain for a mode applies (R443): one that is cleared stops it once it has drained; a core domain starts at 0.40 GHz (R444). -/
def applyDomain (mode d : Nat) (c : Ctl) : Ctl :=
  if !domainRuns c mode d then (if domainIdle c d then stopDomain d c else c)
  else if rd c (Reg.CLK_DOM_FREQ_MHZ d) ≠ 0 ∨ mode = 3 ∨ c.clk.plls.isEmpty then c
  else wr (Reg.CLK_DOM_FREQ_MHZ d) (if d < 8 then 400 else Map.getD 0 c.clk.plls (4 * d + rd c (Reg.CLK_DOM_CTRL_SOURCE d))) c

/-- The clock enables of a mode apply. -/
def applyMode (mode : Nat) (c : Ctl) : Ctl :=
  raise Reg.PWR_EVENTS_MODE_CHANGED (wr Reg.PWR_STATUS_MODE mode (forEach (List.range 12) (applyDomain mode) c))

/-- Domains whose enable was cleared while they were busy stop once they have drained. -/
def stopIdle (c : Ctl) : Ctl :=
  forEach (List.range 12) (fun d c => if domainRuns c (rd c Reg.PWR_STATUS_MODE) d then c else applyDomain (rd c Reg.PWR_STATUS_MODE) d c) c

/-- A write of CLK_DOM_CTRL for a domain: the enables of domains 12 and 13 ignore it. -/
def enableWrite (d v : Nat) (c : Ctl) : Ctl :=
  if 12 ≤ d then c
  else
    let c := wrb (Reg.CLK_DOM_CTRL_EN_RUN d) (bit v 0) (wrb (Reg.CLK_DOM_CTRL_EN_SLEEP d) (bit v 1) (wrb (Reg.CLK_DOM_CTRL_EN_DEEP d) (bit v 2) c))
    applyDomain (rd c Reg.PWR_STATUS_MODE) d c

/-- How long T takes to fall to a draw at the down-slope. -/
def lowerTime (draw : Nat) (c : Ctl) : Nat := (c.gaf.t128 - 128 * draw) * 2 ^ 32 / (128000 * Nat.max 1 (rd c Reg.GAF_SLOPE_DN))

/-- T has fallen to a draw. -/
def lowerTo (draw : Nat) (c : Ctl) : Ctl := wr Reg.GAF_TONE_LEVEL 0 (setLevel (Nat.min c.gaf.t128 (128 * draw)) c)

/-- Rails of the V-dies removed in an orderly way: Off (R599). -/
def enterOff (c : Ctl) : Ctl :=
  let c := forEach (List.range 12) (fun d c => wr (Reg.CLK_DOM_FREQ_MHZ d) 0 c) c
  let c := disarm 32 (ethFall (forEach (List.range 18) portDown c))
  let c := onGaf (fun g => { g with railsOff := true }) (onPwr (fun p => { p with rails := false }) c)
  raise Reg.PWR_EVENTS_MODE_CHANGED (wr Reg.PWR_STATUS_MODE 3 c)

/-- The drain has ended: before Off the peers are told, and T has fallen to `draw`, the draw of the target mode. -/
def endDrain (draw : Nat) (c : Ctl) : Ctl :=
  match c.pwr.target with
  | none => c
  | some (m, _) => lowerTo draw (when (m == 3 && rd c Reg.PWR_STATUS_MODE != 2) sendDepart (wr Reg.PWR_STATUS_DRAINING 0 c))

/-- The target mode is entered. -/
def reachMode (c : Ctl) : Ctl :=
  match c.pwr.target with
  | none => c
  | some (m, _) => (if m = 3 then enterOff else applyMode m) (onPwr (fun p => { p with target := none }) c)

/-- When the target mode is entered: the rails go at once, clock enables apply at the next frame boundary. -/
def modeTime (c : Ctl) : Nat :=
  match c.pwr.target with
  | some (3, _) => now c
  | _ => roundUp (now c) (2 ^ 22)

/-- The Run enables apply at the next frame boundary; admission waits for R588 again (R598). -/
def wake (c : Ctl) : Ctl :=
  let deep := rd c Reg.PWR_STATUS_MODE == 2
  let c := advanceTo (roundUp (now c) (2 ^ 22)) c
  let c := wr Reg.GAF_CLOCK_ACTUAL 400 (applyMode 0 c)
  let c := when deep (fun c => startLinks (onPwr (fun p => { p with s5 := c.time.mono }) (leaveRefresh (Config.freeBoot c.freeCtr) (fresh c).2))) c
  if readyNow c then c else setStage 9 c

/-- A write of PWR_CMD (R596 to R600). -/
def pwrCmd (v : Nat) (c : Ctl) : Ctl :=
  if v = 0 ∨ 4 < v then c
  else
    let r := pwrRefusal c v
    if r ≠ 0 then raise Reg.PWR_EVENTS_REFUSED (wr Reg.PWR_REFUSAL_CODE r c)
    else
      let c := wr Reg.PWR_REFUSAL_CODE 0 c
      if v = 1 then wake c else beginMode (v - 1) c

def doPwrRun (s : State) : Host.Outcome State Fault Refusal := .next (settleAll (onCtl (pwrCmd 1) s))
def execPwrSleep (s : State) : Host.Outcome State Fault Refusal := .next (onCtl (pwrCmd 2) s)
def execPwrDeepSleep (s : State) : Host.Outcome State Fault Refusal := .next (onCtl (pwrCmd 3) s)
def execPwrPowerDown (s : State) : Host.Outcome State Fault Refusal := .next (onCtl (pwrCmd 4) s)

/-- DRAIN_S seconds of the drain are over: the takes still open end in 0x0601. -/
def doDrainLimit (s : State) : Host.Outcome State Fault Refusal :=
  match s.c.pwr.target with
  | none => .next s
  | some (_, t) =>
    if !rdb s.c Reg.PWR_STATUS_DRAINING then .next s
    else
      let s := onCtl (fun c => passTime (t + rd c Reg.PWR_CTRL_DRAIN_S * 2 ^ 32 - c.time.mono) c) s
      if !openTake s.c then .next s
      else .next (drain (settleAll (onCtl (fun c =>
        endTakes (fun _ t => t.st != .prepared) 0x0601 (fun _ => (capNow c, clockNow c)) (raise Reg.PWR_EVENTS_DRAIN_NG c)) s)))

end Sys2Proof.Machine
end

