-- ==== Sys2Proof/Machine/Cells.lean ====
section
/-! DEFINITION. Writes of the cell table (R30 to R32) and program images (R164 to R169, R176), both asked for by
management. -/

namespace Sys2Proof.Machine

/-! ### The cell table -/

/-- The members an entry's bytes spell, as far as its count goes. -/
def entryMembers (e : List Byte) : List (Nat × BitVec 32) :=
  (List.range (leAt e 7 1)).map (fun m => (leAt e (64 + 8 * m) 2, BitVec.ofNat 32 (leAt e (66 + 8 * m) 4)))

/-- Check 1 of R31: reserved fields, cell ID, state, member count, lead index. -/
def entryForm (i : Nat) (e : List Byte) : Bool :=
  let n := leAt e 7 1
  leAt e 0 4 == 0x80000000 + i && decide (leAt e 4 2 < 4096) && decide (leAt e 6 1 ≤ 2) && decide (n ≤ 64) && (leAt e 6 1 == 0 || n != 0) &&
  (if n = 0 then leAt e 8 1 == 0 else decide (leAt e 8 1 < n)) && leAt e 9 1 == 0 && leAt e 12 52 == 0 &&
  (List.range n).all (fun m => leAt e (70 + 8 * m) 2 == 0)

/-- A member of this module is malformed, out of service or bound to another slice (check 3): a built-in cell is bound to the
module's slice, a composite to its entry's. While the module is in slice 0 its cells count as bound to no other slice (DESIGN
CHOICE, log entry 54). -/
def memberBad (c : Ctl) (slice : Nat) (cell : BitVec 32) : Bool :=
  let out := (localTiles c (depth c) cell).any (fun i => c.ad.outTiles.contains i || c.ad.suspect.contains (groupOf i))
  if compositeForm cell then out || (decide ((cellAt c (cellIndex cell)).state ≠ 0) && (cellAt c (cellIndex cell)).slice != slice)
  else out || !plainCell c cell || (sliceNow c != 0 && sliceNow c != slice)

/-- The entries a composite of this module reaches. -/
def reaches (c : Ctl) (i : Nat) : Nat → BitVec 32 → Bool
  | 0, cell => compositeForm cell && cellIndex cell == i
  | fuel + 1, cell => compositeForm cell && (cellIndex cell == i ||
      (membersOf c cell).any (fun m => m.1 == 0xFFFF && reaches c i fuel m.2))

/-- No two lists share an element. -/
def disjointAll : List (List Nat) → Bool
  | [] => true
  | l :: ls => ls.all (fun m => m.all (fun x => !l.contains x)) && disjointAll ls

/-- An accepted take of the entry has no outcome yet. -/
def entryBusy (c : Ctl) (i : Nat) : Bool :=
  c.ad.takes.any (fun e => e.2.cell == BitVec.ofNat 32 (0x80000000 + i) && (e.2.st == .accepted || e.2.st == .started))

/-- The first failing check of R31 by its position; 0 where all pass. A member is local where its record says 0xFFFF; one that
names this module by its logical ID is treated as remote (DESIGN CHOICE, log entry 54). -/
def cellRefusal (c : Ctl) (i : Nat) (e : List Byte) : Nat :=
  let old := cellAt c i
  let slice := leAt e 4 2 % 4096
  let st := leAt e 6 1
  let ms := entryMembers e
  let here := ms.filter (fun m => m.1 == 0xFFFF)
  let used := st != 0
  if !entryForm i e then 1
  else if used && (ms.getD (leAt e 8 1) (0, 0)).1 != 0xFFFF then 2
  else if used && here.any (fun m => memberBad c slice m.2) then 3
  else if used && here.any (fun m => compositeForm m.2 && (cellAt c (cellIndex m.2)).state != 1) then 4
  else if used && here.any (fun m => reaches c i (depth c) m.2) then 5
  else if used && !disjointAll (here.map (fun m => localTiles c (depth c) m.2)) then 6
  else if used && ms.any (fun m => m.1 != 0xFFFF && (decide (m.1 > 4095) || !rtValid c m.1)) then 7
  else if old.state != 0 && (st == 0 || old.members != ms || old.lead != leAt e 8 1 || old.slice != slice) && entryBusy c i then 8
  else 0

/-- Write an entry, or refuse it with family 0x04 and the check's position. The module counts its generation. -/
def writeCell (i : Nat) (e : List Byte) (s : State) : Reply :=
  let n := cellRefusal s.c i e
  if n ≠ 0 then (0x0400 + n, [], s)
  else
    done (onCtl (fun c => setCell i { slice := leAt e 4 2, state := leAt e 6 1, lead := leAt e 8 1, gen := ((cellAt c i).gen + 1) % 2 ^ 16,
                                      members := entryMembers e } c) s)

/-- CELL_WRITE: entry index, two zero bytes, the entry. -/
def execCellWrite (req : Req) (bytes : List Byte) (s : State) : Host.Outcome State Fault Refusal :=
  .next (mgmtReq (.cellWrite req bytes) 0x31 req bytes.length (fun s =>
    if bytes.length ≠ 580 ∨ leAt bytes 2 2 ≠ 0 ∨ leAt bytes 0 2 > 4095 then (0x0002, [], s)
    else writeCell (leAt bytes 0 2) (bytes.drop 4) s) s)

/-! ### Program images -/

/-- A range within the slice's LPDDR5X allotment. -/
def inLpddrAllotment (c : Ctl) (a n : Nat) : Bool :=
  decide (lpddrBase + c.memory.cfg.base * 2 ^ 30 ≤ a) && decide (a + n ≤ lpddrBase + c.memory.cfg.limit * 2 ^ 30) &&
    regionOf c a == .lpddr

/-- The load checks of R166 in their order; 0 where all pass. -/
def imageRefusal (s : State) (a : Nat) : Nat :=
  let h := getBytes s.mem a 128
  let len := leAt h 16 4
  let gang := leAt h 20 1
  if !inLpddrAllotment s.c a 128 then 0x08
  else if leAt h 0 4 ≠ 0x43425242 ∨ leAt h 4 2 ≠ 1 then 0x01
  else if leAt h 21 3 ≠ 0 ∨ leAt h 56 72 ≠ 0 ∨ leAt h 7 1 > 1 then 0x04
  else if leAt h 7 1 = 1 then 0x07
  else if leAt h 6 1 ≠ 1 then 0x02
  else if leAt h 8 8 ≥ 2 ^ 13 then 0x03
  else if len % 8 ≠ 0 ∨ len < 8 ∨ len > 2 ^ 24 then 0x05
  else if !inLpddrAllotment s.c (a + 128) len then 0x08
  else if gang = 1 ∨ gang > 24 then 0x0A
  else if sha3_256 (getBytes s.mem (a + 128) len) ≠ sub h 24 32 then 0x06
  else if (List.range 1024).all (fun n => ((Map.get? s.c.share.images n).map (fun im => im.loaded)).getD false) then 0x09
  else 0

/-- Tiles forget the text of an image (R176). -/
def forgetText (handle : Nat) (c : Ctl) : Ctl :=
  { c with tiles := c.tiles.map (fun e => if e.2.icache = some handle then (e.1, { e.2 with icache := none }) else e) }

/-- Enter an image into the table: the loads into the entry are counted (R165). -/
def loadImage (a : Nat) (s : State) : Reply :=
  let r := imageRefusal s a
  if r ≠ 0 then (0x0300 + r, [], s)
  else
    let c := s.c
    let n := ((List.range 1024).find? (fun n => !(((Map.get? c.share.images n).map (fun im => im.loaded)).getD false))).getD 0
    let loads := (((Map.get? c.share.images n).map (fun im => im.loads)).getD 0 + 1) % 2 ^ 16
    let h := getBytes s.mem a 128
    let im : Image := { loads := loads, loaded := true, slice := sliceNow c, textBase := a + 128, textLen := leAt h 16 4, gang := leAt h 20 1 }
    let handle := loads * 65536 + n
    (0, leBytes 4 handle, onCtl (fun c => forgetText handle { c with share := { c.share with images := Map.put c.share.images n im } }) s)

def execImageLoad (req : Req) (bytes : List Byte) (s : State) : Host.Outcome State Fault Refusal :=
  .next (mgmtReq (.imageLoad req bytes) 0x32 req bytes.length (fun s =>
    if bytes.length ≠ 8 then (0x0002, [], s) else loadImage (leNat bytes) s) s)

/-- Free a handle: unknown draws 0x030D, one that an outstanding take names 0x0003 (R169). -/
def freeImage (handle : Nat) (s : State) : Reply :=
  match imageFor s.c handle (sliceNow s.c) with
  | none => (0x030D, [], s)
  | some im =>
    if s.c.ad.takes.any (fun e => e.2.handle == handle) then (0x0003, [], s)
    else
      done (onCtl (fun c => forgetText handle { c with share := { c.share with images := Map.put c.share.images (handle % 1024) { im with loaded := false } } }) s)

def execImageFree (req : Req) (bytes : List Byte) (s : State) : Host.Outcome State Fault Refusal :=
  .next (mgmtReq (.imageFree req bytes) 0x33 req bytes.length (fun s =>
    if bytes.length ≠ 4 then (0x0002, [], s) else freeImage (leNat bytes) s) s)

end Sys2Proof.Machine
end

