-- ==== Sys2Proof/Machine/Checks.lean ====
section
/-! DEFINITION. Check service (R243 to R248): a captured stream is compared with its recomputation, a mismatch is settled and
charged, and the wide check of one row is made. -/

namespace Sys2Proof.Machine

/-! ### The wide check (R248) -/

/-- One column of the wide check: FP32 products of the dequantized operands, added in increasing K order with one v.fma
each. -/
def wideSum (prior : Word) (ws acts : List WElem) : Word :=
  (ws.zip acts).foldl (fun a p => f32Fma (toF32 p.2.value) (toF32 p.1.value) a) prior

/-- The exact sum of the products' magnitudes and the prior value's. -/
def wideScale (prior : Word) (ws acts : List WElem) : Mag :=
  Mag.sum (magOf (f32 prior) :: (ws.zip acts).map (fun p => magOf ((f32 (toF32 p.2.value)).mul (f32 (toF32 p.1.value)))))

def FVal.isFinite : FVal → Bool
  | .fin _ _ _ => true
  | _ => false

/-- Every operand of a column is a number, so that its scale is one. -/
def wideFinite (prior : Word) (ws acts : List WElem) : Bool :=
  (f32 prior :: (ws.zip acts).map (fun p => (f32 (toF32 p.2.value)).mul (f32 (toF32 p.1.value)))).all FVal.isFinite

/-- |array − wide| ≤ 2^−T × scale: an infinite difference exceeds a scale that is a number. None where the difference or the scale is not
a number, for which the spec states no result (log entry 49). -/
def wideOk (t : Nat) (array wide : Word) (scale : Mag) (finite : Bool) : Option Bool :=
  if !finite then none
  else match (f32 array).add (f32 wide).negate with
  | .fin _ m e => some (!(Mag.lt ⟨scale.num, scale.den, scale.e - (t : Int)⟩ ⟨m, 1, e⟩))
  | .inf _ => some false
  | .nan => none

/-- The wide check of a capture over its 128 columns: whether it passes. -/
def wideCheck (x : Check) (c : Ctl) : Bool × Ctl :=
  let j := x.wideRow
  let acts := x.acts.getD j []
  let prior := x.prior.getD j zeroLanes
  let res := x.result.getD j zeroLanes
  (List.range 128).foldl (fun (a : Bool × Ctl) n =>
    let ws := x.weights.getD n []
    let p := lane prior n
    match wideOk a.2.mgt.tolerance (lane res n) (wideSum p ws acts) (wideScale p ws acts) (wideFinite p ws acts) with
    | some b => (a.1 && b, a.2)
    | none => let (w, c) := fresh a.2; (a.1 && w.getLsbD 0, c)) (true, c)

/-! ### Charges (R245 to R247) -/

/-- Three charges within 24 hours of powered time: a tile's group becomes suspect, a checker tile leaves check service. -/
def charge (i : Nat) (c : Ctl) : Ctl :=
  let t := c.time.mono
  let l := t :: (Map.getD [] c.share.charges i).filter (fun x => decide (t ≤ x + 86400 * 2 ^ 32))
  let c := { c with share := { c.share with charges := Map.put c.share.charges i l } }
  let c := when (decide (i < 192)) (modCount (640 + 8 * groupOf i + 6) 1) c
  if l.length < 3 then c
  else if i < 192 then suspectGroup (groupOf i) c
  else { c with share := { c.share with checkersOut := (i :: c.share.checkersOut).eraseDups } }

/-- A mismatch counts for the tile and its take. -/
def noteMismatch (x : Check) (c : Ctl) : Ctl :=
  let c := tileCount x.tile 57 1 c
  match takeAt c x.take with
  | some t => setTake x.take { t with mismatches := Nat.min 0xFFFF (t.mismatches + 1) } c
  | none => c

/-- The primary tile is charged; with CHECK_NG the take ends in 0x0208. -/
def chargePrimary (x : Check) (c : Ctl) : Ctl :=
  let c := charge x.tile c
  match takeAt c x.take with
  | some t => if reelFlag c t Reg.AD_REEL_CFG_CHECK_NG then endTake x.take 0x0208 x.tile x.pc x.checker c else c
  | none => c

/-- The third recomputation's checker: the next tile of the same row, where it is in check service. -/
def thirdChecker (c : Ctl) (k : Nat) : Option Nat :=
  let n := k / 4 * 4 + (k + 1) % 4
  if c.share.checkersOut.contains n || c.flt.outC.contains ((k - 192) / 4) then none else some n

/-- A pending check is compared. `mismatch` says whether a recomputed bit differs; `third` what the third recomputation
equals: 0 the primary tile's result, 1 the checker's, 2 neither. -/
def serveCheck (x : Check) (mismatch : Bool) (third : Nat) (c : Ctl) : Ctl :=
  let c := { c with share := { c.share with checks := c.share.checks.filter (fun y => y.id != x.id) } }
  let c := modCount (64 + 16 * ((x.checker - 192) / 4) + 8) 1 (tileCount x.tile 56 1 c)
  let c := match takeAt c x.take with
    | some t => setTake x.take { t with checks := (t.checks + 1) % 2 ^ 32 } c
    | none => c
  let wide := ((takeAt c x.take).map (fun t => t.wide)).getD false
  let (ok, c) := if wide then wideCheck x c else (true, c)
  let c := if !mismatch then c
    else
      let c := noteMismatch x c
      match (thirdChecker c x.checker).map (fun _ => third) with
      | some 0 => charge x.checker c
      | some 1 => chargePrimary x c
      | _ => chargePrimary x (charge x.checker c)
  if ok then c else chargePrimary x (noteMismatch x c)

/-- CHECK_SERVICE for the pending check of an id. -/
def execCheckService (id : BitVec 32) (mismatch : Bool) (third : Fin 3) (s : State) : Host.Outcome State Fault Refusal :=
  match s.c.share.checks.find? (fun x => x.id == id.toNat) with
  | none => .next s
  | some x => .next (drain (settleAll (onCtl (serveCheck x mismatch third) s)))

end Sys2Proof.Machine
end

