-- ==== Sys2Proof/Machine/Cues.lean ====
section
/-! DEFINITION. Package cue channels (R69 to R79), samples of counters (R510), port windows (R512), the frame boundary
(R51) and timecode steps (R67). -/

namespace Sys2Proof.Machine

/-! ### Samples (R510) -/

/-- The tile counters of a tile; one held in reset keeps its last sample. -/
def sampleTile (t i : Nat) (c : Ctl) : Ctl :=
  if (tileAt c i).inReset then wr (Reg.TL_CNT_SAMPLE_SEQ_STALE i) 1 c
  else
    let c := forEach (List.range 96) (fun n c => wr (Reg.TL_CNT_SAMPLE_VALUE i n) (rd c (Reg.TL_CNT_COUNT i n)) c) c
    let c := wr64 (Reg.TL_CNT_SAMPLE_TIME_LO_TIME i) (Reg.TL_CNT_SAMPLE_TIME_HI_TIME i) t c
    wr (Reg.TL_CNT_SAMPLE_SEQ_STALE i) 0 (wr (Reg.TL_CNT_SAMPLE_SEQ_SEQ i) (rd c (Reg.TL_CNT_SAMPLE_SEQ_SEQ i) + 1) c)

def sampleModule (t : Nat) (c : Ctl) : Ctl :=
  let c := forEach (List.range 1024) (fun n c => wr (Reg.CNT_SAMPLE_VALUE n) (rd c (Reg.CNT_COUNT n)) c) c
  wr Reg.CNT_SAMPLE_SEQ_SEQ (rd c Reg.CNT_SAMPLE_SEQ_SEQ + 1) (wr64 Reg.CNT_SAMPLE_TIME_LO_TIME Reg.CNT_SAMPLE_TIME_HI_TIME t c)

/-- The counter sets an argument names: bit 0 the tiles', bit 1 the module's. -/
def sample (arg t : Nat) (c : Ctl) : Ctl :=
  when (bit arg 1) (sampleModule t) (when (bit arg 0) (forEach (List.range 192) (sampleTile t)) c)

/-! ### When a channel is due (R74, R75) -/

def armed (c : Ctl) (n : Nat) : Bool := rdb c (Reg.TC_CUE_CTRL_ARM n)
def actionOf (c : Ctl) (n : Nat) : Nat := rd c (Reg.TC_CUE_CTRL_ACTION n)
def periodOf (c : Ctl) (n : Nat) : Nat := rd c (Reg.TC_CUE_CTRL_PERIOD_LOG2 n)

/-- Phase mode falls back to TIME: the grid phase was invalid at arming, or is now. -/
def phaseMiss (c : Ctl) (n : Nat) : Bool := c.time.gridMissed.contains n || !gridValid c

/-- The instant at which a channel next fires. -/
def dueAt (c : Ctl) (n : Nat) : Nat :=
  let t := Map.getD (chanTime c n) c.time.nexts n
  if rdb c (Reg.TC_CUE_CTRL_PHASE_MODE n) && !phaseMiss c n then gridTime c t (rd c (Reg.TC_CUE_PHASE n)) else t

/-- The first instant TIME + k × 2^P at or after `t` (R74). -/
def instantFrom (time p t : Nat) : Nat := if t ≤ time then time else time + ceilDiv (t - time) (2 ^ p) * 2 ^ p

/-! ### Firing (R72, R73, R76) -/

/-- The release of a clapper: the tiles of its take that wait resume. -/
def releaseRoot (root : Nat) (s : State) : State :=
  let ps := participants s.c root
  let s := onCtl (fun c => { c with share := { c.share with clappers := Map.del c.share.clappers root } }) s
  ps.foldl (fun s i => onTile i (fun t => { t with clap := none, arrived := false }) s) s

/-- The release of a clapper by its ID. -/
def releaseById (id : Nat) (s : State) : State :=
  (s.c.share.clappers.filter (fun e => e.2.1 == id)).foldl (fun s e => releaseRoot e.1 s) s

/-- The release of a group's clapper, its time come (R361). -/
def releaseGroup (slot : Nat) (s : State) : State :=
  match (groupAt s.c slot).ops.head? with
  | none => s
  | some o =>
    match o.release with
    | none => s
    | some r =>
      if o.done ∨ now s.c < r then s
      else goGroup slot (onCtl (fun c => modCount 612 1 (setGroup slot { groupAt c slot with ops := { o with done := true } :: (groupAt c slot).ops.tail } c)) s)

/-- The start of a take whose start cue has come. -/
def startDue (k : Nat) (s : State) : State :=
  match (takeAt s.c k).bind (fun t => t.planned) with
  | some p => if p ≤ now s.c then startTake k s else s
  | none => s

/-- The effect of a channel's action. What the boot finds after an activation is the command's `boot`, or a free value where no
command brings it (log entry 1). -/
def act (boot : Option Boot) (n : Nat) (s : State) : State :=
  let arg := rd s.c (Reg.TC_CUE_ARG n)
  match actionOf s.c n with
  | 1 => startDue arg s
  | 2 => if n < 32 then releaseGroup arg s else releaseById arg s
  | 3 => onCtl (fun c =>
      if 40 ≤ n ∧ n ≤ 43 then runSwitch n c
      else
        let dom := arg % 16
        let src := arg / 16 % 4
        if (sourceMhz c dom src).isSome && sourceLocked c dom src && rd c (Reg.CLK_DOM_CTRL_SOURCE dom) != src then moveSource dom src c else c) s
  | 4 =>
    if activationArmed s.c then
      match boot with
      | some b => activate b s
      | none => activate (Config.freeBoot s.c.freeCtr) (onCtl (fun c => (fresh c).2) s)
    else s
  | 5 => onCtl rampStep s
  | 6 => onCtl (fun c => sample arg (now c) c) s
  | _ => s

/-- A channel has fired: its flags, and the next instant of a periodic one, the first that has not passed. -/
def noteFired (n : Nat) (late : Bool) (c : Ctl) : Ctl :=
  let due := Map.getD (chanTime c n) c.time.nexts n
  let c := when (rdb c (Reg.TC_CUE_CTRL_PHASE_MODE n) && phaseMiss c n) (wr (Reg.TC_CUE_CTRL_GRID_MISS n) 1) c
  let c := modCount 452 1 (wr (Reg.TC_CUE_CTRL_FIRED n) 1 c)
  let c := when late (fun c => modCount 451 1 (bump Reg.TC_EVENTS_LATE_CUES 1 (wr (Reg.TC_CUE_CTRL_LATE n) 1 c))) c
  if periodOf c n = 0 then disarm n c
  else { c with time := { c.time with nexts := Map.put c.time.nexts n (instantFrom (chanTime c n) (periodOf c n) (Nat.max (now c) (due + 1))) } }

/-- A channel fires: it is noted first, except that an activation's channel keeps its argument for the reset it begins. -/
def fire (boot : Option Boot) (n : Nat) (late : Bool) (s : State) : State := act boot n (onCtl (noteFired n late) s)

/-- The order of actions on one tu (R76). -/
def actionRank (a : Nat) : Nat := if a = 6 then 0 else if a = 4 then 1 else if a = 3 then 2 else if a = 5 then 3 else if a = 2 then 4 else if a = 1 then 5 else 6

/-- A cue that can come due: a package channel; a tile comparator that releases a clapper, starts a take, or ends a cue.wait (R69,
R70). -/
inductive Cue where
  | chan (n : Nat)
  | release (root : Nat)
  | start (k : Nat)
  | wait (tile unit : Nat)
  deriving DecidableEq, Repr

/-- What orders channels of one action that are due on one tu: their number; for the switches of clock control, the domain (R446). -/
def chanKey (c : Ctl) (n : Nat) : Nat := ((c.clk.switches.find? (fun x => x.chan == n)).map (fun x => x.dom)).getD n

/-- Every cue with its time, its place among those of one tu (R76), and its number. -/
def cues (c : Ctl) : List (List Nat × Cue) :=
  ((List.range 64).filter (armed c)).map (fun n => ([dueAt c n, actionRank (actionOf c n), chanKey c n], Cue.chan n)) ++
  c.share.clappers.filterMap (fun e => e.2.2.map (fun r => ([r, 4, e.1], Cue.release e.1))) ++
  c.ad.takes.filterMap (fun e => (startCue c e.2).map (fun p => ([p, 5, e.1], Cue.start e.1))) ++
  c.tiles.flatMap (fun e => e.2.cueHeld.filterMap (fun u => match headOf c e.1 u with
    | some q => if opOf q = 0x2A ∧ now c < cueTime q then some ([cueTime q, 6, e.1], Cue.wait e.1 u) else none
    | none => none))

/-- The next cue that is due by a time: the earliest, ties by R76, then by number. -/
def nextCue (c : Ctl) (t : Nat) : Option (Nat × Cue) :=
  (((cues c).filter (fun e => decide (e.1.headD 0 ≤ t))).foldl (fun (b : Option (List Nat × Cue)) e => match b with
    | none => some e
    | some x => if lexLt e.1 x.1 then some e else some x) none).map (fun e => (e.1.headD 0, e.2))

/-- A cue fires: its time has come, or has passed. -/
def fireCue (boot : Option Boot) (late : Bool) (e : Cue) (s : State) : State :=
  match e with
  | .chan n => drain (settleAll (fire boot n late s))
  | .release root => drain (releaseRoot root s)
  | .start k => drain (settleAll (startTake k s))
  | .wait _ _ => settleAll (drain s)

/-- Fire, in their order, the cues that are due by a time; those before the cue `own`, where one is given. -/
def cueLoop (own : Option Cue) (t : Nat) : Nat → State → State
  | 0, s => s
  | fuel + 1, s =>
    match nextCue s.c t with
    | none => s
    | some (d, e) => if own = some e then s else cueLoop own t fuel (fireCue none false e (onCtl (advanceTo d) s))

/-- How many cues can be due by a time: 64 channels each slot (R74), and one for each take, clapper and queue. -/
def cueFuel (c : Ctl) (t : Nat) : Nat := 65 * ((t - now c) / 2 ^ 14 + 2) + 2 * c.ad.takes.length + 8 * c.tiles.length + 64

/-- Time comes to `t`: the cues due on the way fire, each at its time (R72). -/
def runTo (t : Nat) (s : State) : State := onCtl (advanceTo t) (cueLoop none t (cueFuel s.c t) s)

/-- The cues before the cue `own`, which is due at `t`, fire. -/
def runBefore (own : Cue) (t : Nat) (s : State) : State := cueLoop (some own) t (cueFuel s.c t) s

/-- A row that passes time: the cues due by the time it ends fire first, each at its time, and the row is run on what they leave. A
row passes time to a moment that the state holds, so that run twice it does not pass more. -/
def paced (row : State → Host.Outcome State Fault Refusal) (s : State) : Host.Outcome State Fault Refusal :=
  match row s with
  | .next t => if (nextCue s.c (now t.c)).isSome then row (runTo (now t.c) s) else .next t
  | o => o

/-- Every cue that is due fires. -/
def fireDue (s : State) : State := runTo (now s.c) s

/-- A cue that is due at `t` fires in its turn: those before it have fired, and left it due. -/
def turnOf (boot : Option Boot) (e : Cue) (t : Nat) (s : State) : State :=
  let s := runBefore e t s
  let u := onCtl (advanceTo t) s
  if (nextCue s.c t).map (fun x => x.2) = some e then fireCue boot false e u else u

/-- A row that is the firing of a channel with an action. -/
def fireRow (n action : Nat) (s : State) : Host.Outcome State Fault Refusal :=
  if armed s.c n && actionOf s.c n == action then .next (turnOf none (.chan n) (dueAt s.c n) s) else .next s

def execRampStep (s : State) : Host.Outcome State Fault Refusal := fireRow 32 actRamp s
def execSwitchClockSource (chan : Fin 64) (s : State) : Host.Outcome State Fault Refusal := fireRow chan actSwitch s
def execSampleCounters (chan : Fin 64) (s : State) : Host.Outcome State Fault Refusal := fireRow chan actSample s

/-- The activation cue fires, with what the boot finds; before it, the cues that come first. -/
def execActivateFirmwareSlot (boot : Boot) (s : State) : Host.Outcome State Fault Refusal :=
  if activationArmed s.c && armed s.c 44 then .next (turnOf (some boot) (.chan 44) (dueAt s.c 44) s) else .next s

/-! ### Writing a channel (R69, R73, R74, R79) -/

/-- Arming is refused: an owner's channel, an activation, a reserved action, a period out of range. -/
def armRefused (n action period : Nat) : Bool :=
  decide (n < 48) || action == 4 || decide (7 ≤ action) || !(period == 0 || decide (14 ≤ period ∧ period ≤ 32))

/-- A write to the register at `off` of channel `n`; whether the channel took it. A channel armed with a time already passed
fires at once. -/
def writeCue (n off v : Nat) (s : State) : Bool × State :=
  let c := s.c
  if off ≠ 8 then
    if armed c n then (true, s)
    else
      match off with
      | 0 => (true, onCtl (wr (Reg.TC_CUE_TIME_LO n) v) s)
      | 4 => (true, onCtl (wr (Reg.TC_CUE_TIME_HI n) v) s)
      | 12 => (true, onCtl (wr (Reg.TC_CUE_ARG n) v) s)
      | 16 => (true, onCtl (wr (Reg.TC_CUE_PHASE n) v) s)
      | _ => (true, s)
  else
    let flags := fun (c : Ctl) =>
      when (bit v 4) (wr (Reg.TC_CUE_CTRL_GRID_MISS n) 0) (when (bit v 2) (wr (Reg.TC_CUE_CTRL_LATE n) 0) (when (bit v 1) (wr (Reg.TC_CUE_CTRL_FIRED n) 0) c))
    if armed c n then (true, onCtl (fun c => flags (when (!bit v 0) (disarm n) c)) s)
    else
      let action := bits v 8 4
      let period := bits v 12 6
      if bit v 0 && armRefused n action period then (false, s)
      else
        let s := onCtl (fun c => flags (wrb (Reg.TC_CUE_CTRL_PHASE_MODE n) (bit v 3)
          (wr (Reg.TC_CUE_CTRL_ACTION n) action (wr (Reg.TC_CUE_CTRL_PERIOD_LOG2 n) period (forgetChannel n c))))) s
        if !bit v 0 then (true, s)
        else
          let s := onCtl (fun c =>
            let c := wr (Reg.TC_CUE_CTRL_ARM n) 1 c
            if bit v 3 && !gridValid c then { c with time := { c.time with gridMissed := n :: c.time.gridMissed } } else c) s
          if dueAt s.c n < now s.c then (true, drain (settleAll (fire none n true s))) else (true, s)

/-- A switch is requested; one whose time has passed runs at once, late (R73, R446). -/
def switchNow (v : Nat) (s : State) : State :=
  let t := onCtl (requestSwitch v) s
  match t.c.clk.switches.getLast? with
  | some x => if s.c.clk.switches.length < t.c.clk.switches.length ∧ x.at_ < now t.c then drain (settleAll (fire none x.chan true t)) else t
  | none => t

def execSwitchRequest (value : BitVec 32) (s : State) : Host.Outcome State Fault Refusal := .next (switchNow value.toNat s)

/-- CUE_CHANNEL_WRITE: register `reg` of the channel (0 TIME_LO, 1 TIME_HI, 2 the control register, 3 ARG, 4 PHASE). -/
def execCueChannelWrite (chan : Fin 64) (reg : Fin 5) (value : BitVec 32) (s : State) : Host.Outcome State Fault Refusal :=
  .next (writeCue chan (4 * reg) value.toNat s).2

/-! ### Steps (R67) -/

/-- The held cue.waits that a step has passed are late (R73). -/
def lateWaits (before : Nat) (c : Ctl) : Ctl :=
  forEach c.tiles (fun e c =>
    let l := e.2.cueHeld.filter (fun u => match headOf c e.1 u with
      | some q => opOf q == 0x2A && decide (before < cueTime q ∧ cueTime q ≤ now c)
      | none => false)
    if l.isEmpty then c else tileCount e.1 46 l.length (raise (Reg.TL_EVENTS_LATE_WAIT e.1) c)) c

/-- Fire, flagged late, the cues a step has passed. -/
def passedLoop (before : Nat) : Nat → State → State
  | 0, s => s
  | fuel + 1, s =>
    match nextCue s.c (now s.c) with
    | none => s
    | some (d, e) => passedLoop before fuel (fireCue none (decide (before < d ∧ d < now s.c)) e s)

/-- What a step does to the cues (R67, R73): periodic ones keep their phase; the others that it jumps past fire at once, in time
order, package channels flagged late. -/
def afterStep (before : Nat) (s : State) : State :=
  let t := now s.c
  let s := onCtl (forEach ((List.range 64).filter (fun n => armed s.c n && periodOf s.c n != 0)) (fun n c =>
    { c with time := { c.time with nexts := Map.put c.time.nexts n (instantFrom (chanTime c n) (periodOf c n) t) } })) s
  let s := onCtl (lateWaits before) s
  drain (settleAll (passedLoop before (cueFuel s.c t) s))

/-- A change of the time base that may step the timecode. -/
def steppingRow (f : Ctl → Ctl) (s : State) : State :=
  let s' := onCtl f s
  if now s'.c = now s.c then s' else afterStep (now s.c) s'

/-- A rising edge of TB_PULSE. -/
def execTbPulseEdge (spacing : BitVec 40) (s : State) : Host.Outcome State Fault Refusal := .next (steppingRow (pulseEdge spacing.toNat) s)

/-- The next frame boundary (R51). -/
def nextFrame (c : Ctl) : Nat := (frameNow c + 1) * 2 ^ 22

def applyPending (s : State) : State :=
  match s.c.time.step with
  | none => s
  | some crew => afterStep (now s.c) (onCtl (applyStep crew) s)

/-- The step that is pending applies, at the next frame boundary; the cues due before it fire on the running timecode. -/
def execTcStepApply (s : State) : Host.Outcome State Fault Refusal :=
  if s.c.time.step.isNone then .next s else .next (applyPending (runTo (nextFrame s.c) s))

/-! ### The frame boundary (R51, R58, R66, R118, R310, R314, R430) -/

/-- Spray weights from the egress queues, whose mean over the frame before and whose length now are free values (log entry 1): a queue
above the threshold gives weight 0, and one that had it keeps it down to half the threshold. -/
def sprayFrame (c : Ctl) : Ctl :=
  forEach (portsUp c) (fun q c =>
    if !rdb c Reg.FAB_CTRL_SPRAY_ADAPT then wr (Reg.FAB_PORT_WEIGHT_WEIGHT q) 128 c
    else
      let (m, c) := fresh c
      let (l, c) := fresh c
      let t := rd c Reg.FAB_EGRESS_THRESH_KIB
      let mean := m.toNat % 2 ^ 16
      let len := l.toNat % 2 ^ 16
      let shut := decide (t < len) || (rd c (Reg.FAB_PORT_WEIGHT_WEIGHT q) == 0 && decide (t ≤ 2 * len))
      wr (Reg.FAB_PORT_WEIGHT_WEIGHT q) (if shut then 0 else Nat.max 16 (255 - 255 * mean / Nat.max 1 t)) c) c

/-- The allowed-sender bitmap takes effect. -/
def allowFrame (c : Ctl) : Ctl :=
  { c with fab := { c.fab with allow := (List.range 128).foldl (fun m n => Map.setD 0 m n (rd c (Reg.FAB_ALLOW_ALLOW n))) [] } }

/-- What is counted once a frame (R509). -/
def countFrame (c : Ctl) : Ctl :=
  let hot := ((List.range 8).filter (fun k => rdb c (Reg.CLK_TH_STATE_THROTTLED k))).length
  modCount 461 hot (when (closedCause c).isSome (modCount 62 1) (when c.gaf.lag (modCount 388 1) (when c.gaf.minimum (modCount 391 1) c)))

def frameCtl (c : Ctl) : Ctl := stopIdle (commitFrame (closeFrame (countFrame (allowFrame (sprayFrame (errorFrame (slewFrame (domainFrame c))))))))

/-- Time comes to the next frame boundary: what is done there. -/
def execFramePulse (s : State) : Host.Outcome State Fault Refusal :=
  .next (fireDue (applyPending (drain (settleAll (onCtl frameCtl (runTo (nextFrame s.c) s))))))

/-! ### Port windows (R512) -/

/-- The K a port's window runs with. -/
def windowK (c : Ctl) (p : Nat) : Nat := Map.getD (Nat.min 20 (rd c (Reg.CNT_PORT_CTRL_K p))) c.clk.winK p

/-- Microseconds of a timecode. -/
def microsOf (t : Nat) : Nat := t * 1000000 / 2 ^ 32

/-- A new K waits for the end of the window. -/
def writeWindowK (p v : Nat) (c : Ctl) : Ctl :=
  let k := windowK c p
  let c := wr (Reg.CNT_PORT_CTRL_K p) (Nat.min 20 (v % 32)) (when (bit v 5) (wr (Reg.CNT_PORT_CTRL_STEPPED p) 0) c)
  onClk (fun x => { x with winK := if Nat.min 20 (v % 32) = k then Map.del x.winK p else Map.put x.winK p k }) c

/-- Window `w` ends with the units counted in each direction. -/
def windowEnd (p w out inw : Nat) (c : Ctl) : Ctl :=
  let c := wr (Reg.CNT_PORT_LAST_OUT p) out (wr (Reg.CNT_PORT_LAST_IN p) inw c)
  let c := when (decide (rd c (Reg.CNT_PORT_PEAK_OUT p) < out)) (fun c => wr (Reg.CNT_PORT_PEAK_OUT p) out (wr (Reg.CNT_PORT_PEAK_OUT_AT p) w c)) c
  let c := when (decide (rd c (Reg.CNT_PORT_PEAK_IN p) < inw)) (fun c => wr (Reg.CNT_PORT_PEAK_IN p) inw (wr (Reg.CNT_PORT_PEAK_IN_AT p) w c)) c
  match Map.get? c.clk.winK p with
  | none => c
  | some _ => wr (Reg.CNT_PORT_PEAK_OUT p) 0 (wr (Reg.CNT_PORT_PEAK_IN p) 0 (onClk (fun x => { x with winK := Map.del x.winK p }) c))

def execWindowEnd (port : Fin 179) (outUnits inUnits : BitVec 32) (s : State) : Host.Outcome State Fault Refusal :=
  let k := windowK s.c port
  let w := microsOf (now s.c) / 2 ^ k
  .next (onCtl (windowEnd port w outUnits.toNat inUnits.toNat) (runTo (ceilDiv ((w + 1) * 2 ^ k * 2 ^ 32) 1000000) s))

end Sys2Proof.Machine
end

