-- ==== Sys2Proof/Machine/Registers.lean ====
section
/-! DEFINITION. Control space as a whole: what the registers of every block show (views), what a write to each does beyond
storing, and the rows of the register access (R11 to R14, R52, R504, R505, R516, R574). -/

namespace Sys2Proof.Machine

/-! ### Views -/

/-- A 64-bit value in a LO and HI pair. -/
def pairView (lo hi : Fld) (v : Nat) : Views := [(lo.key, v % 2 ^ 32), (hi.key, v / 2 ^ 32)]

def viewTC (c : Ctl) : Views := pairView Reg.TC_NOW_LO_NOW Reg.TC_NOW_HI_NOW (now c)

def viewAD (c : Ctl) : Views := [(Reg.AD_STATUS_ADMITTING.key, b2n (admitting c))]

/-- Energy accounts in mJ (R429), the line producer's members and records, the selected log entry. -/
def viewGAF (c : Ctl) : Views :=
  let ms := if rdb c Reg.GAF_LP_CTRL_ROLE then lpMembers c else []
  let e := c.gaf.log.getD (rd c Reg.GAF_LOG_SEL_ENTRY) (0, 0, 0)
  [(Reg.GAF_STATUS_FLOOR_HOLD.key, b2n (floorHold c)), (Reg.GAF_LP_STATUS_MEMBERS.key, ms.length),
   (Reg.GAF_LP_STATUS_RECORDS.key, (ms.filter (fun m => (lpRecent c m).isSome)).length),
   (Reg.GAF_LOG_KIND_KIND.key, e.1), (Reg.GAF_LOG_KIND_VALUE.key, e.2.1)] ++
  pairView Reg.GAF_LOG_TIME_LO_TIME Reg.GAF_LOG_TIME_HI_TIME e.2.2 ++
  pairView Reg.GAF_E_IN_LO_ENERGY Reg.GAF_E_IN_HI_ENERGY (c.gaf.eIn / 1000) ++
  pairView Reg.GAF_E_TONE_LO_ENERGY Reg.GAF_E_TONE_HI_ENERGY (c.gaf.eTone / 1000) ++
  pairView Reg.GAF_E_OVERHEAD_LO_ENERGY Reg.GAF_E_OVERHEAD_HI_ENERGY (c.gaf.eOver / 1000) ++
  pairView Reg.GAF_E_SLICE_LO_ENERGY Reg.GAF_E_SLICE_HI_ENERGY (c.gaf.eSliceTakes + c.gaf.eSliceOver / 1000)

def viewCLK (c : Ctl) : Views := [(Reg.CLK_STATUS_JUDGE.key, rd c Reg.MGT_STRAPS_XO_JUDGE)]

/-- Generation, log entry, dailies slot, profile and suspects as the FLT_ registers show them (R498). -/
def viewFLT (c : Ctl) : Views :=
  let cell := BitVec.ofNat 32 (rd c Reg.FLT_GEN_SEL_CELL)
  let e := c.flt.log.getD (rd c Reg.FLT_LOG_SEL_ENTRY) []
  let slot := selected c .dailies
  let p := profileBytes c
  let groups := bitsOf 48 (fun g => c.ad.suspect.contains g)
  let dump : Views := match Map.get? c.flt.dumps slot with
    | none => []
    | some d => [((Reg.FLT_DLY_STATE_VALID slot).key, 1), ((Reg.FLT_DLY_STATE_COMPLETE slot).key, b2n d.complete),
        ((Reg.FLT_DLY_STATE_TILES slot).key, d.tiles), ((Reg.FLT_DLY_STATE_UNCAPTURED slot).key, d.uncaptured), ((Reg.FLT_DLY_TIME_US slot).key, d.us)]
  [(Reg.FLT_GEN_GEN.key, if isDomain c cell then domainGen c cell else 0), (Reg.FLT_GEN_VALID.key, b2n (isDomain c cell)),
   (Reg.FLT_SUSPECT_LO_GROUPS.key, groups % 2 ^ 32), (Reg.FLT_SUSPECT_HI_GROUPS.key, groups / 2 ^ 32)] ++
  (List.range 8).map (fun n => ((Reg.FLT_LOG_WORD_WORD n).key, leAt e (4 * n) 4)) ++
  (List.range 16).map (fun n => ((Reg.FLT_PROFILE_WORD_WORD n).key, leAt p (4 * n) 4)) ++ dump

def viewDLY (c : Ctl) : Views :=
  (List.range 4).flatMap (fun j =>
    let l := c.memory.trackers.filter (fun x => x.mdie == j)
    [((Reg.DLY_TRK_ACTIVE j).key, l.length), ((Reg.DLY_TRK_CONFIRMED j).key, (l.filter (fun x => x.confirmed)).length)])

def viewFAB (c : Ctl) : Views :=
  (List.range 6).flatMap (fun f =>
    [((Reg.FAB_REORDER_USE_KIB f).key, dieHeld c f / 1024),
     ((Reg.FAB_REORDER_USE_CONTEXTS f).key, (c.fab.dst.filter (fun x => ownerOf c x.src == f)).length)])

/-- Groups, the pool, and the group the window shows (R367). -/
def viewCOL (c : Ctl) : Views :=
  let k := selected c .group
  let g := groupAt c k
  [(Reg.COL_STATUS_OPEN.key, (c.coll.groups.filter (fun e => e.2.state == 2 || e.2.state == 3)).length), (Reg.COL_POOL_FREE_KIB.key, poolFree c),
   ((Reg.COL_GROUP_STATE_STATE k).key, g.state), ((Reg.COL_GROUP_STATE_WEIGHT k).key, g.weight), ((Reg.COL_GROUP_STATE_INDEX k).key, g.index),
   ((Reg.COL_GROUP_STATE_PENDING k).key, g.ops.length), ((Reg.COL_GROUP_ID_ID k).key, g.gid), ((Reg.COL_GROUP_MEMBERS_N k).key, g.members.length),
   ((Reg.COL_GROUP_STEP_STEP k).key, g.step), ((Reg.COL_GROUP_SLICE_SLICE k).key, g.slice), ((Reg.COL_GROUP_BUF_KIB k).key, g.bufKib),
   ((Reg.COL_GROUP_FAIL_CODE k).key, g.failCode), ((Reg.COL_GROUP_FAIL_MEMBER k).key, g.failMember)] ++
  pairView (Reg.COL_GROUP_SEQ_LO_SEQ k) (Reg.COL_GROUP_SEQ_HI_SEQ k) g.seq

/-- Exhausted counters (R528) and the words of a measurement (R535). -/
def viewSEC (c : Ctl) (off : Nat) : Views :=
  (List.range 3).map (fun k => ((Reg.SEC_ARC_EXHAUSTED k).key, b2n (rd c (Reg.SEC_ARC_VALUE k) == 511))) ++
  (if 0x100 ≤ off ∧ off < 0x200 then
    let n := (off - 0x100) / 4
    [((Reg.SEC_MEAS_WORD n).key, leAt (measure c (n / 8)) (4 * (n % 8)) 4)] else [])

/-- Versions, security versions, chunks, phase and health of the splice (R558). -/
def viewUPD (c : Ctl) (off : Nat) : Views :=
  let a := slotNo c (bootedSlot c)
  let x := slotNo c (spareSlot c)
  let (ver, svn, n) := match c.upd.manifest with
    | some m => (m.version, m.svn, m.n)
    | none => (x.version, x.svn, 0)
  [(Reg.UPD_STATUS_PHASE.key, updPhase c), (Reg.UPD_SVN_ACTIVE.key, a.svn), (Reg.UPD_SVN_TARGET.key, svn), (Reg.UPD_CHUNKS_TOTAL.key, n),
   (Reg.UPD_CHUNKS_DONE.key, popCount c.upd.bitmap n), (Reg.UPD_HEALTH_SECONDS.key, healthSeconds c),
   (Reg.UPD_HEALTH_SELFTEST.key, b2n (inHealth c && partsKept c))] ++
  pairView Reg.UPD_ACTIVE_VER_LO_VERSION Reg.UPD_ACTIVE_VER_HI_VERSION a.version ++
  pairView Reg.UPD_TARGET_VER_LO_VERSION Reg.UPD_TARGET_VER_HI_VERSION ver ++
  (if 0x1000 ≤ off then
    let w := (off - 0x1000) / 4
    [((Reg.UPD_BITMAP_BITS w).key, c.upd.bitmap / 2 ^ (32 * w) % 2 ^ 32)] else [])

/-- What is left of a time since an instant, in units of 1/`per` s. -/
def leftOf (c : Ctl) (since whole per : Nat) : Nat := whole - (c.time.mono - since) * per / 2 ^ 32

/-- Unit lease left in µs, cap lease left in ms (R573, R579). -/
def unitLeaseLeft (c : Ctl) : Nat := if rdb c Reg.MGT_STATUS_UNHELD then 0 else leftOf c c.mgt.renewedAt 10000 1000000
def capLeaseLeft (c : Ctl) : Nat := if rdb c Reg.MGT_CAP_LEASE_LAPSED then 0 else leftOf c c.mgt.capAt 5000 1000

def viewMGT (c : Ctl) : Views := [(Reg.MGT_LEASE_REMAIN_US.key, unitLeaseLeft c), (Reg.MGT_CAP_LEASE_REMAIN_MS.key, capLeaseLeft c)]

/-- What the bring-up waits for (R588, R589). -/
def viewPWR (c : Ctl) : Views :=
  let at_ := fun n => stageNow c == n
  let time := at_ 9 && rdb c Reg.PWR_CTRL_LOCK_WAIT && decide (lockOf c < 3)
  [(Reg.PWR_STATUS_WAIT_START_OK.key, b2n (at_ 3 && !rdb c Reg.MGT_LINES_START_OK)), (Reg.PWR_STATUS_WAIT_REFCLK.key, b2n (at_ 5 && !rdb c Reg.CLK_STATUS_REFCLK_OK)),
   (Reg.PWR_STATUS_WAIT_TB_REF.key, b2n (time && !rdb c Reg.TC_STATE_REF_OK)), (Reg.PWR_STATUS_WAIT_PULSE.key, b2n (time && !rdb c Reg.TC_STATE_PULSE_OK)),
   (Reg.PWR_STATUS_WAIT_PTP.key, b2n time), (Reg.PWR_STATUS_WAIT_ETH.key, b2n (at_ 9 && !ethUp c)), (Reg.PWR_STATUS_WAIT_WILEF.key, b2n (at_ 9 && !portsReady c))]

/-- The views that bear on an address. -/
def views (c : Ctl) (a : Nat) : Views :=
  match locate a with
  | .tile i _ => viewTL c i
  | .nowhere => []
  | .block b off =>
    match b with
    | 0 => viewTC c
    | 1 => viewAD c
    | 3 => viewGAF c
    | 4 => viewCLK c
    | 5 => viewFLT c
    | 7 => [(Reg.MEM_RELEASE_STATUS_BUSY.key, rd c Reg.MEM_STATUS_RELEASE_BUSY)]
    | 8 => viewDLY c
    | 9 => viewFAB c
    | 10 => viewCOL c
    | 12 => viewSEC c off
    | 13 => viewUPD c off
    | 14 => viewMGT c
    | 15 => viewPWR c
    | _ => []

/-- Read a word of control space. -/
def readReg (a : Nat) (s : State) : Nat × State :=
  let (v, c) := readAt views a s.c
  (v, { s with c := c })

/-- A word as a register shows it, with no effect of the read. -/
def peek (c : Ctl) (a : Nat) : Nat := wordOf (views c a) c (fieldsAt c a)

/-! ### Writing -/

/-- A plain write. -/
def plain (a v : Nat) (s : State) : Bool × State := (true, onCtl (writePlain a v) s)

/-- A write refused under the register's own rule. -/
def kept (s : State) : Bool × State := (false, s)

/-- TC_STEP (R67, R78). -/
def writeStep (a v : Nat) (s : State) : Bool × State :=
  let s := onCtl (writePlain a v) s
  if !bit v 0 then (true, s)
  else
    let s := onCtl requestStep s
    (rdb s.c Reg.TC_STEP_PENDING, s)

/-- The reel window (R124, R125, R127): AD_REEL_CMD, and fields that take a write only while the reel is free. -/
def writeReelWindow (off a v : Nat) (s : State) : Bool × State :=
  let r := selected s.c .reel
  let free := rd s.c (Reg.AD_REEL_STATE_STATE r) == 0
  if off = 0x104 then (v % 8 != 1 || (free && rd s.c (Reg.AD_REEL_CFG_SLICE r) != 0), reelCmd (v % 8) s)
  else if free then plain a v s
  else kept s

/-- The gaffer (R438): what a cap does follows at once. -/
def writeGaffer (off a v : Nat) (s : State) : Bool × State :=
  match writeGaf off v s.c with
  | none => plain a v s
  | some (ok, c) => (ok, drain (settleAll (afterShutdown { s with c := c })))

def writeClock (off a v : Nat) (s : State) : Bool × State :=
  if off = 0x8 then (true, onCtl (enableWrite (selected s.c .domain) v) s)
  else if off = 0x18 then
    let s := switchNow v s
    (rd s.c Reg.CLK_SW_STATUS_REFUSAL == 0, s)
  else if off = 0x20 then
    let s := onCtl (obsWrite v) s
    (!rdb s.c Reg.CLK_OBS_REFUSED, s)
  else if off = 0x24 then ((obsFreq s.c (bits v 0 5)).isSome, onCtl (countStart v) s)
  else plain a v s

/-- FLT_RESET_CMD (R498): what a module reset finds is a free value. -/
def writeReset (v : Nat) (s : State) : Bool × State :=
  let cell := BitVec.ofNat 32 (rd s.c Reg.FLT_RESET_CELL_CELL)
  let kind := v % 4
  if kind = 0 then (true, s)
  else if kind = 1 then
    let r := requestDomainReset cell s
    (r.1 == 0, drain r.2)
  else
    let r := resetRefusal s.c kind cell
    let b := Config.freeBoot s.c.freeCtr
    let s := onCtl (fun c => (fresh (wr Reg.FLT_RESET_STATUS_REFUSAL r c)).2) s
    if r ≠ 0 then (false, s) else (true, if kind = 2 then warmReset 2 b s else coldReset 3 b s)

def writeFault (off a v : Nat) (s : State) : Bool × State :=
  if off = 0x24 then writeReset v s
  else if off = 0xCC then (true, onCtl (when (bit v 0) releaseDump) s)
  else if off = 0x188 then
    if !bit v 8 then (true, s)
    else
      let s := onCtl (requestRepair (bits v 0 3) (bits v 4 3)) s
      (rd s.c Reg.FLT_REPAIR_STATUS_REFUSAL == 0, settleAll s)
  else plain a v s

/-- Module counters that the table reserves (R509). -/
def reservedCount (n : Nat) : Bool :=
  decide ((370 ≤ n ∧ n ≤ 383) ∨ (400 ≤ n ∧ n ≤ 447) ∨ (462 ≤ n ∧ n ≤ 511) ∨ (616 ≤ n ∧ n ≤ 639))

/-- Counters (R504, R509, R512): a reserved counter ignores writes, and so does CHAIN of the last one. -/
def writeCounter (off a v : Nat) (s : State) : Bool × State :=
  if off < 0x1000 ∧ reservedCount (off / 4) then (true, s)
  else if off = 0x1FFC then plain a (v / 2 * 2) s
  else if 0x4000 ≤ off ∧ (off - 0x4000) % 32 = 0 then (true, onCtl (writeWindowK ((off - 0x4000) / 32) v) s)
  else plain a v s

/-- The units of a mask word but the one reserved for crew. -/
def noCrewUnit (v : Nat) : Nat := v - 2 ^ 15 * b2n (bit v 15)

def writeMem (off a v : Nat) (s : State) : Bool × State :=
  if off = 0x1C then
    if !bit v 0 then (true, s)
    else
      let s := applyCfg s
      (rd s.c Reg.MEM_CFG_STATUS_REFUSAL == 0, s)
  else if 0x40 ≤ off ∧ off < 0x80 then plain a (noCrewUnit v) s
  else if off = 0x80 then (true, onCtl (flushCmd (v % 4)) s)
  else if off = 0x90 then
    if !bit v 0 then (true, s)
    else
      let (w, c) := fresh s.c
      (true, drain (releaseSlice (w.toNat % 701) { s with c := c }))
  else plain a v s

/-- DLY_PF_CTRL: MAX_DEPTH is held at DEPTH or above (R295). -/
def writeDolly (off a v : Nat) (s : State) : Bool × State :=
  let s := onCtl (writePlain a v) s
  (true, if off = 0 then onCtl (fun c => wr Reg.DLY_PF_CTRL_MAX_DEPTH (Nat.max (rd c Reg.DLY_PF_CTRL_DEPTH) (rd c Reg.DLY_PF_CTRL_MAX_DEPTH)) c) s else s)

/-- A Wilef port is disabled, or enabled and begins to train (R299, R300). -/
def writePort (q : Nat) (v : Nat) (c : Ctl) : Ctl :=
  if !bit v 0 then disablePort q c
  else if rdb c (Reg.FAB_PORT_CTRL_ENABLE q) then c
  else wr (Reg.FAB_PORT_CTRL_ENABLE q) 1 (when ((fdiesUp c).contains (q / 3)) (wr (Reg.FAB_PORT_STATE_STATE q) 1) c)

/-- The fabric: FAB_ID outside slice 0 keeps its value (R307); a route-table write may be refused (R309); the bitmap enters the hash (R311). -/
def writeFabric (off a v : Nat) (s : State) : Bool × State :=
  if off = 0 then (if sliceNow s.c = 0 then plain a v s else kept s)
  else if off = 0x24 then
    let was := rdb s.c Reg.FAB_RT_CMD_STATUS_REFUSED
    let s := settleAll (writeRtEntry v (onCtl (wr Reg.FAB_RT_CMD_STATUS_REFUSED 0) s))
    let bad := rdb s.c Reg.FAB_RT_CMD_STATUS_REFUSED
    (!bad, onCtl (wrb Reg.FAB_RT_CMD_STATUS_REFUSED (was || bad)) s)
  else if 0x1000 ≤ off ∧ off < 0x4000 ∧ (off - 0x1000) % 64 = 4 then (true, onCtl (writePort ((off - 0x1000) / 64) v) s)
  else if 0x4000 ≤ off ∧ off < 0x4200 then (true, onCtl (fun c => routeChanged (writePlain a v c)) s)
  else plain a v s

def writeColl (off a v : Nat) (s : State) : Bool × State :=
  if off = 4 ∨ off = 8 then (!s.c.coll.groups.any (fun e => e.2.state != 0), onCtl (poolWrite (off == 8) (v % 2 ^ 20)) s)
  else if off = 0x104 then (true, if bit v 0 then settleAll (onCtl (destroySlot (selected s.c .group)) s) else s)
  else plain a v s

/-- ETH_CTRL: a port that is disabled falls, one enabled begins to train (R370). -/
def writeEthCtrl (a v : Nat) (c : Ctl) : Ctl :=
  let was := rdb c Reg.ETH_CTRL_ENABLE
  let c := writePlain a v c
  if was && !bit v 0 then ethFall c
  else if !was && bit v 0 then when (!c.flt.outN) (wr Reg.ETH_STATUS_LINK 1) c
  else c

/-- ETH_MACSEC_CTRL: MACsec that is switched on without a key begins an exchange; REKEY begins the next (R379, R380). -/
def writeMacsec (a v : Nat) (c : Ctl) : Ctl :=
  let was := rdb c Reg.ETH_MACSEC_CTRL_ENABLE
  let c := showMacsec (writePlain a v c)
  when ((bit v 0 && !was && !rdb c Reg.ETH_MACSEC_STATUS_KEY_READY) || bit v 2) beginKeying c

/-- The Ethernet port; the configuration of a queue pair or window in use keeps its value (R393). -/
def writeEth (off a v : Nat) (s : State) : Bool × State :=
  if off = 4 then (true, onCtl (writeEthCtrl a v) s)
  else if off = 0x24 then
    let r := prioWrite v s.c
    (r.1, { s with c := r.2 })
  else if off = 0x2C then (true, onCtl (writeMacsec a v) s)
  else if off = 0x104 then (true, onCtl (qpCmd v) s)
  else if 0x10C ≤ off ∧ off ≤ 0x12C then (if qpState s.c (selected s.c .qp) = 0 then plain a v s else kept s)
  else if 0x204 ≤ off ∧ off ≤ 0x20C then (if rdb s.c (Reg.ETH_WIN_CTRL_VALID (selected s.c .rwin)) then kept s else plain a v s)
  else if off = 0x210 then
    let w := selected s.c .rwin
    let s := onCtl (winWrite w v) s
    (rdb s.c (Reg.ETH_WIN_CTRL_VALID w) == bit v 0, s)
  else plain a v s

/-- A write to a register of a block. -/
def writeBlock (b off a v : Nat) (s : State) : Bool × State :=
  match b with
  | 0 =>
    if off = 0xC then (true, onCtl (writeTcCtrl (writePlain a v)) s)
    else if off = 0x1C then writeStep a v s else if 0x2000 ≤ off then writeCue ((off - 0x2000) / 32) (off % 32) v s else plain a v s
  | 1 => if off < 0x104 then plain a v s else writeReelWindow off a v s
  | 3 => writeGaffer off a v s
  | 4 => writeClock off a v s
  | 5 => writeFault off a v s
  | 6 => writeCounter off a v s
  | 7 => writeMem off a v s
  | 8 => writeDolly off a v s
  | 9 => writeFabric off a v s
  | 10 => writeColl off a v s
  | 11 => writeEth off a v s
  | 13 => if off = 0x30 then (v % 4 != 1 || !(activationArmed s.c || inHealth s.c), onCtl (updCmd v) s) else plain a v s
  | 15 => if off = 4 then (decide (v % 8 = 0 ∨ 4 < v % 8) || pwrRefusal s.c (v % 8) == 0, settleAll (onCtl (pwrCmd (v % 8)) s)) else plain a v s
  | _ => plain a v s

/-- Write a word of control space: the code of family 0x05 (R567) and the state. -/
def writeReg (a v : Nat) (s : State) : Nat × State :=
  if (fieldsAt s.c a).isEmpty then (0x0501, onCtl (unmapped a) s)
  else match locate a with
    | .tile i off =>
      -- IC_INVALIDATE is refused while a take runs (R175)
      (if off = 0x40 ∧ bit v 0 ∧ tileRuns s.c i then 0x0502 else 0, writeTL i off (if off = 0x837C then v / 2 * 2 else v) s)
    | .block b off =>
      let (ok, s) := writeBlock b off a v s
      (if ok then 0 else 0x0502, s)
    | .nowhere => (0x0501, s)

/-! ### Rows -/

/-- A write by a management unit, with its token epoch: one that is not current is discarded and counted (R574). -/
def execRegisterWrite (epoch : BitVec 16) (addr : BitVec 48) (value : BitVec 32) (s : State) : Host.Outcome State Fault Refusal :=
  if epoch.toNat = rd s.c Reg.MGT_STATUS_EPOCH then .next (writeReg addr.toNat value.toNat s).2
  else .next (onCtl (bump Reg.MGT_STALE_WRITES_COUNT 1) s)

/-- Put out the word that a read returned. -/
def answerRead (a : Nat) (s : State) : State :=
  let (v, s) := readReg a s
  onCtl (emit (.word v)) s

/-- A read or write of an address that names no register; one that names a register is no such access. -/
def execUnmappedAccess (addr : BitVec 48) (write : Bool) (s : State) : Host.Outcome State Fault Refusal :=
  if (fieldsAt s.c addr.toNat).isEmpty then .next (if write then onCtl (unmapped addr.toNat) s else answerRead addr.toNat s) else .next s

/-- A read of any register: a LO, or a chained counter, latches the word above it. -/
def execLatchingRead (addr : BitVec 48) (s : State) : Host.Outcome State Fault Refusal := .next (answerRead addr.toNat s)

/-- A read of a port's PEAK register, inward or outward. -/
def execPeakRead (port : Fin 179) (inward : Bool) (s : State) : Host.Outcome State Fault Refusal :=
  .next (answerRead (controlBase + 0x6004000 + 32 * port + (if inward then 0x10 else 0xC)) s)

end Sys2Proof.Machine
end

