-- ==== Sys2Proof/Machine/Mgmt.lean ====
section
/-! DEFINITION. The management port: sessions (R562 to R565), the messages that read and write the module (R569, R571,
R572, R582), ROM recovery (R555), the cap lease (R579), the control token (R573 to R577), powered hours (R583). -/

namespace Sys2Proof.Machine

/-- Nothing on the management port answers: a dead unit, or an MG-die that is held or off. -/
def portSilent (c : Ctl) : Bool := c.sec.dead.isSome || c.pwr.mg != 0

def malformed (s : State) : Reply := (0x0002, [], s)

/-! ### Sessions -/

/-- A session ID that is not zero and not in use, from a free value. -/
def freshSid (c : Ctl) : Nat × Ctl :=
  let (w, c) := fresh c
  let sid := fun (k : Nat) => (w.toNat + k) % (2 ^ 32 - 1) + 1
  (((List.range (c.mgt.sessions.length + 1)).map sid).find? (fun x => (findSession c x).isNone) |>.getD (sid 0), c)

/-- The answer to HELLO: session ID, encapsulation key, quote over the nonce and that key. -/
def answerHello (num : Nat) (nonce : List Byte) (c : Ctl) : Ctl :=
  let (sid, c) := freshSid c
  let (seed, c) := freshBytes 64 c
  let ek := kemKey seed
  let (q, c) := quote (sha3_256 (nonce ++ ek)) c
  let x : Session := { sid := sid, keyed := false, opened := false, at_ := c.time.mono, nonce := nonce, seed := seed, secret := [], keys := [], highest := 0, seqOut := 0, answers := [], lastNum := 0,
                       begun := [], second := 0, inSecond := 0 }
  let payload := leBytes 4 sid ++ ek ++ q
  sendBare (mgmtHeader 0x01 num 0 payload.length true ++ payload) (onMgt (fun m => { m with sessions := m.sessions ++ [x] }) c)

/-- HELLO: dropped where it would exceed the rate of quotes, or while the TRNG fails (R520). -/
def execHello (num : BitVec 32) (bytes : List Byte) (s : State) : Host.Outcome State Fault Refusal :=
  .next (
    if portSilent s.c then s
    else if mustWait s.c then onCtl (bufferReq (.hello num bytes) (bytes.length + 20)) s
    else if bytes.length ≠ 32 then onCtl (sendBare (mgmtHeader 0x01 num.toNat 0x0002 0 true)) s
    else if !quoteFree s.c || !rdb s.c Reg.SEC_TRNG_HEALTHY then s
    else onCtl (answerHello num.toNat bytes) s)

/-- The keys of a session (R562 step 4). -/
def sessionKeys (x : Session) (ct secret : List Byte) : List Byte :=
  shake256 64 (kemSecret x.seed ct ++ secret ++ asciiBytes "ZHOUD-MGT" ++ x.nonce ++ leBytes 4 x.sid)

/-- The secret a session is keyed under: the tray secret in force, or in a recovery entered through BOOT_HOLD, as the tray's choice has
it (a free value), the zero secret (R565). -/
def secretNow (c : Ctl) : List Byte × Ctl :=
  if rdb c Reg.SEC_STATUS_RECOVERY && rdb c Reg.MGT_STRAPS_BOOT_HOLD then
    let (w, c) := fresh c
    (if w.toNat % 2 = 0 then c.mgt.secret else zeros32, c)
  else (c.mgt.secret, c)

/-- KEY: session ID and ciphertext; both sides derive the keys. -/
def takeKey (b : List Byte) (c : Ctl) : Ctl :=
  match findSession c (leAt b 0 4) with
  | none => c
  | some x =>
    if x.keyed || b.length != 1092 || decide (x.at_ + 2 ^ 32 ≤ c.time.mono) then c
    else
      let (secret, c) := secretNow c
      setSession { x with keyed := true, at_ := c.time.mono, secret := secret, keys := sessionKeys x (b.drop 4) secret } c

def execKey (num : BitVec 32) (bytes : List Byte) (s : State) : Host.Outcome State Fault Refusal :=
  .next (
    if portSilent s.c then s
    else if mustWait s.c then onCtl (bufferReq (.key num bytes) (bytes.length + 20)) s
    else onCtl (takeKey bytes) s)

/-- 1 s after the answer to HELLO without a KEY. -/
def doKeyTimeout (sid : BitVec 32) (s : State) : Host.Outcome State Fault Refusal :=
  .next (onCtl (fun c => match findSession c sid.toNat with
    | none => c
    | some x => if x.keyed then c else dropSession x.sid (passTime (x.at_ + 2 ^ 32 - c.time.mono) c)) s)

/-- 60 s without a verified request. -/
def doSessionTimeout (sid : BitVec 32) (s : State) : Host.Outcome State Fault Refusal :=
  .next (onCtl (fun c => match findSession c sid.toNat with
    | none => c
    | some x => if x.keyed then dropSession x.sid (passTime (x.at_ + 60 * 2 ^ 32 - c.time.mono) c) else c) s)

/-- A datagram that is not whole 10 ms after its first fragment is discarded. Commands bring whole datagrams: nothing of it stands in the state. -/
def execReassemblyTimeout (s : State) : Host.Outcome State Fault Refusal := .next s

/-- A request was acted on in the step from one state to the next: its answer, of status done, is in the store, and was not. -/
def actedOn (r : Req) (before after : Ctl) : Bool :=
  let stored := fun (c : Ctl) => (findSession c r.sid.toNat).bind (fun x => x.answers.find? (fun a => a.1 == r.num.toNat))
  (stored before).isNone && (match stored after with
    | some a => leAt a.2 8 2 == 0
    | none => false)

/-- BYE: answered, then the session closes. -/
def execBye (req : Req) (bytes : List Byte) (s : State) : Host.Outcome State Fault Refusal :=
  let s' := mgmtReq (.bye req bytes) 0x03 req bytes.length (fun s => if bytes.length = 0 then done s else malformed s) s
  .next (if actedOn req s.c s'.c then onCtl (dropSession req.sid.toNat) s' else s')

/-- TRAY_SECRET. -/
def execTraySecret (req : Req) (bytes : List Byte) (s : State) : Host.Outcome State Fault Refusal :=
  .next (mgmtReq (.traySecret req bytes) 0x04 req bytes.length (fun s =>
    if bytes.length ≠ 32 then malformed s
    else done (onCtl (fun c => raise Reg.MGT_EVENTS_SECRET_CHANGED (onMgt (fun m => { m with secret := bytes }) c)) s)) s)

/-! ### Inventory and readings (R569, R582) -/

def invItem (tag : Nat) (b : List Byte) : List Byte := leBytes 2 tag ++ leBytes 2 b.length ++ b


/-- Sequence and hash of a record. -/
def recordItem (r : Option Record) : List Byte := leBytes 4 (recordSeq r) ++ ((r.map (fun x => sha3_256 x.bytes)).getD zeros32)

/-- Manufacturer, revision and density as the mode registers give them, trained bin, in service. -/
def deviceItem (c : Ctl) (d : Nat) : List Byte :=
  padTo 16 ((List.range 3).map (Config.deviceMode d) ++ leBytes 1 (rd c Reg.MEM_SPEED_DEV_BIN / 4 ^ d % 4) ++ leBytes 1 (b2n (bit (rd c Reg.MEM_STATUS_DEV_IN_SERVICE) d)))

/-- The package links out of service: one between two C-dies is marked at both ends (R17, R21). -/
def linkMap (c : Ctl) : Nat :=
  bitsOf 64 (fun b => c.flt.outLinks.any (fun l => l == b || (decide (l % 8 < 4) && decide (8 * Nat.xor (l / 8) ([1, 2, 4, 7].getD (l % 8) 0) + l % 8 = b))))

def macNow (c : Ctl) : Nat := rd c Reg.ETH_MAC_LO_MAC + 2 ^ 32 * rd c Reg.ETH_MAC_HI_MAC

def slotItem (c : Ctl) (k : Nat) : List Byte := leBytes 8 (slotNo c k).version ++ leBytes 2 (slotNo c k).svn ++ leBytes 1 (slotState c k)

def inventory (c : Ctl) : List Byte :=
  invItem 0x01 (asciiBytes (if orderingNow c = 0 then "NZ40-1600-768" else "NZ40-1200-768")) ++ invItem 0x02 (leBytes 8 (serialNo c))
  ++ invItem 0x03 (recordItem c.sec.cfg ++ recordItem c.sec.repair) ++ invItem 0x04 ((List.range 40).flatMap (fun k => leBytes 8 (c.sec.dieSerials.getD k 0)))
  ++ invItem 0x05 ((List.range 12).flatMap (deviceItem c))
  ++ invItem 0x06 (leBytes 1 (rd c Reg.MGT_STRAPS_SLOT_ID) ++ beBytes 6 (macNow c) ++ beBytes 6 (macNow c + 1))
  ++ invItem 0x07 (slotItem c 0 ++ slotItem c 1 ++ leBytes 1 (bootedSlot c))
  ++ invItem 0x08 (leBytes 4 (rd c Reg.MGT_HOURS_TENTHS)) ++ invItem 0x09 (leBytes 4 (rd c Reg.MGT_POWER_CYCLES_COUNT))
  ++ invItem 0x0A ((List.range 128).flatMap (fun k => leBytes 4 (Map.getD 0 c.mgt.thermal k)))
  ++ invItem 0x0B ((c.sec.repairNow.map (fun r => r.bytes)).getD []) ++ invItem 0x0C (profileBytes c) ++ invItem 0x0D (leBytes 8 (linkMap c))
  ++ invItem 0x0E ([rd c Reg.FLT_COUNT_MODULE_COUNT, rd c Reg.FLT_COUNT_FATAL_COUNT, rd c Reg.UPD_REVERTS_COUNT, rd c Reg.FLT_LAST_RESET_SOURCE,
      rd c Reg.MGT_TAKEOVERS_COUNT].flatMap (leBytes 4))

/-- A message without a payload that is answered with bytes. -/
def tell (bytes : List Byte) (f : Ctl → List Byte) (s : State) : Reply := if bytes.length = 0 then (0, f s.c, s) else malformed s

def execInventoryGet (req : Req) (bytes : List Byte) (s : State) : Host.Outcome State Fault Refusal :=
  .next (mgmtReq (.inventoryGet req bytes) 0x10 req bytes.length (tell bytes inventory) s)

/-- A word as its register shows it: block and offset. -/
def shown (c : Ctl) (b off : Nat) : List Byte := leBytes 4 (peek c (controlBase + b * 2 ^ 24 + off))

def sensors (c : Ctl) : List Byte :=
  leBytes 8 (now c) ++ [0x48, 0x4C, 0x50, 0x54].flatMap (shown c 3) ++ (List.range 8).flatMap (fun k => shown c 4 (0x200 + 16 * k))
  ++ [0x30C, 0x404, 0x400].flatMap (shown c 4)

def execSensorGet (req : Req) (bytes : List Byte) (s : State) : Host.Outcome State Fault Refusal :=
  .next (mgmtReq (.sensorGet req bytes) 0x11 req bytes.length (tell bytes sensors) s)

def stateWords (c : Ctl) : List Byte :=
  [0x0, 0x4, 0xC, 0x10, 0x14, 0x18, 0x20, 0x28, 0x40].flatMap (shown c 3) ++ shown c 14 8 ++ profileBytes c

def execStateGet (req : Req) (bytes : List Byte) (s : State) : Host.Outcome State Fault Refusal :=
  .next (mgmtReq (.stateGet req bytes) 0x12 req bytes.length (tell bytes stateWords) s)

/-! ### Register access (R569) -/

/-- Read words in order: the words, and whether an address named no register. -/
def readWords : Nat → Nat → State → List Byte × Bool × State
  | 0, _, s => ([], false, s)
  | n + 1, a, s =>
    let gap := (fieldsAt s.c a).isEmpty
    let (v, s) := readReg a s
    let (b, g, s) := readWords n (a + 4) s
    (leBytes 4 v ++ b, gap || g, s)

def regRead (b : List Byte) (s : State) : Reply :=
  let n := leAt b 8 2
  if b.length ≠ 10 ∨ n = 0 ∨ 64 < n then malformed s
  else
    let (words, gap, s) := readWords n (leAt b 0 8) s
    (if gap then 0x0501 else 0, words, s)

def execRegRead (req : Req) (bytes : List Byte) (s : State) : Host.Outcome State Fault Refusal :=
  .next (mgmtReq (.regRead req bytes) 0x13 req bytes.length (regRead bytes) s)

/-- Write words in order: status and index of the first that is refused. -/
def writeWords : List Nat → Nat → Nat → State → Nat × Nat × State
  | [], _, _, s => (0, 0xFFFF, s)
  | v :: l, k, a, s =>
    let (code, s) := writeReg a v s
    let (st, first, s) := writeWords l (k + 1) (a + 4) s
    (if code ≠ 0 then code else st, if code ≠ 0 then k else first, s)

def regWrite (b : List Byte) (s : State) : Reply :=
  let n := leAt b 8 2
  if n = 0 ∨ 64 < n ∨ b.length ≠ 10 + 4 * n then malformed s
  else
    let (st, first, s) := writeWords ((List.range n).map (fun k => leAt b (10 + 4 * k) 4)) 0 (leAt b 0 8) s
    (st, leBytes 2 first, s)

/-- REG_WRITE; a reset of the module that a word asks for closes the session before its answer. -/
def execRegWrite (req : Req) (bytes : List Byte) (s : State) : Host.Outcome State Fault Refusal :=
  .next (mgmtReq (.regWrite req bytes) 0x14 req bytes.length (regWrite bytes) s)

/-! ### Lease, grid, fabric, dailies, slice -/

def execLease (req : Req) (bytes : List Byte) (s : State) : Host.Outcome State Fault Refusal :=
  .next (mgmtReq (.lease req bytes) 0x23 req bytes.length (fun s =>
    if bytes.length ≠ 0 then malformed s
    else
      let s := drain (settleAll (onCtl renewCapLease s))
      (0, leBytes 4 (capLeaseLeft s.c), s)) s)

/-- 5 s without a renewal: the orphan cap enters E. -/
def doCapLeaseLapse (s : State) : Host.Outcome State Fault Refusal :=
  gafRow (fun c =>
    if rdb c Reg.MGT_CAP_LEASE_LAPSED then c
    else
      let c := passTime (c.mgt.capAt + 5 * 2 ^ 32 - c.time.mono) c
      let c := bump Reg.MGT_CAP_LAPSES_COUNT 1 (raise Reg.MGT_EVENTS_CAP_LEASE_LAPSED (wr Reg.MGT_CAP_LEASE_LAPSED 1 c))
      settleCaps (setAlert Reg.MGT_ALERT_CAUSE_CAP_LEASE_LAPSED true c)) s

def gridPhaseOf (b : List Byte) (s : State) : Reply :=
  let n := leAt b 0 2
  if n = 0 ∨ 16 < n ∨ b.length ≠ 8 + 8 * n ∨ !zerosAt b 2 6 then malformed s
  else done (onCtl (gridMessage ((List.range n).map (fun k => leAt b (8 + 8 * k) 8))) s)

def execGridPhase (req : Req) (bytes : List Byte) (s : State) : Host.Outcome State Fault Refusal :=
  .next (mgmtReq (.gridPhase req bytes) 0x24 req bytes.length (gridPhaseOf bytes) s)

/-- FENCE: logical ID, 1 to set or 0 to clear. -/
def fence (b : List Byte) (s : State) : Reply :=
  let n := leAt b 0 2
  if b.length ≠ 3 ∨ 4096 ≤ n ∨ 1 < leAt b 2 1 then malformed s
  else done (settleAll (if leAt b 2 1 = 1 then fenceSet n s else fenceClear n s))

def execFenceSet (req : Req) (bytes : List Byte) (s : State) : Host.Outcome State Fault Refusal :=
  .next (mgmtReq (.fenceSet req bytes) 0x34 req bytes.length (fence bytes) s)

def execFenceClear (req : Req) (bytes : List Byte) (s : State) : Host.Outcome State Fault Refusal :=
  .next (mgmtReq (.fenceClear req bytes) 0x34 req bytes.length (fence bytes) s)

def execRemap (req : Req) (bytes : List Byte) (s : State) : Host.Outcome State Fault Refusal :=
  .next (mgmtReq (.remap req bytes) 0x35 req bytes.length (fun s =>
    let n := leAt bytes 0 2
    if bytes.length ≠ 4 ∨ 4096 ≤ n ∨ 4096 ≤ leAt bytes 2 2 then malformed s
    else
      let (ok, s) := remapEntry n (leAt bytes 2 2) s
      (if ok then 0 else 0x0502, [], s)) s)

/-- Where a dailies slot stands (R480). -/
def dailiesBase (die slot : Nat) : Nat := sramBase + (32 * die + 15) * 0x4000000 + 0x2000000 + slot * 0x200000

def dailiesRead (b : List Byte) (s : State) : Reply :=
  let die := leAt b 0 1
  let slot := leAt b 1 1
  let off := leAt b 4 4
  let n := leAt b 8 4
  if b.length ≠ 12 ∨ 8 ≤ die ∨ 16 ≤ slot ∨ !zerosAt b 2 2 ∨ 16384 < n ∨ 0x200000 < off + n then malformed s
  else if (Map.get? s.c.flt.dumps (16 * die + slot)).isNone then (0x0003, [], s)
  else (0, getBytes s.mem (dailiesBase die slot + off) n, s)

def execDailiesRead (req : Req) (bytes : List Byte) (s : State) : Host.Outcome State Fault Refusal :=
  .next (mgmtReq (.dailiesRead req bytes) 0x50 req bytes.length (dailiesRead bytes) s)

/-- The wide-check tolerance of the configuration record; 16 where it gives none (R248). -/
def defaultTolerance (c : Ctl) : Nat :=
  match c.sec.cfgNow with
  | some r => if r.content.wideTol = 0 then 16 else r.content.wideTol
  | none => 16

/-- What SLICE_ASSIGN requires (R571). -/
def sliceFree (c : Ctl) (slice : Nat) : Bool :=
  if slice = 0 then c.memory.released && !rdb c Reg.MEM_STATUS_RELEASE_BUSY
  else sliceNow c == 0 && rd c Reg.FLT_PROFILE_ACK_SEQ == c.flt.profileSeq && !rdb c Reg.SEC_STATUS_DEBUG_ACTIVE && !rdb c Reg.MEM_STATUS_RELEASE_BUSY

def sliceAssign (b : List Byte) (s : State) : Reply :=
  let slice := leAt b 0 2
  let t := leAt b 2 1
  if b.length ≠ 3 ∨ 4096 ≤ slice ∨ (t ≠ 0 ∧ (t < 8 ∨ 23 < t)) then malformed s
  else if !sliceFree s.c slice then (0x0003, [], s)
  else done (onCtl (fun c =>
    let c := onMgt (fun m => { m with tolerance := if t = 0 then defaultTolerance c else t }) (routeChanged (wr Reg.FAB_SLICE_SLICE slice c))
    onMem (fun m => { m with released := m.released && slice == 0 }) (onGaf (fun g => { g with eSliceOver := 0, eSliceTakes := 0 }) c)) s)

def execSliceAssign (req : Req) (bytes : List Byte) (s : State) : Host.Outcome State Fault Refusal :=
  .next (mgmtReq (.sliceAssign req bytes) 0x30 req bytes.length (sliceAssign bytes) s)

/-! ### ROM recovery (R555) -/

/-- A slot that could be booted as the module knows it now. -/
def slotSound (c : Ctl) (k : Nat) : Bool := decide (2 ≤ slotState c k) && !(slotNo c k).failed && decide (rd c (Reg.SEC_ARC_VALUE 0) ≤ (slotNo c k).svn)

/-- The slot that recovery writes: A, or B when only A is bootable. -/
def recoverySlot (c : Ctl) : Nat := b2n (slotSound c 0 && !slotSound c 1)

/-- A chunk of the can; the last missing one has the can verified. A can that fails starts again. -/
def takeRecovery (b : List Byte) (sigOk : Bool) (s : State) : Reply :=
  let idx := leAt b 0 4
  let len := leAt b 4 4
  let n := ceilDiv len 16384
  let body := b.drop 8
  let answer := fun (code : Nat) (s : State) => (0x0200 + code, leBytes 4 (popCount s.c.upd.recBitmap n), onCtl (wr Reg.UPD_REFUSAL_CODE code) s)
  if !rdb s.c Reg.SEC_STATUS_RECOVERY then (0x0003, [], s)
  else if len = 0 ∨ 0x1E000000 < len ∨ b.length < 8 then answer 0x08 s
  else if n ≤ idx then answer 0x0A s
  else if body.length ≠ (if idx + 1 = n then len - 16384 * (n - 1) else 16384) then answer 0x08 s
  else
    let k := recoverySlot s.c
    let s := onCtl (fun c =>
      let c := onUpd (fun u => if u.recLen = len then u else { u with recLen := len, recBitmap := 0 }) c
      let c := onUpd (fun u => { u with recBitmap := if bit u.recBitmap idx then u.recBitmap else u.recBitmap + 2 ^ idx }) c
      setSlotState k 1 (norWrite (slotBase k + 16384 * idx) body c)) s
    if popCount s.c.upd.recBitmap n ≠ n then answer 0 s
    else
      let code := canCode s.c (slotBase k) sigOk
      let reply := answer code s
      (reply.1, reply.2.1, onCtl (fun c =>
        let c := onUpd (fun u => { u with recBitmap := 0, recLen := 0 }) c
        if code = 0 then wr Reg.FLT_STATUS_RESET_BUSY 1 (setSlotState k 2 (setSlot k (slotFromNor c k) c)) else c) reply.2.2)

/-- RECOVERY: after the answer to the last chunk of a can that verifies comes a cold reset, whose findings are free values. -/
def execRecovery (req : Req) (bytes : List Byte) (sigOk : Bool) (s : State) : Host.Outcome State Fault Refusal :=
  let s' := mgmtReq (.recovery req bytes sigOk) 0x46 req bytes.length (takeRecovery bytes sigOk) s
  if rdb s'.c Reg.FLT_STATUS_RESET_BUSY && !rdb s.c Reg.FLT_STATUS_RESET_BUSY then
    .next (coldReset 3 (Config.freeBoot s'.c.freeCtr) (onCtl (fun c => (fresh (wr Reg.FLT_STATUS_RESET_BUSY 0 c)).2) s'))
  else .next s'

/-! ### PROFILE and ALERT (R572) -/

/-- The tray's answer to a notice: a protected datagram like any other (R563). -/
def takeAnswer (typ : Nat) (r : Req) (c : Ctl) : Ctl :=
  match findSession c r.sid.toNat with
  | none => bump Reg.MGT_RX_DROP_AUTH_COUNT 1 c
  | some x =>
    if !x.opened || !r.verified then bump Reg.MGT_RX_DROP_AUTH_COUNT 1 c
    else if r.seq.toNat ≤ x.highest then bump Reg.MGT_RX_DROP_REPLAY_COUNT 1 c
    else onMgt (fun m => { m with notices := m.notices.filter (fun e => e.1 != typ) }) (setSession { x with highest := r.seq.toNat } c)

/-- A notice: the module announces a change (no answer given), or the tray answers. -/
def noticeRow (self : Instr) (typ : Nat) (answer : Option Req) (announce : Ctl → Ctl) (c : Ctl) : Ctl :=
  if portSilent c then c
  else match answer with
    | none => if rdb c Reg.MGT_STATUS_UNHELD then c else announce c
    | some r => if mustWait c then bufferReq self 44 c else takeAnswer typ r c

def execProfile (answer : Option Req) (s : State) : Host.Outcome State Fault Refusal :=
  .next (onCtl (noticeRow (.profile answer) 0x60 answer (fun c =>
    if c.flt.profileSeq = c.mgt.profiled then c
    else postNotice 0x60 (profileBytes c) (onMgt (fun m => { m with profiled := c.flt.profileSeq }) c))) s)

/-- MGT_ALERT_CAUSE as a word. -/
def alertWord (c : Ctl) : Nat := peek c (controlBase + 0xE000014)

def execAlert (answer : Option Req) (s : State) : Host.Outcome State Fault Refusal :=
  .next (onCtl (noticeRow (.alert answer) 0x61 answer (fun c =>
    let now_ := alertWord c
    if now_ = c.mgt.alerted then c
    else postNotice 0x61 (leBytes 4 c.mgt.alerted ++ leBytes 4 now_) (onMgt (fun m => { m with alerted := now_ }) c))) s)

/-- The notice sent longest ago. -/
def oldestNotice (l : List (Nat × Nat × List Byte)) : Option (Nat × Nat × List Byte) :=
  l.foldl (fun b e => match b with
    | none => some e
    | some x => if e.2.1 < x.2.1 then some e else some x) none

/-- 1 s after it was last sent, an unanswered notice is sent again. -/
def doNoticeResend (s : State) : Host.Outcome State Fault Refusal :=
  .next (onCtl (fun c =>
    if portSilent c || rdb c Reg.MGT_STATUS_UNHELD then c
    else match oldestNotice c.mgt.notices with
      | none => c
      | some e => postNotice e.1 e.2.2 (passTime (e.2.1 + 2 ^ 32 - c.time.mono) c)) s)

/-! ### The control token (R573 to R578) -/

/-- A unit is in service. -/
def unitOk (c : Ctl) (u : Nat) : Bool := rdb c (if u = 0 then Reg.MGT_STATUS_FIRST_OK else Reg.MGT_STATUS_SECOND_OK)

/-- NO_UNIT holds ALERT_n while the token is unheld and no unit can claim it. -/
def judgeUnits (c : Ctl) : Ctl :=
  let none_ := rdb c Reg.MGT_STATUS_UNHELD && !unitOk c 0 && !unitOk c 1
  setAlert Reg.MGT_ALERT_CAUSE_NO_UNIT none_ (when none_ (raise Reg.MGT_EVENTS_NO_UNIT) c)

/-- A unit leaves service until the next module reset. -/
def unitOut (u : Nat) (c : Ctl) : Ctl :=
  if !unitOk c u then c
  else
    let c := wr (if u = 0 then Reg.MGT_STATUS_FIRST_OK else Reg.MGT_STATUS_SECOND_OK) 0 (onFlt (fun f => { f with outUnits := (u :: f.outUnits).eraseDups }) c)
    judgeUnits (noteProfile (setAlert Reg.MGT_ALERT_CAUSE_UNIT_OUT true (raise Reg.MGT_EVENTS_UNIT_OUT c)))

def execUnitOut (unit : Fin 2) (s : State) : Host.Outcome State Fault Refusal := .next (onCtl (unitOut unit) s)

/-- The holder, in service, renews 2.5 ms after its last renewal. -/
def doLeaseRenewal (s : State) : Host.Outcome State Fault Refusal :=
  .next (onCtl (fun c =>
    if rdb c Reg.MGT_STATUS_UNHELD || !unitOk c (rd c Reg.MGT_STATUS_HOLDER) then c
    else
      let c := passTime (c.mgt.renewedAt + 2 ^ 32 / 400 - c.time.mono) c
      onMgt (fun m => { m with renewedAt := c.time.mono }) c) s)

def nextEpoch (c : Ctl) : Ctl := wr Reg.MGT_STATUS_EPOCH (rd c Reg.MGT_STATUS_EPOCH + 1) c

/-- The unit lease expires; a unit that has lost it three times within an hour stays out of service. -/
def leaseExpires (c : Ctl) : Ctl :=
  if rdb c Reg.MGT_STATUS_UNHELD then c
  else
    let c := passTime (c.mgt.renewedAt + 2 ^ 32 / 100 - c.time.mono) c
    let u := rd c Reg.MGT_STATUS_HOLDER
    let t := c.time.mono
    let l := t :: (Map.getD [] c.mgt.losses u).filter (fun x => decide (t ≤ x + 3600 * 2 ^ 32))
    let c := nextEpoch (wr Reg.MGT_STATUS_UNHELD 1 (onMgt (fun m => { m with unheldAt := t, losses := Map.put m.losses u l }) c))
    judgeUnits (when (decide (3 ≤ l.length)) (unitOut u) c)

def doUnitLeaseExpiry (s : State) : Host.Outcome State Fault Refusal := .next (onCtl leaseExpires s)

/-- Requests begun and not answered are answered 0x0005 (R576). -/
def interruptBegun (c : Ctl) : Ctl :=
  forEach c.mgt.sessions (fun x c =>
    forEach x.begun.reverse (fun n c => bump Reg.MGT_INTERRUPTED_COUNT 1 (answerReq x.sid 0 n 0x0005 [] c)) c) c

/-- A unit in service claims the token; by another unit than the one that lost it this is a takeover. -/
def claimToken (u : Nat) (c : Ctl) : Ctl :=
  if !rdb c Reg.MGT_STATUS_UNHELD || !unitOk c u || portSilent c then c
  else
    let taken := decide (u ≠ rd c Reg.MGT_STATUS_HOLDER) && rd c Reg.MGT_STATUS_EPOCH != 0
    let c := wr Reg.MGT_STATUS_UNHELD 0 (wr Reg.MGT_STATUS_HOLDER u (onMgt (fun m => { m with renewedAt := c.time.mono }) c))
    let c := when taken (fun c => raise Reg.MGT_EVENTS_TAKEOVER (bump Reg.MGT_TAKEOVERS_COUNT 1 c)) c
    judgeUnits (interruptBegun c)

def execTokenClaim (unit : Fin 2) (s : State) : Host.Outcome State Fault Refusal := .next (onCtl (claimToken unit) s)

/-- The second unit releases the token at a renewal with no request begun, and the first, in service, claims it. -/
def execTakeback (s : State) : Host.Outcome State Fault Refusal :=
  .next (onCtl (fun c =>
    if rdb c Reg.MGT_STATUS_UNHELD || rd c Reg.MGT_STATUS_HOLDER != 1 || !unitOk c 0 || c.mgt.sessions.any (fun x => !x.begun.isEmpty) then c
    else
      let c := nextEpoch (wr Reg.MGT_STATUS_HOLDER 0 (onMgt (fun m => { m with renewedAt := c.time.mono }) c))
      raise Reg.MGT_EVENTS_TAKEBACK (bump Reg.MGT_TAKEBACKS_COUNT 1 c)) s)

/-! ### Powered hours (R583) -/

/-- The bin of a TMAX in 0.1 °C. -/
def thermalBin (t : Nat) : Nat := if t < 400 then 0 else if 1100 ≤ t then 15 else 1 + (t - 400) / 50

/-- Six minutes more: each C-die that has a reading counts 0.1 h in its bin. -/
def poweredHours (c : Ctl) : Ctl :=
  let c := bump Reg.MGT_HOURS_TENTHS 1 c
  forEach (List.range 8) (fun k c =>
    let t := rd c (Reg.CLK_TH_STATE_TMAX k)
    if t = 0xFFF then c
    else onMgt (fun m => { m with thermal := Map.put m.thermal (16 * k + thermalBin t) (Map.getD 0 m.thermal (16 * k + thermalBin t) + 1) }) c) c

def execPoweredHoursUpdate (s : State) : Host.Outcome State Fault Refusal := .next (onCtl poweredHours s)

end Sys2Proof.Machine
end

