-- ==== Sys2Proof/Machine/TileExec.lean ====
section
/-! DEFINITION. The rows of the tile instructions: each issues its word on its tile (R128 to R142), after which the queues
run as far as they go and what ends is settled. The 56 bits below the opcode are the row's operand. -/

namespace Sys2Proof.Machine

/-- Issue an instruction, then let the queues run. -/
def tileStep (i : Nat) (w : BitVec 64) (unit : Nat) (f : OpForm) (run : State → State) (s : State) : Host.Outcome State Fault Refusal :=
  .next (settleAll (drain (issue i w unit f run s)))

/-- An instruction for a unit's queue, with what it captures: the scalar registers it names are its operands (R129, R130, R182). -/
def queueStep (i : Nat) (w : BitVec 64) (unit : Nat) (f : OpForm) (sa sb sc da db : Nat) (s : State) : Host.Outcome State Fault Refusal :=
  tileStep i w unit { f with srcs := [sa, sb, sc] } (enqueue i unit w sa sb sc da db) s

/-- A word whose FN is the row's: a value of FN that names another row is replaced, a reserved one kept. -/
def fnWord (op : Nat) (lo len count fn : Nat) (body : BitVec 56) : BitVec 64 :=
  let w := opWord op body
  if fld w lo len < count then withBits w lo len fn else w

/-- The form of a row that fixes FN: another value is reserved. -/
def fnForm (lo len fn : Nat) (w : BitVec 64) (f : OpForm) : OpForm := { f with rsvOk := f.rsvOk && fld w lo len == fn }

/-! ### Scalar, branch, predicate -/

def execSAlu (imm : Bool) (tile : Fin 192) (body : BitVec 56) (s : State) : Host.Outcome State Fault Refusal :=
  let w := opWord (if imm then 0x02 else 0x01) body
  if imm then tileStep tile w 0 (formSAluImm w) (runSAluImm tile w) s else tileStep tile w 0 (formSAluReg w) (runSAluReg tile w) s

def execSLih (tile : Fin 192) (body : BitVec 56) (s : State) : Host.Outcome State Fault Refusal :=
  let w := opWord 0x03 body
  tileStep tile w 0 (formSLih w) (runSLih tile w) s

def execSLd (tile : Fin 192) (body : BitVec 56) (s : State) : Host.Outcome State Fault Refusal :=
  let w := opWord 0x10 body
  tileStep tile w 0 (formSLd w) (runSLd tile w) s

def execSSt (tile : Fin 192) (body : BitVec 56) (s : State) : Host.Outcome State Fault Refusal :=
  let w := opWord 0x11 body
  tileStep tile w 0 (formSSt w) (runSSt tile w) s

def execSAmo (tile : Fin 192) (body : BitVec 56) (s : State) : Host.Outcome State Fault Refusal :=
  let w := opWord 0x12 body
  tileStep tile w 0 (formSAmo w) (runSAmo tile w) s

def execBCond (tile : Fin 192) (body : BitVec 56) (s : State) : Host.Outcome State Fault Refusal :=
  let w := opWord 0x18 body
  tileStep tile w 0 (formBCond w) (runBCond tile w) s

def execBLink (tile : Fin 192) (body : BitVec 56) (s : State) : Host.Outcome State Fault Refusal :=
  let w := opWord 0x19 body
  tileStep tile w 0 (formBLink w) (runBLink tile w) s

def execBReg (tile : Fin 192) (body : BitVec 56) (s : State) : Host.Outcome State Fault Refusal :=
  let w := opWord 0x1A body
  tileStep tile w 0 (formBReg w) (runBReg tile w) s

def execEnd (tile : Fin 192) (body : BitVec 56) (s : State) : Host.Outcome State Fault Refusal :=
  let w := opWord 0x1B body
  tileStep tile w 0 (formEnd w) (runEnd tile w) s

def execPCmp (tile : Fin 192) (body : BitVec 56) (s : State) : Host.Outcome State Fault Refusal :=
  let w := opWord 0x20 body
  tileStep tile w 0 (formPCmp w) (runPCmp tile w) s

def execPCmpi (tile : Fin 192) (body : BitVec 56) (s : State) : Host.Outcome State Fault Refusal :=
  let w := opWord 0x21 body
  tileStep tile w 0 (formPCmpi w) (runPCmpi tile w) s

def execPLog (tile : Fin 192) (body : BitVec 56) (s : State) : Host.Outcome State Fault Refusal :=
  let w := opWord 0x22 body
  tileStep tile w 0 (formPLog w) (runPLog tile w) s

/-! ### Synchronisation -/

def execSemPost (tile : Fin 192) (body : BitVec 56) (s : State) : Host.Outcome State Fault Refusal :=
  let w := fnWord 0x28 48 4 3 0 body
  let f := fnForm 48 4 0 w (formSemPost s.c tile w)
  if yUNIT w = 0 then tileStep tile w 0 f (runSemPostNow tile w) s else queueStep tile w (yUNIT w) f 0 0 0 0 0 s

/-- sem.wait: with UNIT 0 it stands in queue 0, where it holds the sequencer itself until the count suffices (R149). -/
def execSemWait (tile : Fin 192) (body : BitVec 56) (s : State) : Host.Outcome State Fault Refusal :=
  let w := fnWord 0x28 48 4 3 1 body
  queueStep tile w (yUNIT w) (fnForm 48 4 1 w (formSemWait s.c tile w)) 0 0 0 0 0 s

def execSemRd (tile : Fin 192) (body : BitVec 56) (s : State) : Host.Outcome State Fault Refusal :=
  let w := fnWord 0x28 48 4 3 2 body
  tileStep tile w 0 (fnForm 48 4 2 w (formSemRd s.c tile w)) (runSemRd tile w) s

def formClap (w : BitVec 64) : OpForm := { rsvOk := fz w 40 12 && fz w 32 3 && fz w 16 16, srcs := [ySA w] }

/-- clap: issue stops until the release (R152). -/
def runClap (i : Nat) (w : BitVec 64) (s : State) : State :=
  let term := if ySA w = 0 then none else some (sVal s i (ySA w)).toNat
  onTile i (fun t => { t with clap := some (fld w 0 16, term, t.lastPc), arrived := false }) s

def execClap (tile : Fin 192) (body : BitVec 56) (s : State) : Host.Outcome State Fault Refusal :=
  let w := opWord 0x29 body
  tileStep tile w 4 (formClap w) (runClap tile w) s

def formCueWait (w : BitVec 64) : OpForm :=
  { rsvOk := fz w 43 9 && fz w 32 3, valid := decide (1 ≤ yUNIT w ∧ yUNIT w < 6) }

/-- The cue.waits outstanding on a tile. -/
def cueWaits (c : Ctl) (i : Nat) : Nat :=
  sumNat ((tileAt c i).queues.map (fun x => (x.2.filter (fun y => opOf y == 0x2A)).length))

/-- Two cue.waits are outstanding on a tile of the gang: a third stalls issue (R154). -/
def cueWaitsFull (c : Ctl) (i : Nat) : Bool := (gangOf c i).any (fun j => decide (cueWaits c j ≥ 2))

def execCueWait (tile : Fin 192) (body : BitVec 56) (s : State) : Host.Outcome State Fault Refusal :=
  let w := opWord 0x2A body
  queueStep tile w (yUNIT w) { formCueWait w with hold := cueWaitsFull s.c tile } (ySA w) 0 0 0 0 s

def formFence (w : BitVec 64) : OpForm := { rsvOk := fz w 40 8 && fz w 32 3 }

def execMemFence (tile : Fin 192) (body : BitVec 56) (s : State) : Host.Outcome State Fault Refusal :=
  let w := fnWord 0x2B 48 4 2 0 body
  queueStep tile w 4 (fnForm 48 4 0 w (formFence w)) (ySA w) 0 0 0 0 s

def execMemFenceFlush (tile : Fin 192) (body : BitVec 56) (s : State) : Host.Outcome State Fault Refusal :=
  let w := fnWord 0x2B 48 4 2 1 body
  queueStep tile w 4 (fnForm 48 4 1 w { formFence w with valid := !fz w 0 32 }) (ySA w) 0 0 0 0 s

/-! ### Messages (R157, R158) -/

/-- Messages outstanding on a tile, those in its queue included (R161). -/
def msgsOut (c : Ctl) (i : Nat) : Nat :=
  (tileAt c i).msgs.length + ((queueOf (tileAt c i) 5).filter (fun q => opOf q == 0x30 || opOf q == 0x31)).length

/-- 64 messages are outstanding on a tile of the gang: a 65th stalls issue (R161). -/
def msgsFull (c : Ctl) (i : Nat) : Bool := (gangOf c i).any (fun j => decide (msgsOut c j ≥ 64))

/-- The form of a message, with its limit and its operands. -/
def msgForm (c : Ctl) (i : Nat) (w : BitVec 64) : OpForm :=
  { formMsg w with hold := msgsFull c i, srcs := [fld w 47 5, fld w 42 5, fld w 37 5] }

/-- What a message's register values must satisfy at issue, then its place in the queue. -/
def issueMsg (send : Bool) (i : Nat) (w : BitVec 64) (s : State) : State :=
  let sa := sVal s i (fld w 47 5)
  let sb := sVal s i (fld w 42 5)
  let sc := sVal s i (fld w 37 5)
  if !msgValues s.c i (fld w 30 2) send sa sb sc then ngAt i 0x0202 (pcOf s i) w.toNat s
  else
    match (gangOf s.c i).findSome? (fun j => msgReach s.c j sb sc) with
    | some e => accessNg i (pcOf s i) e s
    | none => enqueue i 5 w (fld w 47 5) (fld w 42 5) (fld w 37 5) 0 0 s

def execMsgPost (tile : Fin 192) (body : BitVec 56) (s : State) : Host.Outcome State Fault Refusal :=
  let w := opWord 0x30 body
  tileStep tile w 5 (msgForm s.c tile w) (issueMsg false tile w) s

def execMsgSend (tile : Fin 192) (body : BitVec 56) (s : State) : Host.Outcome State Fault Refusal :=
  let w := opWord 0x31 body
  tileStep tile w 5 (msgForm s.c tile w) (issueMsg true tile w) s

/-! ### Counters and crew (R162, R163) -/

def execCntRd (tile : Fin 192) (body : BitVec 56) (s : State) : Host.Outcome State Fault Refusal :=
  let w := opWord 0x38 body
  tileStep tile w 0 (formCntRd s.c tile w) (runCntRd tile w) s

def execCsRd (tile : Fin 192) (body : BitVec 56) (s : State) : Host.Outcome State Fault Refusal :=
  let w := opWord 0x39 body
  tileStep tile w 0 (formCs w) (runCsRd tile w) s

def execCsWr (tile : Fin 192) (body : BitVec 56) (s : State) : Host.Outcome State Fault Refusal :=
  let w := opWord 0x3A body
  tileStep tile w 0 { formCs w with srcs := [aSA w, aSD w] } (runCsWr tile w) s

/-! ### Vector and quantize -/

def execVFp (tile : Fin 192) (body : BitVec 56) (s : State) : Host.Outcome State Fault Refusal :=
  let w := opWord 0x40 body
  queueStep tile w 1 (formVFp w) 0 0 0 0 0 s

def execVInt (tile : Fin 192) (body : BitVec 56) (s : State) : Host.Outcome State Fault Refusal :=
  let w := opWord 0x41 body
  queueStep tile w 1 (formVInt w) 0 0 0 0 0 s

def execVSfu (tile : Fin 192) (body : BitVec 56) (s : State) : Host.Outcome State Fault Refusal :=
  let w := opWord 0x42 body
  queueStep tile w 1 (formVSfu w) 0 0 0 0 0 s

def execVCmp (tile : Fin 192) (body : BitVec 56) (s : State) : Host.Outcome State Fault Refusal :=
  let w := opWord 0x43 body
  queueStep tile w 1 (formVCmp w) 0 0 0 0 0 s

def execVSel (tile : Fin 192) (body : BitVec 56) (s : State) : Host.Outcome State Fault Refusal :=
  let w := opWord 0x44 body
  queueStep tile w 1 (formVSel w) 0 0 0 0 0 s

def execVRed (tile : Fin 192) (body : BitVec 56) (s : State) : Host.Outcome State Fault Refusal :=
  let w := opWord 0x45 body
  queueStep tile w 1 (formVRed w) 0 0 0 0 0 s

def execVTopk (tile : Fin 192) (body : BitVec 56) (s : State) : Host.Outcome State Fault Refusal :=
  let w := opWord 0x46 body
  queueStep tile w 1 (formVTopk w) 0 0 0 0 0 s

def execVPerm (tile : Fin 192) (body : BitVec 56) (s : State) : Host.Outcome State Fault Refusal :=
  let w := opWord 0x47 body
  queueStep tile w 1 (formVPerm w) 0 0 0 0 0 s

def execVCvt (tile : Fin 192) (body : BitVec 56) (s : State) : Host.Outcome State Fault Refusal :=
  let w := opWord 0x48 body
  queueStep tile w 1 (formVCvt w) 0 0 0 0 0 s

def execVLd (tile : Fin 192) (body : BitVec 56) (s : State) : Host.Outcome State Fault Refusal :=
  let w := opWord 0x50 body
  queueStep tile w 1 (formVLd w) (vmSA w) (vmSB w) 0 0 0 s

def execVSt (tile : Fin 192) (body : BitVec 56) (s : State) : Host.Outcome State Fault Refusal :=
  let w := opWord 0x51 body
  queueStep tile w 1 (formVSt w) (vmSA w) (vmSB w) 0 0 0 s

def execVBcast (tile : Fin 192) (body : BitVec 56) (s : State) : Host.Outcome State Fault Refusal :=
  let w := opWord 0x52 body
  queueStep tile w 1 (formVBcast w) (vmSA w) (vmSB w) 0 0 0 s

def execVqQuant (tile : Fin 192) (body : BitVec 56) (s : State) : Host.Outcome State Fault Refusal :=
  let w := opWord 0x60 body
  queueStep tile w 1 (formVqQuant w) (fld w 37 5) 0 0 (fld w 42 4) (fld w 42 4) s

def execVqDequant (tile : Fin 192) (body : BitVec 56) (s : State) : Host.Outcome State Fault Refusal :=
  let w := opWord 0x61 body
  queueStep tile w 1 (formVqDequant w) (fld w 37 5) 0 0 (fld w 42 4) (fld w 42 4) s

/-! ### Matrix -/

def execMxWload (tile : Fin 192) (body : BitVec 56) (s : State) : Host.Outcome State Fault Refusal :=
  let w := opWord 0x68 body
  queueStep tile w 2 (formMxWload w) (xSA w) 0 0 (xDA w) (xDB w) s

def execMxSwap (tile : Fin 192) (body : BitVec 56) (s : State) : Host.Outcome State Fault Refusal :=
  let w := opWord 0x69 body
  queueStep tile w 2 (formMxSwap w) (xSA w) 0 0 (xDA w) (xDB w) s

def execMxStream (tile : Fin 192) (body : BitVec 56) (s : State) : Host.Outcome State Fault Refusal :=
  let w := opWord 0x6A body
  queueStep tile w 2 (formMxStream w) (xSA w) 0 0 (xDA w) (xDB w) s

def execMxDrain (tile : Fin 192) (body : BitVec 56) (s : State) : Host.Outcome State Fault Refusal :=
  let w := opWord 0x6B body
  queueStep tile w 2 (formMxDrain w) (xSA w) 0 0 (xDA w) (xDB w) s

def execMxZero (tile : Fin 192) (body : BitVec 56) (s : State) : Host.Outcome State Fault Refusal :=
  let w := opWord 0x6C body
  queueStep tile w 2 (formMxZero w) (xSA w) 0 0 (xDA w) (xDB w) s

/-! ### Dolly -/

def execDlyMove (tile : Fin 192) (body : BitVec 56) (s : State) : Host.Outcome State Fault Refusal :=
  let w := opWord 0x80 body
  queueStep tile w 3 (formDlyMove w) (dSA w) (dSB w) 0 (dDA w) (dDB w) s

def execDlyGather (tile : Fin 192) (body : BitVec 56) (s : State) : Host.Outcome State Fault Refusal :=
  let w := opWord 0x81 body
  queueStep tile w 3 (formDlyGather w) (dSA w) (dSB w) 0 (dDA w) (dDB w) s

def execDlyDsc (tile : Fin 192) (body : BitVec 56) (s : State) : Host.Outcome State Fault Refusal :=
  let w := opWord 0x82 body
  queueStep tile w 3 (formDlyDsc w) (fld w 43 5) (fld w 38 5) 0 0 0 s

/-! ### Collectives (R342, R343) -/

/-- coll.start with the FN of a row. -/
def collStep (fn : Nat) (i : Nat) (body : BitVec 56) (s : State) : Host.Outcome State Fault Refusal :=
  let w := fnWord 0x32 27 4 12 fn body
  queueStep i w 5 (fnForm 27 4 fn w (formCollStart w)) (cSA w) 0 0 (cDA w) (cDB w) s

def execCreate (tile : Fin 192) (body : BitVec 56) (s : State) : Host.Outcome State Fault Refusal := collStep 0 tile body s

/-- DESTROY by coll.start, or by management writing COL_GROUP_CMD for the slot (R341, R368). -/
def execDestroy (byRegister : Bool) (slot : Fin 256) (tile : Fin 192) (body : BitVec 56) (s : State) : Host.Outcome State Fault Refusal :=
  if byRegister then .next (settleAll (onCtl (destroySlot slot) s)) else collStep 1 tile body s

def execAllReduce (tile : Fin 192) (body : BitVec 56) (s : State) : Host.Outcome State Fault Refusal := collStep 2 tile body s

def execReduceScatter (tile : Fin 192) (body : BitVec 56) (s : State) : Host.Outcome State Fault Refusal := collStep 3 tile body s

def execAllGather (tile : Fin 192) (body : BitVec 56) (s : State) : Host.Outcome State Fault Refusal := collStep 4 tile body s

def execBroadcast (tile : Fin 192) (body : BitVec 56) (s : State) : Host.Outcome State Fault Refusal := collStep 5 tile body s

def execReduce (tile : Fin 192) (body : BitVec 56) (s : State) : Host.Outcome State Fault Refusal := collStep 6 tile body s

def execAllToAll (tile : Fin 192) (body : BitVec 56) (s : State) : Host.Outcome State Fault Refusal := collStep 7 tile body s

def execClapper (tile : Fin 192) (body : BitVec 56) (s : State) : Host.Outcome State Fault Refusal := collStep 8 tile body s

def execSend (tile : Fin 192) (body : BitVec 56) (s : State) : Host.Outcome State Fault Refusal := collStep 9 tile body s

def execReceive (tile : Fin 192) (body : BitVec 56) (s : State) : Host.Outcome State Fault Refusal := collStep 10 tile body s

def execFused (tile : Fin 192) (body : BitVec 56) (s : State) : Host.Outcome State Fault Refusal := collStep 11 tile body s

def execCollWait (tile : Fin 192) (body : BitVec 56) (s : State) : Host.Outcome State Fault Refusal :=
  let w := opWord 0x33 body
  queueStep tile w 5 (formCollWait w) 0 0 0 0 0 s

/-! ### Tile registers with rows of their own (R175, R211, R514) -/

def execIcInvalidate (tile : Fin 192) (s : State) : Host.Outcome State Fault Refusal := .next (writeTL tile 0x40 1 s)

def execSpadClear (tile : Fin 192) (s : State) : Host.Outcome State Fault Refusal := .next (writeTL tile 0x1014 1 s)

def execCensusClearEntry (tile : Fin 192) (entry : Fin 64) (s : State) : Host.Outcome State Fault Refusal :=
  .next (writeTL tile 0x8600 (64 + entry) s)

def execCensusClearAll (tile : Fin 192) (s : State) : Host.Outcome State Fault Refusal := .next (writeTL tile 0x8600 128 s)

end Sys2Proof.Machine
end

