-- ==== Sys2Proof/Machine/Timed.lean ====
section
/-! DEFINITION. The rows that pass time (log entry 6): the cues due on the way fire before the row's effect (R72). -/

namespace Sys2Proof.Machine

/-! ### Rows whose time is known before they run -/

/-- The hold limit of a lost input ends (R65). -/
def execHoldoverExpiry (input : TimeInput) (s : State) : Host.Outcome State Fault Refusal :=
  if heldInput s.c input && (fallTo s.c input).isSome then .next (onCtl (holdExpired input) (runTo (holdEnd s.c input) s)) else .next s

/-- The newest crossing of the grid becomes 1 s old (R60). -/
def execGridStale (s : State) : Host.Outcome State Fault Refusal :=
  match s.c.time.crossings with
  | [] => .next s
  | x :: _ => .next (onCtl gridStale (runTo (x + 2 ^ 32) s))

/-- The drain has ended: T falls at the down-slope, and the mode is entered, but for Off at a frame boundary (R597 to R599). -/
def execModeApply (draw : BitVec 16) (s : State) : Host.Outcome State Fault Refusal :=
  if s.c.pwr.target.isNone || openTake s.c then .next s
  else
    let s := onCtl (endDrain draw.toNat) (runTo (now s.c + lowerTime draw.toNat s.c) s)
    .next (settleAll (onCtl reachMode (runTo (modeTime s.c) s)))

/-- The release of a clapper: within the module its participants issue again (R152), between modules the operation completes
(R361). -/
def execReleaseClapper (between : Bool) (key : Nat) (s : State) : Host.Outcome State Fault Refusal :=
  if between then
    match (groupAt s.c key).ops.head?.bind (fun o => o.release) with
    | none => .next s
    | some r =>
      match (List.range 32).find? (fun n => armed s.c n && actionOf s.c n == 2 && rd s.c (Reg.TC_CUE_ARG n) == key) with
      | some n => .next (turnOf none (.chan n) (dueAt s.c n) s)
      | none => .next (settleAll (drain (releaseGroup key (runTo r s))))
  else
    match (Map.get? s.c.share.clappers key).bind (fun e => e.2) with
    | none => .next s
    | some r => .next (turnOf none (.release key) r s)

/-- The start cue of the take in a slot of the journal, or of a copy made here (R92). -/
def execStartTake (key : BitVec 32) (s : State) : Host.Outcome State Fault Refusal :=
  match (takeAt s.c key.toNat).bind (startCue s.c) with
  | none => .next s
  | some p => .next (turnOf none (.start key.toNat) p s)

/-- The comparator of the cue.wait at the head of a queue reaches its time: on every tile of the gang (R154, R173). -/
def execCueWaitRelease (tile : Fin 192) (unit : Fin 6) (s : State) : Host.Outcome State Fault Refusal :=
  match headOf s.c tile unit with
  | some q =>
    if opOf q ≠ 0x2A then .next s
    else if (tileAt s.c tile).cueHeld.contains unit.val then .next (turnOf none (.wait tile unit) (cueTime q) s)
    else .next (settleAll (drain (runTo (cueTime q) s)))
  | none => .next s

/-- A leak loop's reading; the cues that come due while the power falls fire as it ends. -/
def execLeakLoopRead (ohms : BitVec 32) (draw : BitVec 16) (s : State) : Host.Outcome State Fault Refusal :=
  match doLeakLoopRead ohms draw s with
  | .next t => if (nextCue t.c (now t.c)).isSome && now s.c != now t.c then .next (fireDue t) else .next t
  | o => o

/-! ### Rows that find their time themselves -/

def execFallbackRetry (fast : Bool) (s : State) : Host.Outcome State Fault Refusal := paced (doFallbackRetry fast) s
def execPauseExpiry (prio : Fin 8) (s : State) : Host.Outcome State Fault Refusal := paced (doPauseExpiry prio) s
def execPfcWatchdog (prio : Fin 8) (dropped : BitVec 32) (s : State) : Host.Outcome State Fault Refusal := paced (doPfcWatchdog prio dropped) s
def execPfcWatchdogEnd (prio : Fin 8) (s : State) : Host.Outcome State Fault Refusal := paced (doPfcWatchdogEnd prio) s
def execOldAssociationTimeout (s : State) : Host.Outcome State Fault Refusal := paced (doOldAssociationTimeout) s
def execRekey (pn : BitVec 64) (s : State) : Host.Outcome State Fault Refusal := paced (doRekey pn) s
def execRoceAckTimeout (qp : Fin 4096) (s : State) : Host.Outcome State Fault Refusal := paced (doRoceAckTimeout qp) s
def execRoceRateUpdate (s : State) : Host.Outcome State Fault Refusal := paced (doRoceRateUpdate) s
def execNotificationExpiry (entry : Fin 256) (s : State) : Host.Outcome State Fault Refusal := paced (doNotificationExpiry entry) s
def execGapTimer (src : BitVec 12) (cls : Fin 3) (s : State) : Host.Outcome State Fault Refusal := paced (doGapTimer src cls) s
def execAckTimer (src : BitVec 12) (cls : Fin 3) (s : State) : Host.Outcome State Fault Refusal := paced (doAckTimer src cls) s
def execRetransmitTimeout (dst : BitVec 12) (cls : Fin 3) (seq : BitVec 32) (s : State) : Host.Outcome State Fault Refusal :=
  paced (doRetransmitTimeout dst cls seq) s
def execCongestionUpdate (dst : BitVec 12) (thresh : Bool) (s : State) : Host.Outcome State Fault Refusal := paced (doCongestionUpdate dst thresh) s
def execPortRetry (port : Fin 18) (s : State) : Host.Outcome State Fault Refusal := paced (doPortRetry port) s
def execPortUp10S (port : Fin 18) (s : State) : Host.Outcome State Fault Refusal := paced (doPortUp10S port) s
def execFcountDone (khz : BitVec 24) (s : State) : Host.Outcome State Fault Refusal := paced (doFcountDone khz) s
def execContextClose (dst : BitVec 12) (cls : Fin 3) (s : State) : Host.Outcome State Fault Refusal := paced (doContextClose dst cls) s
def execContextFree (src : BitVec 12) (cls : Fin 3) (s : State) : Host.Outcome State Fault Refusal := paced (doContextFree src cls) s
def execJoinTimeout (gid : BitVec 32) (s : State) : Host.Outcome State Fault Refusal := paced (doJoinTimeout gid) s
def execRepairExecute (failed : List Nat) (s : State) : Host.Outcome State Fault Refusal := paced (doRepairExecute failed) s
def execKeyTimeout (sid : BitVec 32) (s : State) : Host.Outcome State Fault Refusal := paced (doKeyTimeout sid) s
def execSessionTimeout (sid : BitVec 32) (s : State) : Host.Outcome State Fault Refusal := paced (doSessionTimeout sid) s
def execCapLeaseLapse (s : State) : Host.Outcome State Fault Refusal := paced (doCapLeaseLapse) s
def execNoticeResend (s : State) : Host.Outcome State Fault Refusal := paced (doNoticeResend) s
def execLeaseRenewal (s : State) : Host.Outcome State Fault Refusal := paced (doLeaseRenewal) s
def execUnitLeaseExpiry (s : State) : Host.Outcome State Fault Refusal := paced (doUnitLeaseExpiry) s
def execDebugTokenExpiry (s : State) : Host.Outcome State Fault Refusal := paced (doDebugTokenExpiry) s
def execImportTimeout (s : State) : Host.Outcome State Fault Refusal := paced (doImportTimeout) s
def execHeartbeat (reel : Fin 4096) (s : State) : Host.Outcome State Fault Refusal := paced (doHeartbeat reel) s
def execLeaseExpiry (who : Holder) (s : State) : Host.Outcome State Fault Refusal := paced (doLeaseExpiry who) s
def execDeadlineMissed (key : BitVec 32) (s : State) : Host.Outcome State Fault Refusal := paced (doDeadlineMissed key) s
def execPreparedCopyDrop (take : TakeRef) (s : State) : Host.Outcome State Fault Refusal := paced (doPreparedCopyDrop take) s
def execAcceptanceTake (wraps : Bool) (s : State) : Host.Outcome State Fault Refusal := paced (doAcceptanceTake wraps) s
def execCallSheetActivate (s : State) : Host.Outcome State Fault Refusal := paced (doCallSheetActivate) s
def execMinimumStateEntry (s : State) : Host.Outcome State Fault Refusal := paced (doMinimumStateEntry) s
def execMinimumStateExit (s : State) : Host.Outcome State Fault Refusal := paced (doMinimumStateExit) s
def execLpAllocation (s : State) : Host.Outcome State Fault Refusal := paced (doLpAllocation) s
def execAllocationApply (s : State) : Host.Outcome State Fault Refusal := paced (doAllocationApply) s
def execReady (s : State) : Host.Outcome State Fault Refusal := paced (doReady) s
def execNoUnitTimeout (boot : Boot) (s : State) : Host.Outcome State Fault Refusal := paced (doNoUnitTimeout boot) s
def execHealthWindowEnd (boot : Boot) (s : State) : Host.Outcome State Fault Refusal := paced (doHealthWindowEnd boot) s
def execPwrRun (s : State) : Host.Outcome State Fault Refusal := paced (doPwrRun) s
def execDrainLimit (s : State) : Host.Outcome State Fault Refusal := paced (doDrainLimit) s

end Sys2Proof.Machine
end

