-- ==== Sys2Proof/Machine/Dispatch.lean ====
section
/-! DEFINITION. One arm for each command: its meaning. -/

namespace Sys2Proof.Machine

def exec (i : Instr) (s : State) : Host.Outcome State Fault Refusal :=
  match i with
  | .registerWrite epoch addr value => Sys2Proof.Machine.execRegisterWrite epoch addr value s
  | .unmappedAccess addr write => Sys2Proof.Machine.execUnmappedAccess addr write s
  | .latchingRead addr => Sys2Proof.Machine.execLatchingRead addr s
  | .peakRead port inward => Sys2Proof.Machine.execPeakRead port inward s
  | .cellWrite req bytes => Sys2Proof.Machine.execCellWrite req bytes s
  | .packageLinkFail die slot => Sys2Proof.Machine.execPackageLinkFail die slot s
  | .framePulse => Sys2Proof.Machine.execFramePulse s
  | .timeExchange port t1 t2 t3 t4 partnerValid => Sys2Proof.Machine.execTimeExchange port t1 t2 t3 t4 partnerValid s
  | .tbRefQualify hz => Sys2Proof.Machine.execTbRefQualify hz s
  | .tbRefLost => Sys2Proof.Machine.execTbRefLost s
  | .timecodePllLock => Sys2Proof.Machine.execTimecodePllLock s
  | .tbPulseEdge spacing => Sys2Proof.Machine.execTbPulseEdge spacing s
  | .tbPulseLost => Sys2Proof.Machine.execTbPulseLost s
  | .ptpSync domain sender t1 t2 => Sys2Proof.Machine.execPtpSync domain sender t1 t2 s
  | .announce a => Sys2Proof.Machine.execAnnounce a s
  | .announceTimeout => Sys2Proof.Machine.execAnnounceTimeout s
  | .delayReq => Sys2Proof.Machine.execDelayReq s
  | .gridPhase req bytes => Sys2Proof.Machine.execGridPhase req bytes s
  | .holdoverExpiry input => Sys2Proof.Machine.execHoldoverExpiry input s
  | .tcStep => Sys2Proof.Machine.execTcStep s
  | .tcStepApply => Sys2Proof.Machine.execTcStepApply s
  | .cueChannelWrite chan reg value => Sys2Proof.Machine.execCueChannelWrite chan reg value s
  | .startTake key => Sys2Proof.Machine.execStartTake key s
  | .releaseClapper between key => Sys2Proof.Machine.execReleaseClapper between key s
  | .switchClockSource chan => Sys2Proof.Machine.execSwitchClockSource chan s
  | .activateFirmwareSlot boot => Sys2Proof.Machine.execActivateFirmwareSlot boot s
  | .rampStep => Sys2Proof.Machine.execRampStep s
  | .sampleCounters chan => Sys2Proof.Machine.execSampleCounters chan s
  | .submit peer bytes => Sys2Proof.Machine.execSubmit peer bytes s
  | .ack peer bytes => Sys2Proof.Machine.execAck peer bytes s
  | .attach peer bytes => Sys2Proof.Machine.execAttach peer bytes s
  | .echo peer bytes => Sys2Proof.Machine.execEcho peer bytes s
  | .heartbeat reel => Sys2Proof.Machine.execHeartbeat reel s
  | .leaseExpiry who => Sys2Proof.Machine.execLeaseExpiry who s
  | .outcomeResend => Sys2Proof.Machine.execOutcomeResend s
  | .reelOpen => Sys2Proof.Machine.execReelOpen s
  | .reelClose => Sys2Proof.Machine.execReelClose s
  | .reelForceClose => Sys2Proof.Machine.execReelForceClose s
  | .wrap key cycles => Sys2Proof.Machine.execWrap key cycles s
  | .budgetOverrun key cycles => Sys2Proof.Machine.execBudgetOverrun key cycles s
  | .deadlineMissed key => Sys2Proof.Machine.execDeadlineMissed key s
  | .replan => Sys2Proof.Machine.execReplan s
  | .prepare lead origin slate => Sys2Proof.Machine.execPrepare lead origin slate s
  | .admitAnswer take member module code => Sys2Proof.Machine.execAdmitAnswer take member module code s
  | .admissionTimeout take member module => Sys2Proof.Machine.execAdmissionTimeout take member module s
  | .commit lead take => Sys2Proof.Machine.execCommit lead take s
  | .abort take => Sys2Proof.Machine.execAbort take s
  | .preparedCopyDrop take => Sys2Proof.Machine.execPreparedCopyDrop take s
  | .memberOutcome take member module bytes => Sys2Proof.Machine.execMemberOutcome take member module bytes s
  | .remoteMemberLost module => Sys2Proof.Machine.execRemoteMemberLost module s
  | .leadGenerationChange lead gen => Sys2Proof.Machine.execLeadGenerationChange lead gen s
  | .sAlu imm tile body => Sys2Proof.Machine.execSAlu imm tile body s
  | .sLih tile body => Sys2Proof.Machine.execSLih tile body s
  | .sLd tile body => Sys2Proof.Machine.execSLd tile body s
  | .sSt tile body => Sys2Proof.Machine.execSSt tile body s
  | .sAmo tile body => Sys2Proof.Machine.execSAmo tile body s
  | .bCond tile body => Sys2Proof.Machine.execBCond tile body s
  | .bLink tile body => Sys2Proof.Machine.execBLink tile body s
  | .bReg tile body => Sys2Proof.Machine.execBReg tile body s
  | .endTile tile body => Sys2Proof.Machine.execEnd tile body s
  | .pCmp tile body => Sys2Proof.Machine.execPCmp tile body s
  | .pCmpi tile body => Sys2Proof.Machine.execPCmpi tile body s
  | .pLog tile body => Sys2Proof.Machine.execPLog tile body s
  | .semPost tile body => Sys2Proof.Machine.execSemPost tile body s
  | .semWait tile body => Sys2Proof.Machine.execSemWait tile body s
  | .semRd tile body => Sys2Proof.Machine.execSemRd tile body s
  | .clap tile body => Sys2Proof.Machine.execClap tile body s
  | .cueWait tile body => Sys2Proof.Machine.execCueWait tile body s
  | .cueWaitRelease tile unit => Sys2Proof.Machine.execCueWaitRelease tile unit s
  | .memFence tile body => Sys2Proof.Machine.execMemFence tile body s
  | .memFenceFlush tile body => Sys2Proof.Machine.execMemFenceFlush tile body s
  | .msgPost tile body => Sys2Proof.Machine.execMsgPost tile body s
  | .msgSend tile body => Sys2Proof.Machine.execMsgSend tile body s
  | .messageComplete port bytes => Sys2Proof.Machine.execMessageComplete port bytes s
  | .notificationExpiry entry => Sys2Proof.Machine.execNotificationExpiry entry s
  | .cntRd tile body => Sys2Proof.Machine.execCntRd tile body s
  | .csRd tile body => Sys2Proof.Machine.execCsRd tile body s
  | .csWr tile body => Sys2Proof.Machine.execCsWr tile body s
  | .imageLoad req bytes => Sys2Proof.Machine.execImageLoad req bytes s
  | .imageFree req bytes => Sys2Proof.Machine.execImageFree req bytes s
  | .icInvalidate tile => Sys2Proof.Machine.execIcInvalidate tile s
  | .tileHang tile since => Sys2Proof.Machine.execTileHang tile since s
  | .vFp tile body => Sys2Proof.Machine.execVFp tile body s
  | .vInt tile body => Sys2Proof.Machine.execVInt tile body s
  | .vSfu tile body => Sys2Proof.Machine.execVSfu tile body s
  | .vCmp tile body => Sys2Proof.Machine.execVCmp tile body s
  | .vSel tile body => Sys2Proof.Machine.execVSel tile body s
  | .vRed tile body => Sys2Proof.Machine.execVRed tile body s
  | .vTopk tile body => Sys2Proof.Machine.execVTopk tile body s
  | .vPerm tile body => Sys2Proof.Machine.execVPerm tile body s
  | .vCvt tile body => Sys2Proof.Machine.execVCvt tile body s
  | .vLd tile body => Sys2Proof.Machine.execVLd tile body s
  | .vSt tile body => Sys2Proof.Machine.execVSt tile body s
  | .vBcast tile body => Sys2Proof.Machine.execVBcast tile body s
  | .vqQuant tile body => Sys2Proof.Machine.execVqQuant tile body s
  | .vqDequant tile body => Sys2Proof.Machine.execVqDequant tile body s
  | .mxWload tile body => Sys2Proof.Machine.execMxWload tile body s
  | .mxSwap tile body => Sys2Proof.Machine.execMxSwap tile body s
  | .mxStream tile body => Sys2Proof.Machine.execMxStream tile body s
  | .mxDrain tile body => Sys2Proof.Machine.execMxDrain tile body s
  | .mxZero tile body => Sys2Proof.Machine.execMxZero tile body s
  | .dlyMove tile body => Sys2Proof.Machine.execDlyMove tile body s
  | .dlyGather tile body => Sys2Proof.Machine.execDlyGather tile body s
  | .dlyDsc tile body => Sys2Proof.Machine.execDlyDsc tile body s
  | .checkService id mismatch third => Sys2Proof.Machine.execCheckService id mismatch third s
  | .spadClear tile => Sys2Proof.Machine.execSpadClear tile s
  | .memCfgApply => Sys2Proof.Machine.execMemCfgApply s
  | .memFlushWriteBack => Sys2Proof.Machine.execMemFlushWriteBack s
  | .memFlushInvalidate => Sys2Proof.Machine.execMemFlushInvalidate s
  | .flushDone => Sys2Proof.Machine.execFlushDone s
  | .sliceRelease ms => Sys2Proof.Machine.execSliceRelease ms s
  | .trackerFree index => Sys2Proof.Machine.execTrackerFree index s
  | .driftAdjustment mdie => Sys2Proof.Machine.execDriftAdjustment mdie s
  | .refresh device rate rfm => Sys2Proof.Machine.execRefresh device rate rfm s
  | .patrolScrub addr errors last => Sys2Proof.Machine.execPatrolScrub addr errors last s
  | .devOut device => Sys2Proof.Machine.execDevOut device s
  | .portBringUp port failed domain ms => Sys2Proof.Machine.execPortBringUp port failed domain ms s
  | .portRetry port => Sys2Proof.Machine.execPortRetry port s
  | .portDown port => Sys2Proof.Machine.execPortDown port s
  | .portDisable port => Sys2Proof.Machine.execPortDisable port s
  | .data port bytes => Sys2Proof.Machine.execData port bytes s
  | .notify port bytes => Sys2Proof.Machine.execNotify port bytes s
  | .wilefAck port bytes => Sys2Proof.Machine.execWilefAck port bytes s
  | .nak port bytes => Sys2Proof.Machine.execNak port bytes s
  | .refuse port bytes => Sys2Proof.Machine.execRefuse port bytes s
  | .gapTimer src cls => Sys2Proof.Machine.execGapTimer src cls s
  | .ackTimer src cls => Sys2Proof.Machine.execAckTimer src cls s
  | .retransmitTimeout dst cls seq => Sys2Proof.Machine.execRetransmitTimeout dst cls seq s
  | .contextClose dst cls => Sys2Proof.Machine.execContextClose dst cls s
  | .contextFree src cls => Sys2Proof.Machine.execContextFree src cls s
  | .congestionUpdate dst thresh => Sys2Proof.Machine.execCongestionUpdate dst thresh s
  | .routeTableWrite value => Sys2Proof.Machine.execRouteTableWrite value s
  | .rtHashRecompute => Sys2Proof.Machine.execRtHashRecompute s
  | .fenceSet req bytes => Sys2Proof.Machine.execFenceSet req bytes s
  | .fenceClear req bytes => Sys2Proof.Machine.execFenceClear req bytes s
  | .remap req bytes => Sys2Proof.Machine.execRemap req bytes s
  | .depart port bytes => Sys2Proof.Machine.execDepart port bytes s
  | .fdieOut fdie => Sys2Proof.Machine.execFdieOut fdie s
  | .create tile body => Sys2Proof.Machine.execCreate tile body s
  | .destroy byRegister slot tile body => Sys2Proof.Machine.execDestroy byRegister slot tile body s
  | .allReduce tile body => Sys2Proof.Machine.execAllReduce tile body s
  | .reduceScatter tile body => Sys2Proof.Machine.execReduceScatter tile body s
  | .allGather tile body => Sys2Proof.Machine.execAllGather tile body s
  | .broadcast tile body => Sys2Proof.Machine.execBroadcast tile body s
  | .reduce tile body => Sys2Proof.Machine.execReduce tile body s
  | .allToAll tile body => Sys2Proof.Machine.execAllToAll tile body s
  | .clapper tile body => Sys2Proof.Machine.execClapper tile body s
  | .send tile body => Sys2Proof.Machine.execSend tile body s
  | .receive tile body => Sys2Proof.Machine.execReceive tile body s
  | .fused tile body => Sys2Proof.Machine.execFused tile body s
  | .collWait tile body => Sys2Proof.Machine.execCollWait tile body s
  | .join src gid member slot status hash => Sys2Proof.Machine.execJoin src gid member slot status hash s
  | .joinTimeout gid => Sys2Proof.Machine.execJoinTimeout gid s
  | .createResult src slot gid status table => Sys2Proof.Machine.execCreateResult src slot gid status table s
  | .sig src slot gid seq sig => Sys2Proof.Machine.execSig src slot gid seq sig s
  | .coll src slot gid seq data => Sys2Proof.Machine.execColl src slot gid seq data s
  | .done src slot gid seq => Sys2Proof.Machine.execDone src slot gid seq s
  | .fail src slot gid seq reason member detail => Sys2Proof.Machine.execFail src slot gid seq reason member detail s
  | .poolChange size value => Sys2Proof.Machine.execPoolChange size value s
  | .ethLinkBringUp fast slow ms => Sys2Proof.Machine.execEthLinkBringUp fast slow ms s
  | .fallbackRetry fast => Sys2Proof.Machine.execFallbackRetry fast s
  | .ethLinkDown => Sys2Proof.Machine.execEthLinkDown s
  | .pfcFrame prio quanta => Sys2Proof.Machine.execPfcFrame prio quanta s
  | .pfcWatchdog prio dropped => Sys2Proof.Machine.execPfcWatchdog prio dropped s
  | .ethPrioWrite value => Sys2Proof.Machine.execEthPrioWrite value s
  | .neighbourSolicitation peer => Sys2Proof.Machine.execNeighbourSolicitation peer s
  | .keyExchange bytes => Sys2Proof.Machine.execKeyExchange bytes s
  | .rekey pn => Sys2Proof.Machine.execRekey pn s
  | .rdmaWrite qp key off bytes => Sys2Proof.Machine.execRdmaWrite qp key off bytes s
  | .rdmaRead qp key off len => Sys2Proof.Machine.execRdmaRead qp key off len s
  | .rdmaSend qp bytes => Sys2Proof.Machine.execRdmaSend qp bytes s
  | .doorbell qp => Sys2Proof.Machine.execDoorbell qp s
  | .roceAckTimeout qp => Sys2Proof.Machine.execRoceAckTimeout qp s
  | .cePacket qp reel => Sys2Proof.Machine.execCePacket qp reel s
  | .cnp qp => Sys2Proof.Machine.execCnp qp s
  | .roceRateUpdate => Sys2Proof.Machine.execRoceRateUpdate s
  | .qpCreate => Sys2Proof.Machine.execQpCreate s
  | .qpDestroy => Sys2Proof.Machine.execQpDestroy s
  | .qpReset => Sys2Proof.Machine.execQpReset s
  | .windowRegister value => Sys2Proof.Machine.execWindowRegister value s
  | .modelDiverge => Sys2Proof.Machine.execModelDiverge s
  | .sensorFault => Sys2Proof.Machine.execSensorFault s
  | .contractCapSet req bytes => Sys2Proof.Machine.execContractCapSet req bytes s
  | .capLimitsSet req bytes => Sys2Proof.Machine.execCapLimitsSet req bytes s
  | .protectiveCapSet req bytes => Sys2Proof.Machine.execProtectiveCapSet req bytes s
  | .protectiveCapClear req bytes => Sys2Proof.Machine.execProtectiveCapClear req bytes s
  | .capstepValueSet req bytes => Sys2Proof.Machine.execCapstepValueSet req bytes s
  | .slopeSet req bytes => Sys2Proof.Machine.execSlopeSet req bytes s
  | .callSheet req bytes => Sys2Proof.Machine.execCallSheet req bytes s
  | .callSheetActivate => Sys2Proof.Machine.execCallSheetActivate s
  | .capstepAssert => Sys2Proof.Machine.execCapstepAssert s
  | .capstepRelease => Sys2Proof.Machine.execCapstepRelease s
  | .toneUpdate p held => Sys2Proof.Machine.execToneUpdate p held s
  | .throttleUpdate p steps => Sys2Proof.Machine.execThrottleUpdate p steps s
  | .clockSet best => Sys2Proof.Machine.execClockSet best s
  | .overCurrent rail amps => Sys2Proof.Machine.execOverCurrent rail amps s
  | .overCurrentRelease rail amps => Sys2Proof.Machine.execOverCurrentRelease rail amps s
  | .minimumStateEntry => Sys2Proof.Machine.execMinimumStateEntry s
  | .minimumStateExit => Sys2Proof.Machine.execMinimumStateExit s
  | .lpAllocation => Sys2Proof.Machine.execLpAllocation s
  | .allocationApply => Sys2Proof.Machine.execAllocationApply s
  | .crystalJudged => Sys2Proof.Machine.execCrystalJudged s
  | .crystalTimeout => Sys2Proof.Machine.execCrystalTimeout s
  | .refclkLost => Sys2Proof.Machine.execRefclkLost s
  | .refclkBack => Sys2Proof.Machine.execRefclkBack s
  | .xoLost => Sys2Proof.Machine.execXoLost s
  | .switchRequest value => Sys2Proof.Machine.execSwitchRequest value s
  | .clkObsWrite value => Sys2Proof.Machine.execClkObsWrite value s
  | .fcountStart value => Sys2Proof.Machine.execFcountStart value s
  | .fcountDone khz => Sys2Proof.Machine.execFcountDone khz s
  | .clkTripClear => Sys2Proof.Machine.execClkTripClear s
  | .ladderAdmission group cycle => Sys2Proof.Machine.execLadderAdmission group cycle s
  | .droop die sensor mv cycles => Sys2Proof.Machine.execDroop die sensor mv cycles s
  | .sensorRead die temps power => Sys2Proof.Machine.execSensorRead die temps power s
  | .thermalCeilingUpdate die => Sys2Proof.Machine.execThermalCeilingUpdate die s
  | .overTemperatureTrip die sensor => Sys2Proof.Machine.execOverTemperatureTrip die sensor s
  | .coolantRead ohms temp => Sys2Proof.Machine.execCoolantRead ohms temp s
  | .leakLoopRead ohms draw => Sys2Proof.Machine.execLeakLoopRead ohms draw s
  | .domainReset cell error ask dark us failed => Sys2Proof.Machine.execDomainReset cell error ask dark us failed s
  | .cut port bytes => Sys2Proof.Machine.execCut port bytes s
  | .escalation cell boot => Sys2Proof.Machine.execEscalation cell boot s
  | .fatal die code => Sys2Proof.Machine.execFatal die code s
  | .moduleWarmReset ask error boot => Sys2Proof.Machine.execModuleWarmReset ask error boot s
  | .moduleColdReset ask boot => Sys2Proof.Machine.execModuleColdReset ask boot s
  | .resetN boot => Sys2Proof.Machine.execResetN boot s
  | .inputPowerLoss => Sys2Proof.Machine.execInputPowerLoss s
  | .powerReturn boot => Sys2Proof.Machine.execPowerReturn boot s
  | .overvoltage => Sys2Proof.Machine.execOvervoltage s
  | .repair die group => Sys2Proof.Machine.execRepair die group s
  | .repairExecute failed => Sys2Proof.Machine.execRepairExecute failed s
  | .dailiesRelease => Sys2Proof.Machine.execDailiesRelease s
  | .dailiesRead req bytes => Sys2Proof.Machine.execDailiesRead req bytes s
  | .profileAck seq => Sys2Proof.Machine.execProfileAck seq s
  | .profile answer => Sys2Proof.Machine.execProfile answer s
  | .alert answer => Sys2Proof.Machine.execAlert answer s
  | .noticeResend => Sys2Proof.Machine.execNoticeResend s
  | .censusClearEntry tile entry => Sys2Proof.Machine.execCensusClearEntry tile entry s
  | .censusClearAll tile => Sys2Proof.Machine.execCensusClearAll tile s
  | .windowEnd port outUnits inUnits => Sys2Proof.Machine.execWindowEnd port outUnits inUnits s
  | .recordLoad req bytes content sigOk => Sys2Proof.Machine.execRecordLoad req bytes content sigOk s
  | .debugToken req bytes sigOk => Sys2Proof.Machine.execDebugToken req bytes sigOk s
  | .debugTokenExpiry => Sys2Proof.Machine.execDebugTokenExpiry s
  | .sliceKeyGenerate req bytes => Sys2Proof.Machine.execSliceKeyGenerate req bytes s
  | .sliceKeyImportOpen req bytes => Sys2Proof.Machine.execSliceKeyImportOpen req bytes s
  | .sliceKeyImport req bytes sealOk => Sys2Proof.Machine.execSliceKeyImport req bytes sealOk s
  | .importTimeout => Sys2Proof.Machine.execImportTimeout s
  | .trngFail => Sys2Proof.Machine.execTrngFail s
  | .attest req bytes => Sys2Proof.Machine.execAttest req bytes s
  | .manifestPiece via bytes sigOk => Sys2Proof.Machine.execManifestPiece via bytes sigOk s
  | .dataChunk via bytes => Sys2Proof.Machine.execDataChunk via bytes s
  | .localChunkBuild index => Sys2Proof.Machine.execLocalChunkBuild index s
  | .slotVerify sigOk => Sys2Proof.Machine.execSlotVerify sigOk s
  | .spliceAbandon => Sys2Proof.Machine.execSpliceAbandon s
  | .activateAt req bytes => Sys2Proof.Machine.execActivateAt req bytes s
  | .activateCancel req bytes => Sys2Proof.Machine.execActivateCancel req bytes s
  | .acceptanceTake wraps => Sys2Proof.Machine.execAcceptanceTake wraps s
  | .healthWindowEnd boot => Sys2Proof.Machine.execHealthWindowEnd boot s
  | .recovery req bytes sigOk => Sys2Proof.Machine.execRecovery req bytes sigOk s
  | .hello num bytes => Sys2Proof.Machine.execHello num bytes s
  | .key num bytes => Sys2Proof.Machine.execKey num bytes s
  | .keyTimeout sid => Sys2Proof.Machine.execKeyTimeout sid s
  | .bye req bytes => Sys2Proof.Machine.execBye req bytes s
  | .sessionTimeout sid => Sys2Proof.Machine.execSessionTimeout sid s
  | .reassemblyTimeout => Sys2Proof.Machine.execReassemblyTimeout s
  | .traySecret req bytes => Sys2Proof.Machine.execTraySecret req bytes s
  | .inventoryGet req bytes => Sys2Proof.Machine.execInventoryGet req bytes s
  | .sensorGet req bytes => Sys2Proof.Machine.execSensorGet req bytes s
  | .stateGet req bytes => Sys2Proof.Machine.execStateGet req bytes s
  | .regRead req bytes => Sys2Proof.Machine.execRegRead req bytes s
  | .regWrite req bytes => Sys2Proof.Machine.execRegWrite req bytes s
  | .lease req bytes => Sys2Proof.Machine.execLease req bytes s
  | .capLeaseLapse => Sys2Proof.Machine.execCapLeaseLapse s
  | .sliceAssign req bytes => Sys2Proof.Machine.execSliceAssign req bytes s
  | .leaseRenewal => Sys2Proof.Machine.execLeaseRenewal s
  | .unitLeaseExpiry => Sys2Proof.Machine.execUnitLeaseExpiry s
  | .tokenClaim unit => Sys2Proof.Machine.execTokenClaim unit s
  | .takeback => Sys2Proof.Machine.execTakeback s
  | .noUnitTimeout boot => Sys2Proof.Machine.execNoUnitTimeout boot s
  | .poweredHoursUpdate => Sys2Proof.Machine.execPoweredHoursUpdate s
  | .startOk => Sys2Proof.Machine.execStartOk s
  | .powerOn boot => Sys2Proof.Machine.execPowerOn boot s
  | .ready => Sys2Proof.Machine.execReady s
  | .pwrRun => Sys2Proof.Machine.execPwrRun s
  | .pwrSleep => Sys2Proof.Machine.execPwrSleep s
  | .pwrDeepSleep => Sys2Proof.Machine.execPwrDeepSleep s
  | .pwrPowerDown => Sys2Proof.Machine.execPwrPowerDown s
  | .drainLimit => Sys2Proof.Machine.execDrainLimit s
  | .modeApply draw => Sys2Proof.Machine.execModeApply draw s
  | .gridStale => Sys2Proof.Machine.execGridStale s
  | .delayResponse t4 => Sys2Proof.Machine.execDelayResponse t4 s
  | .rdmaAcknowledgement qp ack => Sys2Proof.Machine.execRdmaAcknowledgement qp ack s
  | .pauseExpiry prio => Sys2Proof.Machine.execPauseExpiry prio s
  | .pfcWatchdogEnd prio => Sys2Proof.Machine.execPfcWatchdogEnd prio s
  | .oldAssociationTimeout => Sys2Proof.Machine.execOldAssociationTimeout s
  | .sensorFaultClear => Sys2Proof.Machine.execSensorFaultClear s
  | .warmingEnd => Sys2Proof.Machine.execWarmingEnd s
  | .measuredEnd => Sys2Proof.Machine.execMeasuredEnd s
  | .trngHealthy => Sys2Proof.Machine.execTrngHealthy s
  | .portUp10S port => Sys2Proof.Machine.execPortUp10S port s
  | .jtagInstruction instr => Sys2Proof.Machine.execJtagInstruction instr s
  | .unitOut unit => Sys2Proof.Machine.execUnitOut unit s

end Sys2Proof.Machine
end

