-- ==== Sys2Proof/Machine/Fetch.lean ====
section
/-! DEFINITION. The word a sequencer finds at its PC where no row of the table stands for it: an address outside the text, an illegal
opcode, a reserved opcode (R141, R142, R185). An instruction with a row of its own issues by that row. -/

namespace Sys2Proof.Machine

/-- Opcodes reserved for levels 2 and 3 (R141, R185). -/
def opReserved (op : Nat) : Bool :=
  !([0x00, 0x01, 0x02, 0x03, 0x10, 0x11, 0x12, 0x18, 0x19, 0x1A, 0x1B, 0x20, 0x21, 0x22, 0x28, 0x29, 0x2A, 0x2B, 0x30, 0x31, 0x32, 0x33, 0x38, 0x39, 0x3A] ++
    [0x40, 0x41, 0x42, 0x43, 0x44, 0x45, 0x46, 0x47, 0x48, 0x50, 0x51, 0x52, 0x60, 0x61, 0x68, 0x69, 0x6A, 0x6B, 0x6C, 0x80, 0x81, 0x82, 0xFF]).contains op

/-- The word at the PC of a tile. -/
def fetchWord (s : State) (t : Take) (pc : Nat) : Nat :=
  leNat ((List.range 8).map (fun k => plainByte s.c s.mem (textAddr s.c t pc + k)))

/-- What a fetch ends the take of a tile in: the NG and its Detail B. -/
def fetchFault (s : State) (i : Nat) : Option (Nat × Nat) :=
  let t := tileAt s.c i
  match takeOn s.c i with
  | none => none
  | some (_, k) =>
    if k.st != .started || t.inReset || t.ended || issueHeld s.c i || (t.width != 0 && t.leader != i) then none
    else if !pcInText s.c i then some (0x0206, textAddr s.c k t.pc)
    else
      let w := fetchWord s k t.pc
      let op := w / 2 ^ 56
      if op = 0 ∨ op = 0xFF then some (0x0202, w) else if opReserved op then some (0x0203, w) else none

/-- A tile fetches. -/
def fetchTile (i : Nat) (s : State) : State :=
  match fetchFault s i with
  | some (ng, b) => settleAll (drain (ngAt i ng (tileAt s.c i).pc b s))
  | none => s

/-- Every tile that runs a take fetches. -/
def fetchTiles (s : State) : State := (s.c.tiles.map (fun e => e.1)).foldl (fun s i => fetchTile i s) s

end Sys2Proof.Machine
end

