-- ==== Sys2Proof/Machine/Step.lean ====
section
/-! DEFINITION. A step: the command at the front of the queue, or, on an empty queue, a tick of the time base. -/

namespace Sys2Proof.Machine

/-- A step with a command at the front and the rest of the queue. -/
def stepOn (i : Instr) (rest : List Instr) (s : State) : Host.Outcome State Fault Refusal := exec i { s with pending := rest }

/-- Handle a management request that waited for a unit (R575). -/
def serveWaiting (i : Instr) (rest : List (Instr × Nat)) (s : State) : Host.Outcome State Fault Refusal :=
  match exec i (onCtl (onMgt (fun m => { m with waiting := rest, serving := true })) s) with
  | .next t => .next (onCtl (onMgt (fun m => { m with serving := false })) t)
  | o => o

/-- On an empty queue: a request that waited is handled once a unit holds the token; else one tu passes, the cue
channels that are due fire, and a tile that cannot fetch an instruction of the table ends its take (log entries 5 and 63). -/
def tick (s : State) : Host.Outcome State Fault Refusal :=
  match s.c.mgt.waiting with
  | (i, _) :: rest => if rdb s.c Reg.MGT_STATUS_UNHELD then .next (fetchTiles (fireDue (onCtl (passTime 1) s))) else serveWaiting i rest s
  | [] => .next (fetchTiles (fireDue (onCtl (passTime 1) s)))

def step (s : State) : Host.Outcome State Fault Refusal :=
  match s.pending with
  | i :: rest => stepOn i rest s
  | [] => tick s

/-- Put the command that a word spells at the front of the queue; no word spells one. -/
def State.withFetchWord (s : State) (nbits w : Nat) : State :=
  match decodeTableWord nbits w with
  | some i => { s with pending := i :: s.pending }
  | none => s

end Sys2Proof.Machine
end

