-- ==== Sys2Proof/WellFormed.lean ====
section
/-! DEFINITION. Which commands are well formed: their operands lie in the ranges the spec gives what they bring (a frame, a
datagram, a packet, a temperature reading, what the bring-up finds). A meaning is total and answers for ill-formed commands
too; well-formedness says which commands a sender can send. -/

namespace Sys2Proof

/-- A management datagram, reassembled, is at most 20,480 bytes (R561). -/
def mgmtBytesOk (bytes : List Byte) : Bool := decide (bytes.length ≤ 20480)

/-- A reel datagram or a splice item stands in one frame, which is below 9,216 bytes (R372). -/
def frameBytesOk (bytes : List Byte) : Bool := decide (bytes.length ≤ 9216)

/-- A Wilef packet: 32 bytes of header, up to 4,096 of payload, 8 of trailer (R304). -/
def packetBytesOk (bytes : List Byte) : Bool := decide (40 ≤ bytes.length ∧ bytes.length ≤ 4136)

/-- Indexes of active tiles (R17). -/
def tilesOk (l : List Nat) : Bool := l.all (fun i => decide (i < 192))

/-- What the boot finds names dies, tiles and straps that exist (R12, R17, R211, R584). -/
def Boot.wf (b : Boot) : Bool :=
  tilesOk b.badTiles && b.badC.all (fun k => decide (k < 8)) && b.badF.all (fun k => decide (k < 6)) &&
  b.badM.all (fun k => decide (k < 4)) && b.badS.all (fun k => decide (k < 16)) && b.badV.all (fun k => decide (k < 4)) &&
  b.badUnits.all (fun k => decide (k < 2)) && b.lostSlots.all (fun k => decide (k < 65536)) &&
  b.badImages.all (fun k => decide (k < 2)) && b.reelCopies.all (fun k => decide (k < 4096)) &&
  decide (b.slotId < 64 ∧ b.devices < 4096 ∧ b.deviceIds.length = 12 ∧ b.temps.length = 12 ∧ b.wear < 256 ∧ b.ms.length = 10)

/-- A gaffer sample brings the current of each V-die's rail (R395). -/
def Power.wf (p : Power) : Bool := decide (p.amps.length = 4)

/-- A record orders a variant, and gives the limit of each V-die's rail and a row below 8 for each logical group (R525). -/
def RecContent.wf (x : RecContent) : Bool :=
  decide (x.ordering < 2 ∧ x.railLimits.length = 4 ∧ x.rows.length = 48) && x.rows.all (fun r => decide (r < 8)) &&
  x.links.all (fun l => decide (l < 64))

/-- A temperature reading brings one value for each sensor of its die: 32 on a C-die, 4 elsewhere (R456). -/
def tempsOk (die : Fin 40) (temps : List (BitVec 12)) : Bool := decide (temps.length = if die.val < 8 then 32 else 4)

/-- A JOIN names a member of a group of at most 4,096 and a group slot of 256 (R334, R338). -/
def joinOk (member slot : Nat) : Bool := decide (member < 4096 ∧ slot < 256)

/-- A cue.wait is held in one of the five queues (R154). -/
def unitOk (unit : Fin 6) : Bool := decide (unit.val ≠ 0)

/-- A command a sender can send. -/
def Instr.wf : Instr → Bool
  | .registerWrite _ _ _ => true
  | .unmappedAccess _ _ => true
  | .latchingRead _ => true
  | .peakRead _ _ => true
  | .cellWrite _ bytes => mgmtBytesOk bytes
  | .packageLinkFail _ _ => true
  | .framePulse => true
  | .timeExchange _ _ _ _ _ _ => true
  | .tbRefQualify _ => true
  | .tbRefLost => true
  | .timecodePllLock => true
  | .tbPulseEdge _ => true
  | .tbPulseLost => true
  | .ptpSync _ _ _ _ => true
  | .announce _ => true
  | .announceTimeout => true
  | .delayReq => true
  | .gridPhase _ bytes => mgmtBytesOk bytes
  | .holdoverExpiry _ => true
  | .tcStep => true
  | .tcStepApply => true
  | .cueChannelWrite _ _ _ => true
  | .startTake _ => true
  | .releaseClapper _ _ => true
  | .switchClockSource _ => true
  | .activateFirmwareSlot boot => boot.wf
  | .rampStep => true
  | .sampleCounters _ => true
  | .submit _ bytes => frameBytesOk bytes
  | .ack _ bytes => frameBytesOk bytes
  | .attach _ bytes => frameBytesOk bytes
  | .echo _ bytes => frameBytesOk bytes
  | .heartbeat _ => true
  | .leaseExpiry _ => true
  | .outcomeResend => true
  | .reelOpen => true
  | .reelClose => true
  | .reelForceClose => true
  | .wrap _ _ => true
  | .budgetOverrun _ _ => true
  | .deadlineMissed _ => true
  | .replan => true
  | .prepare _ _ slate => frameBytesOk slate
  | .admitAnswer _ _ _ _ => true
  | .admissionTimeout _ _ _ => true
  | .commit _ _ => true
  | .abort _ => true
  | .preparedCopyDrop _ => true
  | .memberOutcome _ _ _ _ => true
  | .remoteMemberLost _ => true
  | .leadGenerationChange _ _ => true
  | .sAlu _ _ _ => true
  | .sLih _ _ => true
  | .sLd _ _ => true
  | .sSt _ _ => true
  | .sAmo _ _ => true
  | .bCond _ _ => true
  | .bLink _ _ => true
  | .bReg _ _ => true
  | .endTile _ _ => true
  | .pCmp _ _ => true
  | .pCmpi _ _ => true
  | .pLog _ _ => true
  | .semPost _ _ => true
  | .semWait _ _ => true
  | .semRd _ _ => true
  | .clap _ _ => true
  | .cueWait _ _ => true
  | .cueWaitRelease _ unit => unitOk unit
  | .memFence _ _ => true
  | .memFenceFlush _ _ => true
  | .msgPost _ _ => true
  | .msgSend _ _ => true
  | .messageComplete _ bytes => packetBytesOk bytes
  | .notificationExpiry _ => true
  | .cntRd _ _ => true
  | .csRd _ _ => true
  | .csWr _ _ => true
  | .imageLoad _ bytes => mgmtBytesOk bytes
  | .imageFree _ bytes => mgmtBytesOk bytes
  | .icInvalidate _ => true
  | .tileHang _ _ => true
  | .vFp _ _ => true
  | .vInt _ _ => true
  | .vSfu _ _ => true
  | .vCmp _ _ => true
  | .vSel _ _ => true
  | .vRed _ _ => true
  | .vTopk _ _ => true
  | .vPerm _ _ => true
  | .vCvt _ _ => true
  | .vLd _ _ => true
  | .vSt _ _ => true
  | .vBcast _ _ => true
  | .vqQuant _ _ => true
  | .vqDequant _ _ => true
  | .mxWload _ _ => true
  | .mxSwap _ _ => true
  | .mxStream _ _ => true
  | .mxDrain _ _ => true
  | .mxZero _ _ => true
  | .dlyMove _ _ => true
  | .dlyGather _ _ => true
  | .dlyDsc _ _ => true
  | .checkService _ _ _ => true
  | .spadClear _ => true
  | .memCfgApply => true
  | .memFlushWriteBack => true
  | .memFlushInvalidate => true
  | .flushDone => true
  | .sliceRelease _ => true
  | .trackerFree _ => true
  | .driftAdjustment _ => true
  | .refresh _ _ _ => true
  | .patrolScrub _ _ _ => true
  | .devOut _ => true
  | .portBringUp _ _ _ _ => true
  | .portRetry _ => true
  | .portDown _ => true
  | .portDisable _ => true
  | .data _ bytes => packetBytesOk bytes
  | .notify _ bytes => packetBytesOk bytes
  | .wilefAck _ bytes => packetBytesOk bytes
  | .nak _ bytes => packetBytesOk bytes
  | .refuse _ bytes => packetBytesOk bytes
  | .gapTimer _ _ => true
  | .ackTimer _ _ => true
  | .retransmitTimeout _ _ _ => true
  | .contextClose _ _ => true
  | .contextFree _ _ => true
  | .congestionUpdate _ _ => true
  | .routeTableWrite _ => true
  | .rtHashRecompute => true
  | .fenceSet _ bytes => mgmtBytesOk bytes
  | .fenceClear _ bytes => mgmtBytesOk bytes
  | .remap _ bytes => mgmtBytesOk bytes
  | .depart _ bytes => packetBytesOk bytes
  | .fdieOut _ => true
  | .create _ _ => true
  | .destroy _ _ _ _ => true
  | .allReduce _ _ => true
  | .reduceScatter _ _ => true
  | .allGather _ _ => true
  | .broadcast _ _ => true
  | .reduce _ _ => true
  | .allToAll _ _ => true
  | .clapper _ _ => true
  | .send _ _ => true
  | .receive _ _ => true
  | .fused _ _ => true
  | .collWait _ _ => true
  | .join _ _ member slot _ _ => joinOk member slot
  | .joinTimeout _ => true
  | .createResult _ _ _ _ _ => true
  | .sig _ _ _ _ _ => true
  | .coll _ _ _ _ _ => true
  | .done _ _ _ _ => true
  | .fail _ _ _ _ _ _ _ => true
  | .poolChange _ _ => true
  | .ethLinkBringUp _ _ _ => true
  | .fallbackRetry _ => true
  | .ethLinkDown => true
  | .pfcFrame _ _ => true
  | .pfcWatchdog _ _ => true
  | .ethPrioWrite _ => true
  | .neighbourSolicitation _ => true
  | .keyExchange bytes => frameBytesOk bytes
  | .rekey _ => true
  | .rdmaWrite _ _ _ _ => true
  | .rdmaRead _ _ _ _ => true
  | .rdmaSend _ _ => true
  | .doorbell _ => true
  | .roceAckTimeout _ => true
  | .cePacket _ _ => true
  | .cnp _ => true
  | .roceRateUpdate => true
  | .qpCreate => true
  | .qpDestroy => true
  | .qpReset => true
  | .windowRegister _ => true
  | .modelDiverge => true
  | .sensorFault => true
  | .contractCapSet _ bytes => mgmtBytesOk bytes
  | .capLimitsSet _ bytes => mgmtBytesOk bytes
  | .protectiveCapSet _ bytes => mgmtBytesOk bytes
  | .protectiveCapClear _ bytes => mgmtBytesOk bytes
  | .capstepValueSet _ bytes => mgmtBytesOk bytes
  | .slopeSet _ bytes => mgmtBytesOk bytes
  | .callSheet _ bytes => mgmtBytesOk bytes
  | .callSheetActivate => true
  | .capstepAssert => true
  | .capstepRelease => true
  | .toneUpdate p _ => p.wf
  | .throttleUpdate p _ => p.wf
  | .clockSet _ => true
  | .overCurrent _ _ => true
  | .overCurrentRelease _ _ => true
  | .minimumStateEntry => true
  | .minimumStateExit => true
  | .lpAllocation => true
  | .allocationApply => true
  | .crystalJudged => true
  | .crystalTimeout => true
  | .refclkLost => true
  | .refclkBack => true
  | .xoLost => true
  | .switchRequest _ => true
  | .clkObsWrite _ => true
  | .fcountStart _ => true
  | .fcountDone _ => true
  | .clkTripClear => true
  | .ladderAdmission _ _ => true
  | .droop _ _ _ _ => true
  | .sensorRead die temps _ => tempsOk die temps
  | .thermalCeilingUpdate _ => true
  | .overTemperatureTrip _ _ => true
  | .coolantRead _ _ => true
  | .leakLoopRead _ _ => true
  | .domainReset _ _ _ dark _ failed => tilesOk dark && tilesOk failed
  | .cut _ bytes => packetBytesOk bytes
  | .escalation _ boot => boot.wf
  | .fatal _ _ => true
  | .moduleWarmReset _ _ boot => boot.wf
  | .moduleColdReset _ boot => boot.wf
  | .resetN boot => boot.wf
  | .inputPowerLoss => true
  | .powerReturn boot => boot.wf
  | .overvoltage => true
  | .repair _ _ => true
  | .repairExecute failed => tilesOk failed
  | .dailiesRelease => true
  | .dailiesRead _ bytes => mgmtBytesOk bytes
  | .profileAck _ => true
  | .profile _ => true
  | .alert _ => true
  | .noticeResend => true
  | .censusClearEntry _ _ => true
  | .censusClearAll _ => true
  | .windowEnd _ _ _ => true
  | .recordLoad _ bytes content _ => mgmtBytesOk bytes && content.wf
  | .debugToken _ bytes _ => mgmtBytesOk bytes
  | .debugTokenExpiry => true
  | .sliceKeyGenerate _ bytes => mgmtBytesOk bytes
  | .sliceKeyImportOpen _ bytes => mgmtBytesOk bytes
  | .sliceKeyImport _ bytes _ => mgmtBytesOk bytes
  | .importTimeout => true
  | .trngFail => true
  | .attest _ bytes => mgmtBytesOk bytes
  | .manifestPiece _ bytes _ => mgmtBytesOk bytes
  | .dataChunk _ bytes => mgmtBytesOk bytes
  | .localChunkBuild _ => true
  | .slotVerify _ => true
  | .spliceAbandon => true
  | .activateAt _ bytes => mgmtBytesOk bytes
  | .activateCancel _ bytes => mgmtBytesOk bytes
  | .acceptanceTake _ => true
  | .healthWindowEnd boot => boot.wf
  | .recovery _ bytes _ => mgmtBytesOk bytes
  | .hello _ bytes => mgmtBytesOk bytes
  | .key _ bytes => mgmtBytesOk bytes
  | .keyTimeout _ => true
  | .bye _ bytes => mgmtBytesOk bytes
  | .sessionTimeout _ => true
  | .reassemblyTimeout => true
  | .traySecret _ bytes => mgmtBytesOk bytes
  | .inventoryGet _ bytes => mgmtBytesOk bytes
  | .sensorGet _ bytes => mgmtBytesOk bytes
  | .stateGet _ bytes => mgmtBytesOk bytes
  | .regRead _ bytes => mgmtBytesOk bytes
  | .regWrite _ bytes => mgmtBytesOk bytes
  | .lease _ bytes => mgmtBytesOk bytes
  | .capLeaseLapse => true
  | .sliceAssign _ bytes => mgmtBytesOk bytes
  | .leaseRenewal => true
  | .unitLeaseExpiry => true
  | .tokenClaim _ => true
  | .takeback => true
  | .noUnitTimeout boot => boot.wf
  | .poweredHoursUpdate => true
  | .startOk => true
  | .powerOn boot => boot.wf
  | .ready => true
  | .pwrRun => true
  | .pwrSleep => true
  | .pwrDeepSleep => true
  | .pwrPowerDown => true
  | .drainLimit => true
  | .modeApply _ => true
  | .gridStale => true
  | .delayResponse _ => true
  | .rdmaAcknowledgement _ _ => true
  | .pauseExpiry _ => true
  | .pfcWatchdogEnd _ => true
  | .oldAssociationTimeout => true
  | .sensorFaultClear => true
  | .warmingEnd => true
  | .measuredEnd => true
  | .trngHealthy => true
  | .portUp10S _ => true
  | .jtagInstruction _ => true
  | .unitOut _ => true

end Sys2Proof
end

