-- ==== Sys2Proof/Safety.lean ====
section
/-! DEFINITION. What a sound state is, in the terms the statements use: the memory's canonical form, the state in which nothing
is left to run on the tiles, and what it says that a command completes or leaves something unchanged. -/

namespace Sys2Proof.Machine

/-- The memory's canonical form: in bytes, poison marks, encryption marks and standing errors the addresses rise strictly, and no
entry equals what an unlisted address reads as. -/
def Memory.wf (m : Memory) : Bool := Map.wf 0 m.bytes && Map.wf 0 m.poison && Map.wf 0 m.encrypted && Map.wf 0 m.flaws

/-- A state whose memory has its canonical form. -/
def State.sound (s : State) : Bool := s.mem.wf

/-- A step that stops is unsafe; a next state is safe where its memory keeps the canonical form. -/
def safeOutcome : Host.Outcome State Fault Refusal → Bool
  | .next t => t.sound
  | .fault _ => false
  | .refused _ => false

/-- Nothing waits in a queue of the tile, and it waits at no clapper. -/
def Tile.quiet (t : Tile) : Bool := t.queues.all (fun x => x.2.isEmpty) && t.clap.isNone

/-- Nothing is left to run on any tile, no ending is left to settle, and nothing waits to be given to the fabric. -/
def Ctl.quiet (c : Ctl) : Bool := !c.ad.replanDue && c.ad.ctlDue.isEmpty && c.fab.ready.isEmpty && c.tiles.all (fun e => e.2.quiet)

/-- The command completes: exec answers a next state, of which `P` holds. -/
def Completes (i : Instr) (s : State) (P : State → Prop) : Prop := ∃ t, exec i s = .next t ∧ P t

/-- Every register field but those with the listed keys reads as before. -/
def regsKept (keys : List Nat) (s t : State) : Prop := ∀ g : Fld, g.key ∉ keys → rd t.c g = rd s.c g

/-- A module counter, by its key: its count, its configuration and its overflow mark. -/
def countKey (k : Nat) : Bool := decide (32 * 0xF0006000000 ≤ k ∧ k < 32 * 0xF0006002000)

/-- A counter of a tile, by its key: its count, its configuration and its overflow mark. -/
def tileCountKey (i k : Nat) : Bool :=
  decide (32 * (0xF0010008000 + 0x100000 * i) ≤ k ∧ k < 32 * (0xF0010008400 + 0x100000 * i))

/-- Every register field but those with the listed keys, and the module counters, reads as before. -/
def regsKeptButCounts (keys : List Nat) (s t : State) : Prop :=
  ∀ g : Fld, g.key ∉ keys → countKey g.key = false → rd t.c g = rd s.c g

/-- Every byte of memory reads as before. -/
def bytesKept (s t : State) : Prop := ∀ a, getByte t.mem a = getByte s.mem a

/-- Every byte of memory outside a range reads as before. -/
def bytesKeptBut (a n : Nat) (s t : State) : Prop := ∀ x, x < a ∨ a + n ≤ x → getByte t.mem x = getByte s.mem x

/-- A tile issues: it is not held in reset and its take has not ended, it leads its gang where it is in one, its PC lies in the text
of its image, and the guard of the instruction passes (R129, R140, R142). -/
def canIssue (c : Ctl) (i : Nat) (w : BitVec 64) : Bool :=
  let t := tileAt c i
  !t.inReset && !(t.ended && t.take.isSome) && (t.width == 0 || t.leader == i) && pcInText c i && guardOk t w

/-- A tile that runs alone: it is in no gang. -/
def soloTile (c : Ctl) (i : Nat) : Bool := (tileAt c i).width == 0

/-- What an instruction of one tile leaves alone: every other tile, memory, the queue of commands, the takes, time, and every
register but the counters of the tile and of the module. -/
def tileFrame (i : Nat) (s t : State) : Prop :=
  (∀ j, j ≠ i → tileAt t.c j = tileAt s.c j) ∧ bytesKept s t ∧ t.pending = s.pending ∧ t.c.ad = s.c.ad ∧ t.c.time = s.c.time ∧
  ∀ g : Fld, countKey g.key = false → tileCountKey i g.key = false → rd t.c g = rd s.c g

/-- What writing one scalar register does, and that it leaves everything else but the program counter. -/
def scalarWritten (i n : Nat) (v : DWord) (s t : State) : Prop :=
  (∀ m, sReg (tileAt t.c i) m = if m = n then (if n = 0 then 0 else v) else sReg (tileAt s.c i) m) ∧
  tileAt t.c i = { advance (tileAt s.c i) with s := (tileAt t.c i).s } ∧
  tileFrame i s t

/-- A counter of any tile, by its key. -/
def anyTileCountKey (k : Nat) : Bool :=
  decide (32 * 0xF0010000000 ≤ k ∧ k < 32 * (0xF0010000000 + 0x100000 * 192) ∧ 0x8000 ≤ k / 32 % 0x100000 ∧ k / 32 % 0x100000 < 0x8400)

/-- What an instruction that reads scratchpads leaves alone: every other tile, memory, the queue of commands, the takes, time, and every
register but the counters of tiles and of the module. -/
def accessFrame (i : Nat) (s t : State) : Prop :=
  (∀ j, j ≠ i → tileAt t.c j = tileAt s.c j) ∧ bytesKept s t ∧ t.pending = s.pending ∧ t.c.ad = s.c.ad ∧ t.c.time = s.c.time ∧
  ∀ g : Fld, countKey g.key = false → anyTileCountKey g.key = false → rd t.c g = rd s.c g

/-- What loading a scalar register does, and that it leaves everything else but the program counter. -/
def loadWritten (i n : Nat) (v : DWord) (s t : State) : Prop :=
  (∀ m, sReg (tileAt t.c i) m = if m = n then (if n = 0 then 0 else v) else sReg (tileAt s.c i) m) ∧
  tileAt t.c i = { advance (tileAt s.c i) with s := (tileAt t.c i).s } ∧ accessFrame i s t

/-- The take that runs on a tile, if one does, may access `n` bytes at `a`, which lie in scratchpads (R138). -/
def spadReach (c : Ctl) (i : Nat) (write : Bool) (a n : Nat) : Bool :=
  decide (a + n ≤ 0x18000000) && (match (tileAt c i).take with
    | none => true
    | some k => match takeAt c k with
      | none => true
      | some t => (reachFault c t write a n).isNone)

/-- An error stands in a block of memory, or on its link, that the next read meets (R254, R258, R284, R285). -/
def errorAt (s : State) (b : Nat) : Bool := (Map.get? s.c.memory.linkErrs b).isSome || (Map.get? s.mem.flaws b).isSome

/-- A tile whose instruction for a unit's queue has been issued and has run: the program counter has moved on. -/
def retired (t u : Tile) : Tile := { advance t with queues := u.queues }

/-- What an instruction leaves alone that also raises events of its tile: every other tile, memory, the queue of commands, the
takes, time, and every register but those listed and the counters. -/
def tileFrameBut (keys : List Nat) (i : Nat) (s t : State) : Prop :=
  (∀ j, j ≠ i → tileAt t.c j = tileAt s.c j) ∧ bytesKept s t ∧ t.pending = s.pending ∧ t.c.ad = s.c.ad ∧ t.c.time = s.c.time ∧
  ∀ g : Fld, g.key ∉ keys → countKey g.key = false → tileCountKey i g.key = false → rd t.c g = rd s.c g

/-- The lanes of a vector register after a write under a predicate: a lane whose bit is clear keeps its value (R196). -/
def masked (t : Tile) (n pm : Nat) (f : Nat → Word) : List Word :=
  lanes (fun k => if (pReg t pm).getLsbD k then f k else lane (vReg t n) k)

/-- What writing one vector register does, and that it leaves everything else but the program counter. -/
def vectorWritten (i n : Nat) (l : List Word) (s t : State) : Prop :=
  (∀ m, vReg (tileAt t.c i) m = if m = n then l else vReg (tileAt s.c i) m) ∧
  tileAt t.c i = { retired (tileAt s.c i) (tileAt t.c i) with v := (tileAt t.c i).v } ∧ tileFrame i s t

/-- What loading one vector register does, and that it leaves everything else but the program counter. -/
def vectorLoaded (i n : Nat) (l : List Word) (s t : State) : Prop :=
  (∀ m, vReg (tileAt t.c i) m = if m = n then l else vReg (tileAt s.c i) m) ∧
  tileAt t.c i = { retired (tileAt s.c i) (tileAt t.c i) with v := (tileAt t.c i).v } ∧ accessFrame i s t

/-- No error stands in what a read of the ranges meets. -/
def errorFree (s : State) (rs : List (Nat × Nat)) : Bool :=
  rs.all (fun r => (List.range r.2).all (fun k => !errorAt s (poisonBase (r.1 + k))))

/-- A management request of a type that is handled and answered at once: a management unit that answers holds the token and none waits; the
session is keyed and open, the request verified, new, not above the rate, and of a type that ROM recovery lets through (R563 to R569). -/
def servable (typ : Nat) (r : Req) (c : Ctl) : Bool :=
  c.sec.dead.isNone && c.pwr.mg == 0 && !mustWait c && r.verified && (!rdb c Reg.SEC_STATUS_RECOVERY || recoveryTypes.contains typ) &&
  (match findSession c r.sid.toNat with
    | none => false
    | some x => x.keyed && x.opened && decide (x.highest < r.seq.toNat) && decide (x.lastNum < r.num.toNat) &&
        (x.answers.find? (fun a => a.1 == r.num.toNat)).isNone && (x.second != c.time.mono / 2 ^ 32 || decide (x.inSecond < 2000)))

/-- A management request has been answered with a status and a payload: the answer has left,
sealed under the next sequence of its session, which holds it (R563, R566, R568). -/
def answered (typ : Nat) (r : Req) (status : Nat) (payload : List Byte) (t : State) : Prop :=
  let b := mgmtHeader typ r.num.toNat status payload.length true ++ payload
  ∃ x, findSession t.c r.sid.toNat = some x ∧ x.answers.head? = some (r.num.toNat, b) ∧
    t.c.out.head? = some (.mgmt r.sid.toNat (sealedMsg { x with seqOut := x.seqOut - 1 } b))

/-- The journal lists its slots in rising order, each at most once. -/
def journalOk (c : Ctl) : Bool := Map.above 0 c.ad.takes

/-- A take has ended in a reason, with its tile and details. -/
def endedAs (k reason tile detA detB : Nat) (t : State) : Prop :=
  ∃ x, takeAt t.c k = some x ∧ x.st = .ended ∧ x.reason = reason ∧ x.tile = tile ∧ x.detA = detA ∧ x.detB = detB

/-- A take stands in a state of the journal. -/
def takeIs (k : Nat) (st : TakeState) (t : State) : Prop := ∃ x, takeAt t.c k = some x ∧ x.st = st

/-- A count went up by `k`, up to the width of its field. -/
def bumped (f : Fld) (k : Nat) (s t : State) : Prop := rd t.c f = Nat.min (rd s.c f + k) (2 ^ f.len - 1)

/-- The bytes that come in on a port that is up are a sound packet of the row's type that the module takes in (R304 to R306, R310). -/
def comesIn (port : Fin 18) (typ : Nat) (bs : List Byte) (p : Pkt) (c : Ctl) : Prop :=
  rd c (Reg.FAB_PORT_STATE_STATE port) = 3 ∧ parsePkt bs = some p ∧ p.typ = typ ∧ (accepts p.src p.slice c).1 = true

/-- No cue is due by the time that a row which passes time to `T` ends (R72). -/
def calmTo (T : Nat) (c : Ctl) : Bool := (nextCue c (now (advanceTo T c))).isNone

/-- Frames of a priority leave at once: the link is up, MACsec lets them go, and the priority is neither paused nor ignored (R371, R373,
R374, R378). -/
def txOpen (prio : Nat) (g : Guarding) (c : Ctl) : Bool :=
  ethUp c && maySend g c && !c.eth.ignoring.any (fun x => x.1 == prio) && !c.eth.paused.any (fun x => x.1 == prio)

/-- What a reel sends leaves at once, by its queue pair or as a datagram (R122, R389). -/
def reelWay (c : Ctl) (r : Nat) : Bool :=
  txOpen (match boundQp c r with
    | some _ => rd c Reg.ETH_PRIO_ROCE_PRIO
    | none => rd c Reg.ETH_PRIO_REEL_PRIO) .sealed c

/-- The port takes in the frame of a datagram of `n` bytes (R372, R376, R378). -/
def datagramIn (p : Peer) (n : Nat) (c : Ctl) : Bool := (takeFrames p.ipv4 .sealed (frameSize p.ipv4 n) 1 c).1

/-- A control message of a module, of a generation, is heard (R44, R113, R310). -/
def heardFrom (m gen : Nat) (c : Ctl) : Bool :=
  decide (m < 4096) && rtValid c m && (accepts (rtPhys c m) (sliceNow c) c).1 && !genOlder gen (Map.getD gen c.ad.peers m)

/-- The state in which a control message that is heard acts: the module's generation is noted (R113). -/
def hearing (m gen : Nat) (c : Ctl) : Ctl := onAd (fun a => { a with peers := Map.put a.peers m gen }) c

/-- A message of the AD stands with the context of the control class to another module: sent, or waiting for its window (R37, R118). -/
def toldModule (kind dst : Nat) (bytes : List Byte) (t : State) : Prop :=
  ∃ x, t.c.fab.src.find? (isSrc (rtPhys t.c dst) 2) = some x ∧
    ∀ p ∈ ctlPackets 0 kind bytes, ∃ y ∈ x.unacked ++ x.backlog, y.typ = p.typ ∧ y.body = p.body ∧ y.owner = .ad

/-- A range can be written past the cache with no other byte changed: nothing stands in its lines that a merge would meet (R286, R288,
R289). -/
def plainRange (s : State) (a n : Nat) : Bool :=
  s.c.memory.lostDevices.isEmpty && !keyGone s.c a n && errorFree s [(a, n)] &&
    (List.range n).all (fun k => !isPoisoned s.mem (a + k) && (cellKey s.mem (a + k) == 0 || cellKey s.mem (a + k) == keyNow s.c))

/-- A take is no copy made for a member of a composite take (R33). -/
def uncopied (k : Nat) (c : Ctl) : Bool := c.ad.takes.all (fun e => e.2.members.all (fun m => m.copy != some k))

/-- No tile has a message out, and no group has an operation in progress. -/
def noTraffic (c : Ctl) : Bool := c.tiles.all (fun e => e.2.msgs.isEmpty) && c.coll.groups.all (fun e => e.2.ops.isEmpty)

/-- A packet can leave: FAB_ID is valid and a port is up (R307). -/
def canSend (c : Ctl) : Bool := rdb c Reg.FAB_ID_VALID && !(portsUp c).isEmpty

/-- Where a packet can leave, one without a context has left for a physical ID, with no payload and of some entropy (R306). -/
def sentControl (typ phys seq gen arg : Nat) (echo : Bool) (s t : State) : Prop :=
  if canSend s.c then
    ∃ e, e < 256 ∧ t.c.out = .packet phys (pktBytes ⟨phys, ownPhys s.c, sliceNow s.c, 2, typ, 0, false, false, false, echo, 0xFF000000, seq, gen, e, 0,
      arg, []⟩) :: s.c.out
  else t.c.out = s.c.out

end Sys2Proof.Machine
end

