-- ==== Sys2Proof/Certificates/Slice0/Obligations.lean ====
section
/-! DEFINITION. The statements for the provers. Each docstring names the rules of the spec its statement rests on; a log entry is a file of notes/assumptions. A statement about a
command says that exec answers a next state and what that state holds. -/

open Sys2Proof Sys2Proof.Machine

/-! ### Scalar, branch, predicate and semaphore instructions (R143 to R163) -/

/-- R143, R144: s.alu writes s[SA] op B into s[SD], s.lih sets the upper half to IMM and keeps the lower; s0 discards what is written to it; nothing else
changes but the PC. A reserved field or function that is not zero ends the take in 0x0203 with the address and the word. -/
def Obligations.ScalarArithmeticWritesDestination : Prop :=
  let op := fun (n : Nat) (a b : DWord) =>
    if n = 0 then a + b else if n = 1 then a - b else if n = 2 then a &&& b else if n = 3 then a ||| b else if n = 4 then a ^^^ b
    else if n = 5 then a <<< (b.toNat % 64) else if n = 6 then a >>> (b.toNat % 64) else if n = 7 then a.sshiftRight (b.toNat % 64)
    else if n = 8 then a * b else if n = 9 then BitVec.ofInt 64 (a.toInt * b.toInt / 2 ^ 64)
    else if n = 10 then (if a.slt b then a else b) else if n = 11 then (if a.slt b then b else a)
    else if n = 12 then (if a < b then a else b) else if n = 13 then (if a < b then b else a)
    else if n = 14 then (if a.slt b then 1 else 0) else (if a < b then 1 else 0)
  ∀ (s : State) (tile : Fin 192) (body : BitVec 56), s.c.quiet = true →
    let t0 := tileAt s.c tile
    let done := fun (n : Nat) (v : DWord) (t : State) =>
      (∀ m, sReg (tileAt t.c tile) m = if m = n then (if n = 0 then 0 else v) else sReg t0 m) ∧
      tileAt t.c tile = { advance t0 with s := (tileAt t.c tile).s } ∧ tileFrame tile s t
    let r := opWord 0x01 body
    let im := opWord 0x02 body
    let lih := opWord 0x03 body
    (canIssue s.c tile r = true → fz r 0 31 = true → aFN r < 16 →
      Completes (.sAlu false tile body) s (done (aSD r) (op (aFN r) (sReg t0 (aSA r)) (sReg t0 (aSB r))))) ∧
    (canIssue s.c tile im = true → fz im 32 6 = true →
      Completes (.sAlu true tile body) s (done (aSD im) (op (iFN im) (sReg t0 (aSA im)) (iIMM im)))) ∧
    (canIssue s.c tile lih = true → fz lih 32 15 = true →
      Completes (.sLih tile body) s (done (aSD lih) (BitVec.ofNat 64 (fld lih 0 32 * 2 ^ 32 + (sReg t0 (aSD lih)).toNat % 2 ^ 32)))) ∧
    (∀ k x, journalOk s.c = true → takeOn s.c tile = some (k, x) → x.st = .started →
      let refused := fun (w : BitVec 64) (i : Instr) => canIssue s.c tile w = true → Completes i s (endedAs k 0x0203 tile t0.pc w.toNat)
      (fz r 0 31 = false ∨ 16 ≤ aFN r → refused r (.sAlu false tile body)) ∧
      (fz im 32 6 = false → refused im (.sAlu true tile body)) ∧ (fz lih 32 15 = false → refused lih (.sLih tile body)))

/-- R145: an aligned s.ld, s.st or s.amo on a scratchpad that the take may access and in which no error stands. A load extends the little-endian value of
2^SZ bytes, a store writes the low bytes of s[SD], s.amo returns the old word and writes the new one; no other byte changes.
Log entry 53: where the statement rests on it, it is the model's choice. -/
def Obligations.ScalarMemoryAccessesScratchpad : Prop :=
  ∀ (s : State) (tile : Fin 192) (body : BitVec 56), s.c.quiet = true →
    let t0 := tileAt s.c tile
    let ld := opWord 0x10 body
    let st := opWord 0x11 body
    let amo := opWord 0x12 body
    let addr := fun (w : BitVec 64) => (sReg t0 (aSA w) + sfld w 0 32).toNat
    let clean := fun (a n : Nat) => ∀ k, k < n → isPoisoned s.mem (a + k) = false ∧ errorAt s (poisonBase (a + k)) = false
    (let a := addr ld
     let v := leNat (getBytes s.mem a (sSize ld))
     canIssue s.c tile ld = true → fz ld 32 7 = true → a % sSize ld = 0 → spadReach s.c tile false a (sSize ld) = true → clean a (sSize ld) →
      Completes (.sLd tile body) s
        (loadWritten tile (aSD ld) (if bit ld.toNat 39 then BitVec.ofInt 64 (sext (8 * sSize ld) v) else BitVec.ofNat 64 v) s)) ∧
    (let a := addr st
     canIssue s.c tile st = true → fz st 32 8 = true → a % sSize st = 0 → spadReach s.c tile true a (sSize st) = true →
      Completes (.sSt tile body) s (fun t =>
        getBytes t.mem a (sSize st) = leBytes (sSize st) (sReg t0 (aSD st)).toNat ∧ bytesKeptBut a (sSize st) s t ∧
        (∀ j : Nat, j ≠ tile → tileAt t.c j = tileAt s.c j) ∧
        tileAt t.c tile = advance t0)) ∧
    (let a := addr amo
     let old := BitVec.ofNat 64 (leNat (getBytes s.mem a 8))
     canIssue s.c tile amo = true → fz amo 32 3 = true → fld amo 35 4 < 6 → mSZ amo = 3 → a % 8 = 0 →
      spadReach s.c tile false a 8 = true → spadReach s.c tile true a 8 = true → clean a 8 →
      Completes (.sAmo tile body) s (fun t =>
        getBytes t.mem a 8 = leBytes 8 (amoOp (fld amo 35 4) old (sReg t0 (aSD amo))).toNat ∧ bytesKeptBut a 8 s t ∧
        (∀ m, sReg (tileAt t.c tile) m = if m = aSD amo then (if m = 0 then 0 else old) else sReg t0 m) ∧
        (∀ j : Nat, j ≠ tile → tileAt t.c j = tileAt s.c j) ∧ tileAt t.c tile = { advance t0 with s := (tileAt t.c tile).s }))

/-- R146, R147: b.cond goes to PC + 8 × DISP where its condition holds, b.link and b.reg also write PC + 8 into s[SD], b.reg goes to an
aligned s[SA]; end stops issue on a tile that runs alone where no clapper of its take is open. Nothing else changes.
R148: p.cmp and p.cmpi set every lane of p[PD] alike, p.log combines two predicates lane by lane; p0 discards what is written. The
tile runs alone; in a gang each member writes its own. A reserved field, function or condition that is not zero or not allotted ends the take in 0x0203, a
b.reg to an address that is no multiple of 8 in 0x020A. -/
def Obligations.BranchesAndPredicatesAct : Prop :=
  let cond := fun (n : Nat) (a b : DWord) => if n = 0 then true else if n = 1 then a == b else if n = 2 then a != b else if n = 3 then a.slt b
    else if n = 4 then !a.slt b else if n = 5 then decide (a < b) else decide (b ≤ a)
  let logic := fun (n : Nat) (a b : BitVec 128) => if n = 0 then a &&& b else if n = 1 then a ||| b else if n = 2 then a ^^^ b else if n = 3 then a &&& ~~~b else ~~~a
  (∀ (s : State) (tile : Fin 192) (body : BitVec 56), s.c.quiet = true →
    let t0 := tileAt s.c tile
    let c := opWord 0x18 body
    let l := opWord 0x19 body
    let r := opWord 0x1A body
    let e := opWord 0x1B body
    let disp := fun (w : BitVec 64) => (BitVec.ofNat 64 t0.pc + 8 * sfld w 0 32).toNat
    let wrote := fun (n : Nat) (t : State) => ∀ m, sReg (tileAt t.c tile) m = if m = n then (if n = 0 then 0 else BitVec.ofNat 64 (t0.pc + 8)) else sReg t0 m
    (canIssue s.c tile c = true → fz c 32 6 = true → fld c 38 4 < 7 →
      Completes (.bCond tile body) s (fun t => tileFrame tile s t ∧
        tileAt t.c tile = { advance t0 with pc := if cond (fld c 38 4) (sReg t0 (fld c 47 5)) (sReg t0 (fld c 42 5)) then disp c else (t0.pc + 8) % 2 ^ 32 })) ∧
    (canIssue s.c tile l = true → fz l 32 1 = true → fz l 38 14 = true →
      Completes (.bLink tile body) s (fun t => tileFrame tile s t ∧ wrote (fld l 33 5) t ∧
        tileAt t.c tile = { advance t0 with s := (tileAt t.c tile).s, pc := disp l })) ∧
    (canIssue s.c tile r = true → fz r 0 42 = true → (sReg t0 (aSA r)).toNat % 8 = 0 →
      Completes (.bReg tile body) s (fun t => tileFrame tile s t ∧ wrote (aSD r) t ∧
        tileAt t.c tile = { advance t0 with s := (tileAt t.c tile).s, pc := (sReg t0 (aSA r)).toNat })) ∧
    (canIssue s.c tile e = true → fz e 0 52 = true → soloTile s.c tile = true →
      (∀ k, t0.take = some k → Map.get? s.c.share.clappers (rootOf s.c k) = none) →
      Completes (.endTile tile body) s (fun t => tileFrame tile s t ∧
        tileAt t.c tile = { advance t0 with ended := true }))) ∧
  (∀ (s : State) (tile : Fin 192) (body : BitVec 56), s.c.quiet = true → soloTile s.c tile = true →
    let t0 := tileAt s.c tile
    let cmp := opWord 0x20 body
    let cmpi := opWord 0x21 body
    let plog := opWord 0x22 body
    let done := fun (n : Nat) (v : BitVec 128) (t : State) => tileFrame tile s t ∧
      (∀ m, pReg (tileAt t.c tile) m = if m = n then (if n = 0 then BitVec.allOnes 128 else v) else pReg t0 m) ∧
      tileAt t.c tile = { advance t0 with p := (tileAt t.c tile).p }
    (canIssue s.c tile cmp = true → fz cmp 50 2 = true → fz cmp 0 31 = true → aFN cmp < 7 →
      Completes (.pCmp tile body) s (done (fld cmp 47 3) (if cond (aFN cmp) (sReg t0 (aSA cmp)) (sReg t0 (aSB cmp)) then BitVec.allOnes 128 else 0))) ∧
    (canIssue s.c tile cmpi = true → fz cmpi 50 2 = true → fz cmpi 32 6 = true → iFN cmpi < 7 →
      Completes (.pCmpi tile body) s (done (fld cmpi 47 3) (if cond (iFN cmpi) (sReg t0 (aSA cmpi)) (iIMM cmpi) then BitVec.allOnes 128 else 0))) ∧
    (canIssue s.c tile plog = true → fz plog 50 2 = true → fz plog 45 2 = true → fz plog 40 2 = true → fz plog 0 31 = true → aFN plog < 5 →
      Completes (.pLog tile body) s (done (fld plog 47 3) (logic (aFN plog) (pReg t0 (fld plog 42 3)) (pReg t0 (fld plog 37 3)))))) ∧
  (∀ (s : State) (tile : Fin 192) (body : BitVec 56) (k : Nat) (x : Take), s.c.quiet = true → journalOk s.c = true → takeOn s.c tile = some (k, x) → x.st = .started →
    let t0 := tileAt s.c tile
    let c := opWord 0x18 body
    let l := opWord 0x19 body
    let r := opWord 0x1A body
    let e := opWord 0x1B body
    let cmp := opWord 0x20 body
    let cmpi := opWord 0x21 body
    let plog := opWord 0x22 body
    let refused := fun (w : BitVec 64) (i : Instr) => canIssue s.c tile w = true → Completes i s (endedAs k 0x0203 tile t0.pc w.toNat)
    (fz c 32 6 = false ∨ 7 ≤ fld c 38 4 → refused c (.bCond tile body)) ∧
    (fz l 32 1 = false ∨ fz l 38 14 = false → refused l (.bLink tile body)) ∧
    (fz r 0 42 = false → refused r (.bReg tile body)) ∧ (fz e 0 52 = false → refused e (.endTile tile body)) ∧
    (fz cmp 50 2 = false ∨ fz cmp 0 31 = false ∨ 7 ≤ aFN cmp → refused cmp (.pCmp tile body)) ∧
    (fz cmpi 50 2 = false ∨ fz cmpi 32 6 = false ∨ 7 ≤ iFN cmpi → refused cmpi (.pCmpi tile body)) ∧
    (fz plog 50 2 = false ∨ fz plog 45 2 = false ∨ fz plog 40 2 = false ∨ fz plog 0 31 = false ∨ 5 ≤ aFN plog → refused plog (.pLog tile body)) ∧
    (canIssue s.c tile r = true → fz r 0 42 = true → (sReg t0 (aSA r)).toNat % 8 ≠ 0 →
      Completes (.bReg tile body) s (endedAs k 0x020A tile t0.pc (sReg t0 (aSA r)).toNat)))

/-- R149, R151: with UNIT 0 sem.post adds IMM where the count stays at or below 65,535, sem.wait subtracts it where the count
suffices and otherwise stands and holds issue, sem.rd writes the count into s[SA]. The tile runs alone.
R152 to R155, R264: clap holds the tile of a take at its clapper, where it arrives once its messages are complete, cue.wait holds its queue while its time has not come and lets
go of it at that time, mem.fence goes on once every earlier access is done and every message's source read, and with FN 1 no cached line of its range is left.
Log entries 6, 8 and 47: where the statement rests on these, it is the model's choice. -/
def Obligations.SemaphoresWaitsAndFencesAct : Prop :=
  (∀ (s : State) (tile : Fin 192) (body : BitVec 56), s.c.quiet = true → soloTile s.c tile = true →
    let post := fnWord 0x28 48 4 3 0 body
    let wait := fnWord 0x28 48 4 3 1 body
    let srd := fnWord 0x28 48 4 3 2 body
    let form := fun (w : BitVec 64) (fn : Nat) => canIssue s.c tile w = true ∧ fld w 48 4 = fn ∧ yUNIT w = 0 ∧ fz w 32 3 = true ∧ fz w 16 16 = true ∧
      semAllowed s.c tile w = true
    (form post 0 → fz post 0 16 = false → semCount s.c tile (yQ post) + fld post 0 16 ≤ 65535 →
      Completes (.semPost tile body) s (fun t => semCount t.c tile (yQ post) = semCount s.c tile (yQ post) + fld post 0 16 ∧ bytesKept s t ∧
        (tileAt t.c tile).pc = ((tileAt s.c tile).pc + 8) % 2 ^ 32)) ∧
    (form wait 1 → fz wait 0 16 = false → fld wait 0 16 ≤ semCount s.c tile (yQ wait) →
      Completes (.semWait tile body) s (fun t => semCount t.c tile (yQ wait) = semCount s.c tile (yQ wait) - fld wait 0 16 ∧ bytesKept s t ∧
        (tileAt t.c tile).pc = ((tileAt s.c tile).pc + 8) % 2 ^ 32)) ∧
    (form wait 1 → fz wait 0 16 = false → semCount s.c tile (yQ wait) < fld wait 0 16 → Completes (.semWait tile body) s (fun t => tileFrame tile s t ∧
      issueHeld t.c tile = true ∧ (∃ q, headOf t.c tile 0 = some q ∧ q.word = wait) ∧ semCount t.c tile (yQ wait) = semCount s.c tile (yQ wait))) ∧
    (form srd 2 → Completes (.semRd tile body) s (scalarWritten tile (ySA srd) (BitVec.ofNat 64 (semCount s.c tile (yQ srd))) s))) ∧
  (∀ (s : State) (tile : Fin 192) (body : BitVec 56), s.c.quiet = true → soloTile s.c tile = true →
    let t0 := tileAt s.c tile
    let clp := opWord 0x29 body
    let cue := opWord 0x2A body
    let fen := fnWord 0x2B 48 4 2 0 body
    let flu := fnWord 0x2B 48 4 2 1 body
    let at_ := (sReg t0 (ySA cue) + sfld cue 0 32).toNat
    let moved := fun (t : State) => (tileAt t.c tile).pc = (t0.pc + 8) % 2 ^ 32
    (∀ k, t0.take = some k → Map.get? s.c.share.clappers (rootOf s.c k) = none →
      canIssue s.c tile clp = true → fz clp 40 12 = true → fz clp 32 3 = true → fz clp 16 16 = true →
      Completes (.clap tile body) s (fun t => moved t ∧ (tileAt t.c tile).arrived = t0.msgs.isEmpty ∧
        (tileAt t.c tile).clap = some (fld clp 0 16, (if ySA clp = 0 then none else some (sReg t0 (ySA clp)).toNat), t0.pc) ∧
        (t0.msgs = [] → ∃ rel, Map.get? t.c.share.clappers (rootOf s.c k) = some (fld clp 0 16, rel)) ∧ issueHeld t.c tile = true)) ∧
    (canIssue s.c tile cue = true → fz cue 43 9 = true → fz cue 32 3 = true → 1 ≤ yUNIT cue → yUNIT cue < 6 → now s.c < at_ →
      t0.cueHeld = [] →
      Completes (.cueWait tile body) s (fun t => moved t ∧ bytesKept s t ∧ (tileAt t.c tile).cueHeld = [yUNIT cue] ∧
        ∃ q, headOf t.c tile (yUNIT cue) = some q ∧ q.word = cue ∧ cueTime q = at_)) ∧
    (canIssue s.c tile fen = true → fld fen 48 4 = 0 → fz fen 40 8 = true → fz fen 32 3 = true →
      Completes (.memFence tile body) s (fun t => moved t ∧ t.c.quiet = !unreadMsg s.c tile ∧ tileFrame tile s t)) ∧
    (canIssue s.c tile flu = true → fld flu 48 4 = 1 → fz flu 40 8 = true → fz flu 32 3 = true → fz flu 0 32 = false → t0.take = none →
      unreadMsg s.c tile = false →
      Completes (.memFenceFlush tile body) s (fun t => moved t ∧
        ∀ x ∈ t.c.memory.cache, flushesLine s.c tile (sReg t0 (ySA flu)).toNat (256 * fld flu 0 32) x = false)))

/-! ### Vector, quantize, matrix and dolly instructions (R177 to R211) -/

/-- R195 to R201: the lanes that p[PM] enables take the result of the operation, every other lane keeps its value; v.sel chooses by the
predicate, v.red puts the reduction of the enabled lanes into every lane, v.bcast spreads s[SA]. One vector register changes.
Log entry 2: where the statement rests on it, it is the model's choice. -/
def Obligations.VectorArithmeticWritesLanes : Prop :=
  ∀ (s : State) (tile : Fin 192) (body : BitVec 56), s.c.quiet = true → soloTile s.c tile = true →
    let t0 := tileAt s.c tile
    let form := fun (w : BitVec 64) (fns : Nat) => canIssue s.c tile w = true ∧ fz w 16 3 = true ∧ fz w 0 16 = true ∧ vFN w < fns
    let A := fun (w : BitVec 64) (k : Nat) => lane (vReg t0 (vVA w)) k
    let B := fun (w : BitVec 64) (k : Nat) => lane (vReg t0 (vVB w)) k
    let C := fun (w : BitVec 64) (k : Nat) => lane (vReg t0 (vVC w)) k
    let on := fun (w : BitVec 64) (k : Nat) => (pReg t0 (vPM w)).getLsbD k
    let put := fun (w : BitVec 64) (f : Nat → Word) => vectorWritten tile (vVD w) (masked t0 (vVD w) (vPM w) f) s
    (let w := opWord 0x40 body
     form w 10 → Completes (.vFp tile body) s (put w (fun k => fpOp (vFN w) (A w k) (B w k) (C w k)))) ∧
    (let w := opWord 0x41 body
     form w 13 → Completes (.vInt tile body) s (put w (fun k => intOp (vFN w) (A w k) (B w k)))) ∧
    (let w := opWord 0x42 body
     form w 12 → Completes (.vSfu tile body) s (put w (fun k => f32Sfu (vFN w) (A w k)))) ∧
    (let w := opWord 0x44 body
     form w 1 → Completes (.vSel tile body) s (vectorWritten tile (vVD w) (lanes (fun k => if on w k then A w k else B w k)) s)) ∧
    (let w := opWord 0x45 body
     let f := if vFN w = 0 then f32Add else if vFN w = 1 then f32Max else f32Min
     let e : Word := if vFN w = 0 then 0 else if vFN w = 1 then 0xFF800000 else 0x7F800000
     form w 3 → Completes (.vRed tile body) s (vectorWritten tile (vVD w)
       (List.replicate 128 (treeReduce f 7 (lanes (fun k => if on w k then A w k else e)))) s)) ∧
    (let w := opWord 0x47 body
     form w 1 → Completes (.vPerm tile body) s (put w (fun k =>
       let x := (B w k).toNat
       if x < 128 then A w x else if x < 256 then C w (x - 128) else 0))) ∧
    (let w := opWord 0x52 body
     let b : Word := (sReg t0 (vmSA w)).setWidth 32
     canIssue s.c tile w = true → fz w 24 7 = true → fz w 36 5 = true → fz w 33 3 = true → fz w 0 24 = true → vmTY w < 2 →
      Completes (.vBcast tile body) s (vectorWritten tile (vmVD w) (lanes (fun k => if vmTY w = 0 then b else b + BitVec.ofNat 32 k)) s))

/-- R195, R197, R200, R236: v.cmp writes the enabled lanes of p[PD], v.topk merges the enabled lanes into the first K lanes of a register
pair in descending order, v.cvt converts the enabled lanes, under stochastic rounding with 128 draws of generator 1. -/
def Obligations.VectorSelectionAndConversion : Prop :=
  ∀ (s : State) (tile : Fin 192) (body : BitVec 56), s.c.quiet = true → soloTile s.c tile = true →
    let t0 := tileAt s.c tile
    let cmp := opWord 0x43 body
    let top := opWord 0x46 body
    let cvt := opWord 0x48 body
    let k := fld top 0 7
    let old := vReg t0 (vVD top)
    let idx := vReg t0 (vVD top + 1)
    let sorted := ((List.range k).map (fun j => (lane old j, lane idx j)) ++
      ((List.range 128).filter (fun j => (pReg t0 (vPM top)).getLsbD j)).map (fun j => (lane (vReg t0 (vVA top)) j, lane (vReg t0 (vVB top)) j))).foldr insertTop []
    let st := decide (vFN cvt < 2) && fld cvt 0 1 == 1
    let draws := drawsFrom 128 (genOf t0 1)
    (canIssue s.c tile cmp = true → fz cmp 16 3 = true → fz cmp 3 13 = true → vFN cmp < 3 → fld cmp 0 3 < 6 → fz cmp 49 3 = true →
      Completes (.vCmp tile body) s (fun t => tileFrame tile s t ∧
        tileAt t.c tile = { retired t0 (tileAt t.c tile) with p := (tileAt t.c tile).p } ∧
        (∀ m, m ≠ vVD cmp % 8 → pReg (tileAt t.c tile) m = pReg t0 m) ∧
        (vVD cmp % 8 ≠ 0 → ∀ j, j < 128 → (pReg (tileAt t.c tile) (vVD cmp % 8)).getLsbD j =
          if (pReg t0 (vPM cmp)).getLsbD j then cmpOp (vFN cmp) (fld cmp 0 3) (lane (vReg t0 (vVA cmp)) j) (lane (vReg t0 (vVB cmp)) j)
          else (pReg t0 (vVD cmp % 8)).getLsbD j))) ∧
    (canIssue s.c tile top = true → fz top 16 3 = true → fz top 7 9 = true → vFN top = 0 → vVD top % 2 = 0 → 1 ≤ k → k ≤ 64 →
      Completes (.vTopk tile body) s (fun t => tileFrame tile s t ∧
        tileAt t.c tile = { retired t0 (tileAt t.c tile) with v := (tileAt t.c tile).v } ∧
        ∀ m, vReg (tileAt t.c tile) m =
          if m = vVD top then lanes (fun j => if j < k then (sorted.getD j (0, 0)).1 else lane old j)
          else if m = vVD top + 1 then lanes (fun j => if j < k then (sorted.getD j (0, 0)).2 else lane idx j)
          else vReg t0 m)) ∧
    (canIssue s.c tile cvt = true → fz cvt 16 3 = true → vFN cvt < 7 → (if vFN cvt < 2 then fz cvt 1 15 = true else fz cvt 0 16 = true) →
      Completes (.vCvt tile body) s (fun t => tileFrame tile s t ∧
        tileAt t.c tile = { retired t0 (tileAt t.c tile) with v := (tileAt t.c tile).v, gens := (tileAt t.c tile).gens } ∧
        (∀ u, genOf (tileAt t.c tile) u = if st ∧ u = 1 then draws.2 else genOf t0 u) ∧
        ∀ m, vReg (tileAt t.c tile) m =
          if m = vVD cvt then masked t0 m (vPM cvt) (fun j => cvtOp (vFN cvt) (if st then .stoch (draws.1.getD j 0) else .rne) (lane (vReg t0 (vVA cvt)) j))
          else vReg t0 m))

/-- R196, R201: the enabled lanes of v.ld take the widened elements at their addresses, those of v.st are narrowed and stored there;
lane k stands at s[SA] + OFF + k × s[SB], or contiguous where s[SB] is zero. The addresses are aligned, in scratchpads, and reached; no error stands in what is read.
Log entry 53: where the statement rests on it, it is the model's choice. -/
def Obligations.VectorMemoryMovesLanes : Prop :=
  ∀ (s : State) (tile : Fin 192) (body : BitVec 56), s.c.quiet = true → soloTile s.c tile = true →
    let t0 := tileAt s.c tile
    let ld := opWord 0x50 body
    let st := opWord 0x51 body
    let wd := fun (w : BitVec 64) => if vmTY w = 0 then 4 else 2
    let at_ := fun (w : BitVec 64) (k : Nat) => (sReg t0 (vmSA w) + sfld w 0 24 + BitVec.ofNat 64 k *
      (if sReg t0 (vmSB w) = 0 then BitVec.ofNat 64 (wd w) else sReg t0 (vmSB w))).toNat
    let on := fun (w : BitVec 64) (k : Nat) => k < 128 ∧ (pReg t0 (vmPM w)).getLsbD k = true
    let form := fun (w : BitVec 64) (write : Bool) => canIssue s.c tile w = true ∧ fz w 24 7 = true ∧ vmTY w < 3 ∧
      ∀ k, on w k → at_ w k % wd w = 0 ∧ spadReach s.c tile write (at_ w k) (wd w) = true
    (form ld false → (∀ k, on ld k → ∀ j, j < wd ld → isPoisoned s.mem (at_ ld k + j) = false ∧ errorAt s (poisonBase (at_ ld k + j)) = false) →
      Completes (.vLd tile body) s (vectorLoaded tile (vmVD ld)
        (masked t0 (vmVD ld) (vmPM ld) (fun k => widen (vmTY ld) (getBytes s.mem (at_ ld k) (wd ld)))) s)) ∧
    (form st true →
      Completes (.vSt tile body) s (fun t => tileAt t.c tile = retired t0 (tileAt t.c tile) ∧
        (∀ j : Nat, j ≠ tile → tileAt t.c j = tileAt s.c j) ∧
        (∀ k, on st k → (∀ j, on st j → k < j → at_ st j + wd st ≤ at_ st k ∨ at_ st k + wd st ≤ at_ st j) →
          getBytes t.mem (at_ st k) (wd st) = narrow (vmTY st) (lane (vReg t0 (vmVD st)) k)) ∧
        ∀ a, (∀ k, on st k → a < at_ st k ∨ at_ st k + wd st ≤ a) → getByte t.mem a = getByte s.mem a))

/-- R183, R202, R224, R225: vq.quant under current scaling, without stochastic rounding, into an element format: the scaled lanes are converted
and packed into their row of the window, which lies within the sizes. vq.dequant writes the scaled elements into N vector registers.
Log entry 52: where the statement rests on it, it is the model's choice. -/
def Obligations.QuantizeInstructionsConvert : Prop :=
  ∀ (s : State) (tile : Fin 192) (body : BitVec 56), s.c.quiet = true → soloTile s.c tile = true →
    let t0 := tileAt s.c tile
    let form := fun (w : BitVec 64) (write : Bool) =>
      let d := dReg t0 (fld w 42 4)
      let o := originOf (sReg t0 (fld w 37 5))
      canIssue s.c tile w = true ∧ fz w 0 22 = true ∧ fld w 30 2 = 0 ∧ fld w 32 1 = 0 ∧ qVA w + qN w ≤ 64 ∧ (d.rank = 1 ∨ d.rank = 2) ∧
      qN w * 128 % blockLen d.fmt = 0 ∧ o.1 % originMultiple d.fmt write = 0 ∧ spadFault tile (rowRanges d o.1 (qN w * 128) o.2) = none
    (let w := opWord 0x60 body
     let d := dReg t0 (fld w 42 4)
     let o := originOf (sReg t0 (fld w 37 5))
     let n := qN w * 128
     let a := rowAddr d o.2 0 0 0 + o.1 * elemBits d.fmt / 8
     let x := fun k => (f32 (lane (vReg t0 (qVA w + k / 128)) (k % 128))).scale (qShift w)
     let bytes := packCodes (elemBits d.fmt) ((List.range n).map (fun k => (convElem d.fmt .rne (x k)).code))
     form w true → isBlock d.fmt = false → o.2 < d.size 1 → o.1 + n ≤ d.size 0 →
      Completes (.vqQuant tile body) s (fun t => getBytes t.mem a bytes.length = bytes ∧ bytesKeptBut a bytes.length s t ∧
        (∀ j : Nat, j ≠ tile → tileAt t.c j = tileAt s.c j) ∧ (tileAt t.c tile).v = t0.v ∧ (tileAt t.c tile).acc = t0.acc ∧
        (tileAt t.c tile).pc = (t0.pc + 8) % 2 ^ 32)) ∧
    (let w := opWord 0x61 body
     let d := dReg t0 (fld w 42 4)
     let o := originOf (sReg t0 (fld w 37 5))
     form w false → fz w 30 3 = true → spadPoison s (rowRanges d o.1 (qN w * 128) o.2) = none → errorFree s (rowRanges d o.1 (qN w * 128) o.2) = true →
      Completes (.vqDequant tile body) s (fun t => tileFrame tile s t ∧
        tileAt t.c tile = { retired t0 (tileAt t.c tile) with v := (tileAt t.c tile).v } ∧
        ∀ m, vReg (tileAt t.c tile) m = if qVA w ≤ m ∧ m < qVA w + qN w then
          lanes (fun k => toF32 ((f32 (toF32 (readElem (getByte s.mem) d (o.1 + 128 * (m - qVA w) + k) o.2).value)).scale (qShift w))) else vReg t0 m))

/-- R186, R187, R190: mx.wload fills the shadow weights with 128 columns of the window, mx.swap exchanges active and shadow weights,
mx.zero clears the accumulator sets of its mask and no other. Memory and the other registers keep their values.
Log entries 47 and 52: where the statement rests on these, it is the model's choice. -/
def Obligations.WeightAndAccumulatorInstructions : Prop :=
  ∀ (s : State) (tile : Fin 192) (body : BitVec 56), s.c.quiet = true → soloTile s.c tile = true →
    let t0 := tileAt s.c tile
    let ld := opWord 0x68 body
    let sw := opWord 0x69 body
    let ze := opWord 0x6C body
    let d := dReg t0 (xDA ld)
    let o := originOf (sReg t0 (xSA ld))
    (∀ kw, loadDepth d.fmt = some kw → canIssue s.c tile ld = true → fz ld 32 4 = true → fz ld 44 4 = true → fz ld 41 3 = true → fz ld 0 32 = true →
      (d.rank = 1 ∨ d.rank = 2) → o.1 % originMultiple d.fmt false = 0 →
      let rs := (List.range 128).flatMap (fun n => rowRanges d o.1 kw (o.2 + n))
      spadFault tile rs = none → spadPoison s rs = none → errorFree s rs = true →
      let cols := (List.range 128).map (fun n => (List.range kw).map (fun k => readElem (getByte s.mem) d (o.1 + k) (o.2 + n)))
      Completes (.mxWload tile body) s (fun t =>
        tileFrameBut [(Reg.TL_TENSOR_EVENTS_SHADOW_REPLACED tile).key] tile s t ∧
        tileAt t.c tile = { retired t0 (tileAt t.c tile) with shadow := ⟨true, false, false, d.fmt, d.split, kw, cols, rs.flatMap (fun r => getBytes s.mem r.1 r.2)⟩ })) ∧
    (canIssue s.c tile sw = true → fz sw 0 52 = true →
      Completes (.mxSwap tile body) s (fun t => tileFrame tile s t ∧
        tileAt t.c tile = { retired t0 (tileAt t.c tile) with active := { t0.shadow with swapped := true }, shadow := t0.active })) ∧
    (canIssue s.c tile ze = true → fz ze 32 4 = true → fz ze 36 16 = true → fz ze 8 24 = true → fz ze 0 8 = false →
      Completes (.mxZero tile body) s (fun t => tileFrame tile s t ∧
        tileAt t.c tile = { retired t0 (tileAt t.c tile) with acc := (tileAt t.c tile).acc, accWritten := (tileAt t.c tile).accWritten } ∧
        ∀ n r, n < 8 → r < 128 → accRow (tileAt t.c tile) n r = if bit (fld ze 0 8) n then zeroLanes else accRow t0 n r))

/-- R178, R188, R221 to R223: mx.stream multiplies its rows by the active weights into the accumulator set that ACC names, added to
it or in its place; with COMP the next set takes the running error. No stream of this tile is selected for checking.
Log entry 52: where the statement rests on it, it is the model's choice. -/
def Obligations.MatrixStreamAccumulates : Prop :=
  ∀ (s : State) (tile : Fin 192) (body : BitVec 56), s.c.quiet = true → soloTile s.c tile = true →
    let t0 := tileAt s.c tile
    let w := opWord 0x6A body
    let d := dReg t0 (xDA w)
    let o := originOf (sReg t0 (xSA w))
    let rows := fld w 0 8 + 1
    let n := xACC w
    let comp := bit w.toNat 9
    (∀ kw, streamDepth t0.active.fmt d.fmt = some kw → t0.active.valid = true → kw ≤ t0.active.depth →
      canIssue s.c tile w = true → fz w 32 4 = true → fz w 44 4 = true → fz w 10 22 = true → rows ≤ 128 → (comp = true → n % 2 = 0) →
      (d.rank = 1 ∨ d.rank = 2) → o.1 % originMultiple d.fmt false = 0 → (d.split = true → d.fmt ≠ 0x10 ∧ d.fmt ≠ 0x11) →
      (t0.active.split = true → t0.active.fmt ≠ 0x10 ∧ t0.active.fmt ≠ 0x11) →
      (∀ k t, takeOn s.c tile = some (k, t) → t.checkK < 6) →
      let rs := (List.range rows).flatMap (fun j => rowRanges d o.1 kw (o.2 + j))
      spadFault tile rs = none → spadPoison s rs = none → errorFree s rs = true →
      let acts := fun j => (List.range kw).map (fun k => readElem (getByte s.mem) d (o.1 + k) (o.2 + j))
      let row := fun j => streamRow t0.active.cols kw (acts j) comp (if bit w.toNat 8 then accRow t0 n j else zeroLanes)
        (if bit w.toNat 8 && comp then accRow t0 (n + 1) j else zeroLanes)
      Completes (.mxStream tile body) s (fun t => tileFrame tile s t ∧
        tileAt t.c tile = { retired t0 (tileAt t.c tile) with acc := (tileAt t.c tile).acc, accWritten := (tileAt t.c tile).accWritten,
                                                              active := { t0.active with used := true } } ∧
        ∀ m r, r < 128 → accRow (tileAt t.c tile) m r =
          if m = n ∧ r < rows then (row r).1 else if comp = true ∧ m = n + 1 ∧ r < rows then (row r).2 else accRow t0 m r))

/-- R189, R223: mx.drain without relay into FP32 writes each row of the set, scaled by SHIFT, at its place in the window; a row that no
later row overlaps reads as converted, no byte outside the rows changes, and with ZERO the rows of the set are zero after.
Log entries 52 and 58: where the statement rests on these, it is the model's choice. -/
def Obligations.MatrixDrainWritesRows : Prop :=
  ∀ (s : State) (tile : Fin 192) (body : BitVec 56), s.c.quiet = true → soloTile s.c tile = true →
    let t0 := tileAt s.c tile
    let w := opWord 0x6B body
    let d := dReg t0 (xDB w)
    let o := originOf (sReg t0 (xSA w))
    let rows := fld w 0 8 + 1
    let comp := bit w.toNat 10
    let a := fun j => rowAddr d (o.2 + j) 0 0 0 + o.1 * 4
    let bytes := fun j => packCodes 32 ((List.range 128).map (fun k =>
      (convElem 0 .rne ((drainValue t0 (xACC w) j k comp).scale (sext 8 (fld w 24 8)))).code))
    canIssue s.c tile w = true → fz w 32 4 = true → fz w 48 4 = true → fz w 13 3 = true → rows ≤ 128 → (comp = true → xACC w % 2 = 0) →
    bit w.toNat 12 = false → fz w 16 8 = true → bit w.toNat 8 = false → bit w.toNat 9 = false →
    d.fmt = 0 → (d.rank = 1 ∨ d.rank = 2) → o.1 % 32 = 0 → o.2 + rows ≤ d.size 1 → o.1 + 128 ≤ d.size 0 →
    spadFault tile ((List.range rows).flatMap (fun j => rowRanges d o.1 128 (o.2 + j))) = none →
    Completes (.mxDrain tile body) s (fun t =>
      (∀ j, j < rows → (∀ k, j < k → k < rows → a k + 512 ≤ a j ∨ a j + 512 ≤ a k) → getBytes t.mem (a j) 512 = bytes j) ∧
      (∀ x, (∀ j, j < rows → x < a j ∨ a j + 512 ≤ x) → getByte t.mem x = getByte s.mem x) ∧
      (∀ j : Nat, j ≠ tile → tileAt t.c j = tileAt s.c j) ∧ (tileAt t.c tile).v = t0.v ∧ (tileAt t.c tile).pc = (t0.pc + 8) % 2 ^ 32 ∧
      ∀ m r, r < 128 → accRow (tileAt t.c tile) m r =
        if bit w.toNat 11 ∧ r < rows ∧ (m = xACC w ∨ (comp = true ∧ m = xACC w + 1)) then zeroLanes else accRow t0 m r)

/-- R181, R182, R205, R206: dly.dsc loads a sound descriptor into d[DD], with RB over the base of s[SB]; dly.move copies a row of a tensor
of one row, dly.gather the rows its index list names, where both descriptors have one element format and lie in scratchpads; no error stands in what is read.
Log entries 47 and 58: where the statement rests on these, it is the model's choice. -/
def Obligations.DollyInstructionsMove : Prop :=
  ∀ (s : State) (tile : Fin 192) (body : BitVec 56), s.c.quiet = true → soloTile s.c tile = true →
    let t0 := tileAt s.c tile
    let ds := opWord 0x82 body
    let mv := opWord 0x80 body
    let ga := opWord 0x81 body
    let clean := fun (a n : Nat) => spadReach s.c tile false a n = true ∧ ∀ k, k < n → isPoisoned s.mem (a + k) = false ∧ errorAt s (poisonBase (a + k)) = false
    let plain := fun (x y : Desc) => x.fmt = y.fmt ∧ x.split = y.split ∧ isBlock x.fmt = false
    let at_ := fun (d : Desc) (r : Nat) => rowAddr d r 0 0 0
    (let a := (sReg t0 (fld ds 43 5) + sfld ds 0 32).toNat
     let raw := leNat (getBytes s.mem a 64)
     let raw := if bit ds.toNat 37 then raw - raw % 2 ^ 64 + (sReg t0 (fld ds 38 5)).toNat % 2 ^ 48 else raw
     let d : Desc := ⟨BitVec.ofNat 512 raw⟩
     canIssue s.c tile ds = true → fz ds 32 5 = true → clean a 64 → d.check = none →
      Completes (.dlyDsc tile body) s (fun t => accessFrame tile s t ∧
        tileAt t.c tile = { retired t0 (tileAt t.c tile) with d := (tileAt t.c tile).d } ∧
        ∀ m, dReg (tileAt t.c tile) m = if m = fld ds 48 4 then d else dReg t0 m)) ∧
    (let x := dReg t0 (dDA mv)
     let y := dReg t0 (dDB mv)
     let n := rowBytes x
     canIssue s.c tile mv = true → fz mv 32 2 = true → fz mv 34 10 = true → fz mv 1 31 = true → plain x y → (∀ k, k < 5 → x.size k = y.size k) →
      (∀ k, 0 < k → k < 5 → x.size k = 1) → 0 < n → clean (at_ x 0) n → spadReach s.c tile true (at_ y 0) n = true →
      Completes (.dlyMove tile body) s (fun t => getBytes t.mem (at_ y 0) n = getBytes s.mem (at_ x 0) n ∧ bytesKeptBut (at_ y 0) n s t ∧
        (∀ j : Nat, j ≠ tile → tileAt t.c j = tileAt s.c j) ∧ tileAt t.c tile = retired t0 (tileAt t.c tile))) ∧
    (let x := dReg t0 (dDA ga)
     let y := dReg t0 (dDB ga)
     let n := rowBytes x
     let c := (sReg t0 (dSB ga)).toNat
     let l := (sReg t0 (dSA ga)).toNat
     let idx := fun j => leNat (getBytes s.mem (l + 4 * j) 4)
     canIssue s.c tile ga = true → fz ga 32 2 = true → fz ga 1 31 = true → plain x y → x.rank = 2 → y.rank = 2 → x.size 0 = y.size 0 →
      0 < n → 0 < c → c ≤ 65536 → c ≤ y.size 1 → l % 4 = 0 →
      (∀ j, j < c → clean (l + 4 * j) 4 ∧ idx j < x.size 1 ∧ clean (at_ x (idx j)) n ∧ spadReach s.c tile true (at_ y j) n = true ∧
        (∀ k, k < c → at_ y k + n ≤ at_ x (idx j) ∨ at_ x (idx j) + n ≤ at_ y k) ∧ (∀ k, k < j → at_ y k + n ≤ at_ y j)) →
      Completes (.dlyGather tile body) s (fun t => (∀ j, j < c → getBytes t.mem (at_ y j) n = getBytes s.mem (at_ x (idx j)) n) ∧
        (∀ a, (∀ j, j < c → a < at_ y j ∨ at_ y j + n ≤ a) → getByte t.mem a = getByte s.mem a) ∧
        tileAt t.c tile = retired t0 (tileAt t.c tile)))


/-! ### Messages, counters, crew accesses, collectives (R157 to R163, R334 to R347) -/

/-- R157, R158, R160, R308, R313, R321: msg.post within the module stores the source bytes, in which no error stands, at the target and posts its semaphore; msg.send
also hands its notification over; a message to another module waits in the tile's list, its packets given to the context of its class.
Log entries 8 and 47: where the statement rests on these, it is the model's choice. -/
def Obligations.MessagesLeaveTheTile : Prop :=
  ∀ (s : State) (tile : Fin 192) (body : BitVec 56), s.c.quiet = true → soloTile s.c tile = true →
    let t0 := tileAt s.c tile
    let w := fun (send : Bool) => opWord (if send then 0x31 else 0x30) body
    let row := fun (send : Bool) => if send then Instr.msgSend tile body else Instr.msgPost tile body
    let v := fun (send : Bool) (lo : Nat) => sReg t0 (fld (w send) lo 5)
    let src := fun (send : Bool) => (v send 47).toNat
    let m := fun (send : Bool) => (v send 42).toNat / 2 ^ 48
    let addr := fun (send : Bool) => (v send 42).toNat % 2 ^ 48
    let len := fun (send : Bool) => (v send 37).toNat % 2 ^ 32
    let sem := fun (send : Bool) => fld (w send) 32 5
    let note := fun (send : Bool) => if send then some (bits (v send 37).toNat 32 8, bits (v send 37).toNat 40 3) else none
    let form := fun (send : Bool) => canIssue s.c tile (w send) = true ∧ fz (w send) 0 30 = true ∧ sem send < 24 ∧ fld (w send) 30 2 < 3 ∧
      t0.msgs = [] ∧ msgValues s.c tile (fld (w send) 30 2) send (v send 47) (v send 42) (v send 37) = true ∧
      msgReach s.c tile (v send 42) (v send 37) = none ∧ spadReach s.c tile false (src send) (len send) = true ∧
      ∀ k, k < len send → isPoisoned s.mem (src send + k) = false ∧ errorAt s (poisonBase (src send + k)) = false
    let landed := fun (send : Bool) (t : State) => getBytes t.mem (addr send) (len send) = getBytes s.mem (src send) (len send) ∧
      bytesKeptBut (addr send) (len send) s t ∧ semCount t.c tile (sem send) = semCount s.c tile (sem send) + 1 ∧
      (tileAt t.c tile).pc = (t0.pc + 8) % 2 ^ 32
    let near := fun (send : Bool) => form send ∧ isLocal s.c (m send) = true ∧ addr send + len send ≤ 0x18000000 ∧ semCount s.c tile (sem send) < 65535
    (near false → Completes (.msgPost tile body) s (landed false)) ∧
    (∀ g k, stepOf s.c tile = some g → note true = some k → takeOn s.c k.1 = none → s.c.share.notices.length < 256 → near true →
      Completes (.msgSend tile body) s (fun t => landed true t ∧
        t.c.share.notices = s.c.share.notices ++ [⟨sliceNow s.c, g, k.1, k.2, frameNow s.c⟩])) ∧
    (∀ send : Bool, form send → isLocal s.c (m send) = false → m send < 4096 → rtValid s.c (m send) = true → rtFenced s.c (m send) = false →
      let id := (Map.getD 0 s.c.fab.counts tile + 1) % 2 ^ 24
      let phys := rtPhys s.c (m send)
      let cls := fld (w send) 30 2
      let packets := ceilDiv (len send) 4096 + (if send then 1 else 0)
      Completes (row send) s (fun t => bytesKept s t ∧ (tileAt t.c tile).pc = (t0.pc + 8) % 2 ^ 32 ∧
        semCount t.c tile (sem send) = semCount s.c tile (sem send) ∧
        (tileAt t.c tile).msgs = [⟨id, t0.pc, sem send, cls, m send, src send, addr send, len send, note send, true⟩] ∧
        ∃ x, t.c.fab.src.find? (isSrc phys cls) = some x ∧
          x.next = (((s.c.fab.src.find? (isSrc phys cls)).map (fun y => y.next)).getD 0 + packets) % 2 ^ 32))

/-- R162, R163: cnt.rd writes the count, or with FN 1 a pair of counts, as it stands after the instruction itself is counted. Crew cs.rd and
cs.wr reach TL_SEM_SEL of a tile of their C-die; an address they may not reach reads zero, is not written, and is recorded.
Log entry 23: where the statement rests on it, it is the model's choice. -/
def Obligations.CounterAndCrewAccesses : Prop :=
  ∀ (s : State) (tile : Fin 192) (body : BitVec 56), s.c.quiet = true →
    let t0 := tileAt s.c tile
    let cnt := opWord 0x38 body
    let crd := opWord 0x39 body
    let cwr := opWord 0x3A body
    let n := fld cnt 0 10
    let addr := fun (w : BitVec 64) => (BitVec.ofNat 64 0x0F0000000000 + sReg t0 (aSA w) + iIMM w).toNat
    let select := fun (j : Fin 192) => 0x0F0010000034 + 0x100000 * j.toNat
    let wrote := fun (w : BitVec 64) (v : Nat) (t : State) =>
      ∀ m, sReg (tileAt t.c tile) m = if m = aSD w then (if m = 0 then 0 else BitVec.ofNat 64 v) else sReg t0 m
    (let get := fun (t : State) (k : Nat) => if bit cnt.toNat 15 then (if modReserved k then 0 else rd t.c (Reg.CNT_COUNT k)) else rd t.c (Reg.TL_CNT_COUNT tile k)
     canIssue s.c tile cnt = true → fz cnt 32 6 = true → fz cnt 42 5 = true → fz cnt 10 5 = true → fz cnt 16 16 = true → iFN cnt < 2 →
      countersAllowed s.c tile = true → n + iFN cnt ≤ (if bit cnt.toNat 15 then 1023 else 95) →
      Completes (.cntRd tile body) s (fun t => tileFrame tile s t ∧
        wrote cnt (if iFN cnt = 0 then get t n else get t n + 2 ^ 32 * get t (n + 1)) t)) ∧
    (t0.take = none → canIssue s.c tile crd = true → fz crd 32 6 = true →
      (∀ j : Fin 192, dieOf j = dieOf tile → addr crd = select j → Map.get? s.c.latched (select j) = none →
        Completes (.csRd tile body) s (fun t => tileFrame tile s t ∧ wrote crd (rd s.c (Reg.TL_SEM_SEL_SEM j)) t)) ∧
      (crewReaches tile (addr crd) = false →
        Completes (.csRd tile body) s (fun t => tileFrameBut [(Reg.TL_EVENTS_CREW_REFUSED tile).key] tile s t ∧ wrote crd 0 t ∧
          rd t.c (Reg.TL_EVENTS_CREW_REFUSED tile) = 1))) ∧
    (t0.take = none → canIssue s.c tile cwr = true → fz cwr 32 6 = true →
      (∀ j : Fin 192, dieOf j = dieOf tile → addr cwr = select j →
        Completes (.csWr tile body) s (fun t => tileFrameBut [(Reg.TL_SEM_SEL_SEM j).key] tile s t ∧
          rd t.c (Reg.TL_SEM_SEL_SEM j) = (sReg t0 (aSD cwr)).toNat % 32)) ∧
      (crewReaches tile (addr cwr) = false →
        Completes (.csWr tile body) s (fun t => tileFrameBut [(Reg.TL_EVENTS_CREW_REFUSED tile).key] tile s t ∧
          rd t.c (Reg.TL_EVENTS_CREW_REFUSED tile) = 1)))

/-- R342 to R347, R350: a coll.start other than CREATE and DESTROY on an open group of the take's slice and step group gives its operation the next sequence number and puts
it behind the operation in progress, which waits for its ring signature; a receive on a group with none in progress begins at once.
Log entries 47 and 58: where the statement rests on these, it is the model's choice. -/
def Obligations.CollectivesStartInOrder : Prop :=
  ∀ (s : State) (tile : Fin 192) (body : BitVec 56) (k step : Nat) (take : Take), s.c.quiet = true → soloTile s.c tile = true →
    takeOn s.c tile = some (k, take) → take.stepGroup = some step →
    let t0 := tileAt s.c tile
    let word := fun (fn : Nat) => fnWord 0x32 27 4 12 fn body
    let a := (sReg t0 (cSA (word 11))).toNat
    let n := Nat.min 64 (leAt (getBytes s.mem a 64) 0 2)
    let fuse := parseFuse (getBytes s.mem a 64) (getBytes s.mem (a + 64) (32 * n))
    let op0 := fun (fn : Nat) (entries : List (Nat × Nat × Nat × Nat)) =>
      let w := word fn
      let q : QItem := { word := w, pc := t0.pc, sa := sReg t0 (cSA w), sb := 0, sc := 0, da := dReg t0 (cDA w), db := dReg t0 (cDB w) }
      startOp s.c tile k q (groupAt s.c (cGRP w)) (if usesDA fn then relocDesc s.c tile q.da else Desc.none)
        (if usesDB fn then relocDesc s.c tile q.db else Desc.none) entries
    let form := fun (fn : Nat) (entries : List (Nat × Nat × Nat × Nat)) =>
      let w := word fn
      let g := groupAt s.c (cGRP w)
      canIssue s.c tile w = true ∧ fld w 27 4 = fn ∧ (formCollStart w).rsvOk = true ∧ (formCollStart w).valid = true ∧ g.state = 2 ∧
        g.slice = sliceNow s.c ∧ g.step = step ∧ 2 ≤ g.members.length ∧ g.sigs = [] ∧ g.inbox = [] ∧
        operandFault s.c tile g (op0 fn entries) (cALG w) = none
    let busy := fun (fn : Nat) => ∃ h l, (groupAt s.c (cGRP (word fn))).ops = h :: l ∧ h.begun = true ∧ h.fn ≠ 8 ∧ l.length < 7
    let started := fun (fn : Nat) (entries : List (Nat × Nat × Nat × Nat)) (t : State) =>
      let g := groupAt s.c (cGRP (word fn))
      let y := groupAt t.c (cGRP (word fn))
      bytesKept s t ∧ (tileAt t.c tile).pc = (t0.pc + 8) % 2 ^ 32 ∧ y.seq = g.seq + 1 ∧
        ∃ op, y.ops = g.ops ++ [op] ∧ { op with alg := 0, sig := 0, begun := false } = op0 fn entries
    (form 2 [] → busy 2 → Completes (.allReduce tile body) s (started 2 [])) ∧
    (form 3 [] → busy 3 → Completes (.reduceScatter tile body) s (started 3 [])) ∧
    (form 4 [] → busy 4 → Completes (.allGather tile body) s (started 4 [])) ∧
    (form 5 [] → busy 5 → Completes (.broadcast tile body) s (started 5 [])) ∧
    (form 6 [] → busy 6 → Completes (.reduce tile body) s (started 6 [])) ∧
    (form 7 [] → busy 7 → Completes (.allToAll tile body) s (started 7 [])) ∧
    (form 8 [] → busy 8 → Completes (.clapper tile body) s (started 8 [])) ∧
    (form 9 [] → busy 9 → Completes (.send tile body) s (started 9 [])) ∧
    (form 10 [] → busy 10 → Completes (.receive tile body) s (started 10 [])) ∧
    (form 10 [] → (groupAt s.c (cGRP (word 10))).ops = [] → unreachable s.c (groupAt s.c (cGRP (word 10))) = none →
      Completes (.receive tile body) s (fun t => started 10 [] t ∧ ∀ op ∈ (groupAt t.c (cGRP (word 10))).ops, op.begun = true)) ∧
    (∀ entries, fuse = some entries → spadReach s.c tile false a (64 + 32 * n) = true → errorFree s [(a, 64 + 32 * n)] = true →
      (∀ j, j < 64 + 32 * n → isPoisoned s.mem (a + j) = false) →
      form 11 entries → busy 11 → Completes (.fused tile body) s (started 11 entries))

/-- R334 to R341, R346: CREATE with a sound record takes a free slot and part of the pool for the group, which is pending, or
opens or is free again where every other member has joined; DESTROY
frees a slot with no operation; coll.wait writes the last completed operation's value once the tile has none in progress.
Log entries 8 and 47: where the statement rests on these, it is the model's choice. -/
def Obligations.CollectiveGroupsAndWaits : Prop :=
  ∀ (s : State) (tile : Fin 192) (body : BitVec 56), s.c.quiet = true → soloTile s.c tile = true →
    let t0 := tileAt s.c tile
    let cr := fnWord 0x32 27 4 12 0 body
    let de := fnWord 0x32 27 4 12 1 body
    let wt := opWord 0x33 body
    let moved := fun (t : State) => (tileAt t.c tile).pc = (t0.pc + 8) % 2 ^ 32 ∧ bytesKept s t
    (∀ k step take, takeOn s.c tile = some (k, take) → take.stepGroup = some step →
      let a := (sReg t0 (cSA cr)).toNat
      let n := Nat.min 4096 (leAt (getBytes s.mem a 64) 4 2)
      let r := getBytes s.mem a (64 + 2 * n)
      let gid := leAt r 0 4
      canIssue s.c tile cr = true → fld cr 27 4 = 0 → (formCollStart cr).rsvOk = true → (formCollStart cr).valid = true → a % 64 = 0 →
      spadReach s.c tile false a (64 + 2 * n) = true → errorFree s [(a, 64 + 2 * n)] = true →
      (∀ j, j < 64 + 2 * n → isPoisoned s.mem (a + j) = false) →
      recordOk s.c step r = true → (∀ e ∈ s.c.coll.groups, e.2.state ≠ 0 → e.2.gid ≠ gid) →
      (groupAt s.c (cGRP cr)).state = 0 → poolValid s.c = true → leAt r 8 4 ≤ poolFree s.c →
      let g := { Group.free with
        state := 1, gid := gid, weight := leAt r 6 1, index := (ownIndices s.c (recordMembers r)).headD 0, members := recordMembers r,
        step := step, slice := sliceNow s.c, bufKib := leAt r 8 4, creator := tile, hash := leAt (sha3_256 r) 0 8, since := frameNow s.c }
      let joins := s.c.coll.joins.filter (fun j => j.gid == gid && j.from_ != 0) ++ [⟨gid, 0, cGRP cr, 0, g.hash, frameNow s.c⟩]
      let slots := (List.range g.members.length).map (fun m => ((joins.find? (fun j => j.from_ == m)).map (fun j => j.slot)).getD 0)
      Completes (.create tile body) s (fun t => moved t ∧ groupAt t.c (cGRP cr) = if g.index ≠ 0 ∨ joins.length < g.members.length then g
        else if createStatus joins 0 = 0 then { g with state := 2, slots := slots } else Group.free)) ∧
    (∀ k take slot, takeOn s.c tile = some (k, take) → canIssue s.c tile de = true → fld de 27 4 = 1 → (formCollStart de).rsvOk = true →
      (formCollStart de).valid = true → ((groupAt s.c (cGRP de)).state = 2 ∨ (groupAt s.c (cGRP de)).state = 3) →
      (groupAt s.c (cGRP de)).slice = sliceNow s.c → take.stepGroup = some (groupAt s.c (cGRP de)).step → (groupAt s.c (cGRP de)).ops = [] →
      Completes (.destroy false slot tile body) s (fun t => moved t ∧ groupAt t.c (cGRP de) = Group.free)) ∧
    (∀ slot : Fin 256, (groupAt s.c slot).state ≠ 0 → (groupAt s.c slot).ops = [] → Completes (.destroy true slot tile body) s (fun t => groupAt t.c slot = Group.free ∧
      bytesKept s t ∧ ∀ j : Nat, j ≠ slot → groupAt t.c j = groupAt s.c j)) ∧
    (canIssue s.c tile wt = true → fz wt 0 39 = true → (∀ o ∈ (groupAt s.c (cGRP wt)).ops, o.tile ≠ tile) →
      (groupAt s.c (cGRP wt)).state ≠ 1 →
      Completes (.collWait tile body) s (fun t => tileFrame tile s t ∧ tileAt t.c tile = { retired t0 (tileAt t.c tile) with s := (tileAt t.c tile).s } ∧
        ∀ m, sReg (tileAt t.c tile) m = if m = fld wt 39 5 then (if m = 0 then 0 else BitVec.ofNat 64 (Map.getD 0 t0.colWait (cGRP wt))) else sReg t0 m))

/-! ### Registers, waits, hangs and checks of a tile (R154, R175, R211, R243 to R247, R470, R514) -/

/-- R175, R211, R514: while no take runs, IC_INVALIDATE drops the instruction cache and TL_SPAD_CLEAR zeroes the scratchpad, accumulators
and descriptors and makes both weight buffers invalid; a census clear zeroes the counts of its entries and keeps identity and history.
R470, R471, R475, R477: a tile that runs alone, is held by no wait and has retired nothing for 2^20 cycles is hung: its take ends in
0x0207 with the tile, its address and the count, the tile is reset and its scratchpad is zero.
R141, R142, R185: on a tick, where no cue is due, a tile that runs alone and whose PC lies outside the text, or at an illegal or a reserved opcode, ends its
take in 0x0206, 0x0202 or 0x0203, with the text address or the word.
Log entries 5, 6, 9, 62 and 63: where the statement rests on these, it is the model's choice. -/
def Obligations.TileClearsAndHangsClearOnlyTheirTile : Prop :=
  (∀ (s : State) (tile : Fin 192) (entry : Fin 64),
    let t0 := tileAt s.c tile
    let others := fun (t : State) => ∀ j : Nat, j ≠ tile → tileAt t.c j = tileAt s.c j
    let zeroed := fun (h : HistEntry) => { h with sat := 0, flush := 0, clamp := 0, nan := 0, cold := 0, elements := 0 }
    Completes (.icInvalidate tile) s (fun t => tileFrame tile s t ∧
      tileAt t.c tile = if t0.take.isSome then t0 else { t0 with icache := none }) ∧
    Completes (.spadClear tile) s (fun t => if t0.take.isSome then t = s else others t ∧
      (∀ a, getByte t.mem a = if tile * 0x200000 ≤ a ∧ a < (tile + 1) * 0x200000 then 0 else getByte s.mem a) ∧
      tileAt t.c tile = { t0 with acc := [], accWritten := 0, d := [], active := Weights.empty, shadow := Weights.empty }) ∧
    Completes (.censusClearEntry tile entry) s (fun t => tileFrame tile s t ∧ tileAt t.c tile = { t0 with hist := (tileAt t.c tile).hist } ∧
      ∀ e : Nat, Map.get? (tileAt t.c tile).hist e = (Map.get? t0.hist e).map (fun h => if e = entry then zeroed h else h)) ∧
    Completes (.censusClearAll tile) s (fun t => tileFrame tile s t ∧ tileAt t.c tile = { t0 with hist := (tileAt t.c tile).hist } ∧
      ∀ e : Nat, Map.get? (tileAt t.c tile).hist e = (Map.get? t0.hist e).map (fun h => if e < 64 then zeroed h else h))) ∧
  (∀ (s : State) (tile : Fin 192) (since : BitVec 64) (k : Nat) (x : Take), s.c.quiet = true → journalOk s.c = true → soloTile s.c tile = true →
    takeOn s.c tile = some (k, x) → x.st = .started → 2 ^ 20 ≤ since.toNat →
    Completes (.tileHang tile since) s (fun t => endedAs k 0x0207 tile (tileAt s.c tile).lastPc since.toNat t ∧
      (∀ a, tile * 0x200000 ≤ a → a < (tile + 1) * 0x200000 → getByte t.mem a = 0) ∧ (tileAt t.c tile).take = none ∧ (tileAt t.c tile).s = [])) ∧
  (∀ (s : State) (tile : Fin 192) (k : Nat) (x : Take), s.pending = [] → s.c.mgt.waiting = [] → s.c.quiet = true → journalOk s.c = true →
    soloTile s.c tile = true → takeOn s.c tile = some (k, x) → x.st = .started → (tileAt s.c tile).inReset = false → (tileAt s.c tile).ended = false →
    issueHeld s.c tile = false → (∀ e ∈ s.c.tiles, e.1 ≠ tile → e.2.take = none) → calmTo (now s.c + 1) s.c = true →
    let pc := (tileAt s.c tile).pc
    let w := fetchWord s x pc
    let ends := fun (ng b : Nat) => ∃ t, step s = .next t ∧ endedAs k ng tile pc b t
    (pcInText s.c tile = false → ends 0x0206 (textAddr s.c x pc)) ∧
    (pcInText s.c tile = true → (w / 2 ^ 56 = 0 ∨ w / 2 ^ 56 = 0xFF) → ends 0x0202 w) ∧
    (pcInText s.c tile = true → opReserved (w / 2 ^ 56) = true → ends 0x0203 w))

/-- R72, R154: when the comparator of a held cue.wait, the next cue that is due, reaches its time the queue goes on; the time is that of the wait.
R243 to R246: a check that agrees is counted for its take and is pending no longer; where the third recomputation shows the primary
tile right, the mismatch is counted and the checker tile alone is charged; where it shows the checker right, the primary tile.
Log entries 6 and 9: where the statement rests on these, it is the model's choice. -/
def Obligations.CueWaitsAndChecksSettle : Prop :=
  (∀ (s : State) (tile : Fin 192) (unit : Fin 6) (q : QItem), queueOf (tileAt s.c tile) unit = [q] → opOf q = 0x2A →
    (tileAt s.c tile).cueHeld.contains unit.toNat = true → (onTile tile (setQueue unit []) s).c.quiet = true →
    nextCue s.c (cueTime q) = some (cueTime q, .wait tile unit) →
    Completes (.cueWaitRelease tile unit) s (fun t => t.c.quiet = true ∧ now t.c = cueTime q ∧ bytesKept s t ∧
      (tileAt t.c tile).cueHeld.contains unit.toNat = false ∧ (tileAt t.c tile).pc = (tileAt s.c tile).pc)) ∧
  (∀ (s : State) (id : BitVec 32) (x : Check) (k : Take), s.c.quiet = true → journalOk s.c = true →
    s.c.share.checks.find? (fun y => y.id == id.toNat) = some x → takeAt s.c x.take = some k → k.st = .started → k.wide = false →
    let gone := fun (t : State) => t.c.share.checks = s.c.share.checks.filter (fun y => y.id != x.id) ∧ bytesKept s t
    let charged := fun (i : Nat) (t : State) => ∀ j, Map.getD [] t.c.share.charges j =
      if j = i then s.c.time.mono :: (Map.getD [] s.c.share.charges i).filter (fun y => decide (s.c.time.mono ≤ y + 86400 * 2 ^ 32))
      else Map.getD [] s.c.share.charges j
    let kept := { k with checks := (k.checks + 1) % 2 ^ 32 }
    let counted := { kept with mismatches := Nat.min 0xFFFF (k.mismatches + 1) }
    (∀ third, Completes (.checkService id false third) s (fun t => gone t ∧ takeAt t.c x.take = some kept ∧
      t.c.share.charges = s.c.share.charges)) ∧
    (thirdChecker s.c x.checker ≠ none → Completes (.checkService id true 0) s (fun t => gone t ∧ charged x.checker t ∧
      takeAt t.c x.take = some counted)) ∧
    (thirdChecker s.c x.checker ≠ none → reelFlag s.c k Reg.AD_REEL_CFG_CHECK_NG = false →
      Completes (.checkService id true 1) s (fun t => gone t ∧ charged x.tile t ∧ takeAt t.c x.take = some counted)) ∧
    (thirdChecker s.c x.checker ≠ none → reelFlag s.c k Reg.AD_REEL_CFG_CHECK_NG = true →
      Completes (.checkService id true 1) s (endedAs x.take 0x0208 x.tile x.pc x.checker)))


/-! ### Takes, reels and the lease (R81 to R121) -/

/-- R80 to R87, R106: a SUBMIT of one sound slate, which the port takes in, on an open, attached reel whose answers can leave, next in number, that passes every check and names no composite: the
take is accepted in a journal slot, the reel's next number and the count of acceptances go up, and one answer leaves.
Log entries 27, 28, 45 and 55: where the statement rests on these, it is the model's choice. -/
def Obligations.SubmitAcceptsATake : Prop :=
  ∀ (s : State) (p : Peer) (bs : List Byte) (k : Nat), s.c.quiet = true → journalOk s.c = true →
    let r := leAt bs 4 2
    let slate := sub (bs.drop 16) 0 64
    let x := slateTake slate
    let c1 := setReel r { reelAt s.c r with seqIn := leAt bs 8 4 } (modCount 360 1 (modCount 354 1 (bump Reg.ETH_RX_FRAMES_COUNT 1 s.c)))
    datagramIn p bs.length s.c = true → reelWay s.c r = true →
    rdb s.c Reg.AD_STATUS_REPLAYING = false → (if p.ipv4 then rdb s.c Reg.AD_TRANSPORT_IPV4_EN else rdb s.c Reg.AD_TRANSPORT_IPV6_EN) = true →
    80 ≤ bs.length → leAt bs 0 2 = 0x5A4E → leAt bs 2 1 = 1 → leAt bs 3 1 = 1 → leAt bs 6 2 = 1 → r < 4096 →
    submitterOf s.c r = (p.addr.toNat, p.ipv4, p.port.toNat) → rd s.c (Reg.AD_REEL_STATE_STATE r) = 1 → rdb s.c (Reg.AD_REEL_STATE_ATTACHED r) = true →
    x.num = nextNum s.c r → reelTake s.c r x.num = none → slateBad c1 r (rd s.c (Reg.AD_REEL_CFG_SLICE r)) false slate = none → x.cell.toNat = rd s.c (Reg.AD_REEL_TARGET_CELL r) →
    x.gen = moduleGen s.c → compositeForm x.cell = false → (reelAt s.c r).haltNg = none →
    takeChecks c1 x (rd s.c (Reg.AD_REEL_CFG_SLICE r)) (reelAt s.c r).prevDeadline (rdb s.c (Reg.AD_REEL_CFG_LOCAL_TIME r)) = none →
    slotKey c1 = some k → (∀ e ∈ s.c.ad.takes, ∀ i, e.2.parent ≠ some (k, i)) →
    Completes (.submit p bs) s (fun t =>
      (∃ y, takeAt t.c k = some y ∧ y.st = .accepted ∧ (y.reel, y.num, y.cell, y.handle, y.entry) = (r, x.num, x.cell, x.handle, x.entry) ∧
        (y.deadline, y.budget, y.argBase, y.argLen, y.stepGroup, y.checkK, y.seed) = (x.deadline, x.budget, x.argBase, x.argLen, x.stepGroup, x.checkK, x.seed) ∧
        y.acceptTc = now s.c) ∧
      nextNum t.c r = (x.num + 1) % 2 ^ 64 ∧ (reelAt t.c r).prevDeadline = x.deadline ∧
      rd t.c Reg.AD_ACCEPTS_COUNT = Nat.min (rd s.c Reg.AD_ACCEPTS_COUNT + 1) (2 ^ Reg.AD_ACCEPTS_COUNT.len - 1) ∧
      t.c.out.length = s.c.out.length + 1 ∧ bytesKept s t)

/-- R81, R82, R104, R113 to R116, R122: ATTACH attaches a reel that is not free, opens a lapsed one and sends a heartbeat and every held outcome;
an echo renews the lease of each reel of its submitter; an ACK releases the outcomes up to its number.
Log entries 27 and 45: where the statement rests on these, it is the model's choice. -/
def Obligations.ReelDatagramsAct : Prop :=
  ∀ (s : State) (p : Peer) (bs : List Byte), journalOk s.c = true →
    let r := leAt bs 4 2
    let sound := fun (typ len : Nat) => datagramIn p bs.length s.c = true ∧ rdb s.c Reg.AD_STATUS_REPLAYING = false ∧
      (if p.ipv4 then rdb s.c Reg.AD_TRANSPORT_IPV4_EN else rdb s.c Reg.AD_TRANSPORT_IPV6_EN) = true ∧ len ≤ bs.length ∧ leAt bs 0 2 = 0x5A4E ∧
      leAt bs 2 1 = 1 ∧ leAt bs 3 1 = typ ∧ r < 4096 ∧ submitterOf s.c r = (p.addr.toNat, p.ipv4, p.port.toNat)
    let held := (reelTakes s.c r).filter (fun e => e.2.st == .ended && e.2.released)
    let n := leAt bs 16 8
    (sound 7 16 → reelWay s.c r = true → rd s.c (Reg.AD_REEL_STATE_STATE r) ≠ 0 → Completes (.attach p bs) s (fun t => bytesKept s t ∧ t.c.ad.takes = s.c.ad.takes ∧
      rdb t.c (Reg.AD_REEL_STATE_ATTACHED r) = true ∧
      rd t.c (Reg.AD_REEL_STATE_STATE r) = (if rd s.c (Reg.AD_REEL_STATE_STATE r) = 2 then 1 else rd s.c (Reg.AD_REEL_STATE_STATE r)) ∧
      (reelAt t.c r).lastEcho = frameNow s.c ∧ (reelAt t.c r).seqOut = (reelAt s.c r).seqOut + 1 + held.length ∧
      t.c.out.length = s.c.out.length + 1 + held.length)) ∧
    (sound 6 24 → leAt bs 12 2 = moduleGen s.c → Completes (.echo p bs) s (fun t => bytesKept s t ∧ t.c.ad.takes = s.c.ad.takes ∧ t.c.out = s.c.out ∧
      ∀ q : Nat, (reelAt t.c q).lastEcho = if q ∈ leaseReels s.c r then frameNow s.c else (reelAt s.c q).lastEcho)) ∧
    (sound 4 24 → leAt bs 12 2 = moduleGen s.c → rd s.c (Reg.AD_REEL_STATE_STATE r) ≠ 3 → ackedNum s.c r < n → n < nextNum s.c r →
      (∀ e ∈ reelTakes s.c r, e.2.num ≤ n → e.2.st = .ended) →
      Completes (.ack p bs) s (fun t => bytesKept s t ∧ ackedNum t.c r = n ∧
        t.c.ad.takes = s.c.ad.takes.filter (fun e => !(e.2.origin == 0xFFFF && e.2.reel == r && decide (e.2.num ≤ n)))))

/-- R81, R82, R124, R429: AD_REEL_CMD opens a free reel of a slice, with its energy account at zero, and otherwise changes nothing; it closes an open or
lapsed reel, which is free at once where it holds no take; closed by force, the open takes of the reel end in 0x0704.
Log entry 17: where the statement rests on it, it is the model's choice. -/
def Obligations.ReelCommandsOpenAndClose : Prop :=
  ∀ (s : State), s.c.quiet = true → journalOk s.c = true →
    let r := rd s.c Reg.AD_REEL_SEL_REEL
    let state := rd s.c (Reg.AD_REEL_STATE_STATE r)
    let closed := fun (t : State) => rd t.c (Reg.AD_REEL_STATE_STATE r) = (if (reelTakes s.c r).isEmpty then 0 else 3) ∧ bytesKept s t ∧
      t.c.ad.takes = s.c.ad.takes
    Completes .reelOpen s (fun t => if state ≠ 0 ∨ rd s.c (Reg.AD_REEL_CFG_SLICE r) = 0 then t = s else
      rd t.c (Reg.AD_REEL_STATE_STATE r) = 1 ∧ rd64 t.c (Reg.GAF_E_REEL_LO_ENERGY r) (Reg.GAF_E_REEL_HI_ENERGY r) = 0 ∧
      reelAt t.c r = { Reel.reset with lastEcho := frameNow s.c } ∧ (∀ q, q ≠ r → reelAt t.c q = reelAt s.c q) ∧ bytesKept s t ∧
      regsKept [(Reg.AD_REEL_STATE_STATE r).key, (Reg.GAF_E_REEL_LO_ENERGY r).key, (Reg.GAF_E_REEL_HI_ENERGY r).key] s t) ∧
    Completes .reelClose s (fun t => if state = 1 ∨ state = 2 then closed t else t = s) ∧
    (state = 1 ∨ state = 2 → (∀ e ∈ s.c.ad.takes, e.2.origin = 0xFFFF → e.2.reel = r → e.2.st = .ended ∨ e.2.st = .prepared) →
      Completes .reelForceClose s closed) ∧
    (state = 1 ∨ state = 2 → ∀ k x, takeAt s.c k = some x → x.origin = 0xFFFF → x.reel = r → (x.st = .accepted ∨ x.st = .started) →
      Completes .reelForceClose s (endedAs k 0x0704 0xFFFF 0 0))

/-- R72, R104, R114, R115: where no cue comes first, in its slot of the frame an open, attached reel has its heartbeat; once per frame each released outcome of an attached reel goes
out again; a lease of an open reel that lapses takes its reels out of the open state, and their open takes, or the lead's copies, end in 0x0702.
Log entries 6, 9 and 55: where the statement rests on these, it is the model's choice. -/
def Obligations.LeasesLapseInFrames : Prop :=
  ∀ (s : State) (r : Fin 4096) (m : BitVec 16), s.c.quiet = true → journalOk s.c = true →
    let lapsed := leaseReels s.c r
    let open_ := ∃ q ∈ lapsed, rd s.c (Reg.AD_REEL_STATE_STATE q) = 1
    let lapse := (maxNat (lapsed.map (fun q => (reelAt s.c q).lastEcho)) + 8) * 2 ^ 22
    let again := fun (e : Nat × Take) => e.2.st == .ended && e.2.released && e.2.origin == 0xFFFF && e.2.parent.isNone && reelLive s.c e.2.reel
    let beats := rd s.c (Reg.AD_REEL_STATE_STATE r) = 1 ∧ rdb s.c (Reg.AD_REEL_STATE_ATTACHED r) ∧ rd s.c Reg.PWR_STATUS_MODE < 2 ∧
      rdb s.c Reg.AD_STATUS_REPLAYING = false
    (reelWay s.c r = true → calmTo (frameNow s.c * 2 ^ 22 + r.toNat % 256 * 2 ^ 14) s.c = true → Completes (.heartbeat r) s (fun t => bytesKept s t ∧ t.c.ad.takes = s.c.ad.takes ∧
      now t.c = Nat.max (now s.c) (frameNow s.c * 2 ^ 22 + r.toNat % 256 * 2 ^ 14) ∧
      t.c.out.length = s.c.out.length + (if beats then 1 else 0) ∧
      (reelAt t.c r).seqOut = (reelAt s.c r).seqOut + (if beats then 1 else 0))) ∧
    ((∀ e ∈ s.c.ad.takes, again e = true → reelWay s.c e.2.reel = true) →
      Completes .outcomeResend s (fun t => bytesKept s t ∧ t.c.ad.takes = s.c.ad.takes ∧
        t.c.out.length = s.c.out.length + (s.c.ad.takes.filter again).length)) ∧
    (open_ → calmTo lapse s.c = true → (∀ e ∈ s.c.ad.takes, e.2.origin = 0xFFFF → e.2.reel ∈ lapsed → e.2.st = .ended ∨ e.2.st = .prepared) →
      Completes (.leaseExpiry (.reel r)) s (fun t => bytesKept s t ∧
        ∀ q : Nat, rd t.c (Reg.AD_REEL_STATE_STATE q) = (if q ∈ lapsed ∧ rd s.c (Reg.AD_REEL_STATE_STATE q) ≠ 3 then 2 else rd s.c (Reg.AD_REEL_STATE_STATE q)) ∧
          rd t.c (Reg.AD_REEL_STATE_ATTACHED q) = if q ∈ lapsed then 0 else rd s.c (Reg.AD_REEL_STATE_ATTACHED q))) ∧
    (open_ → calmTo lapse s.c = true → ∀ k x, takeAt s.c k = some x → uncopied k s.c = true → x.origin = 0xFFFF → x.reel ∈ lapsed → (x.st = .accepted ∨ x.st = .started) →
      Completes (.leaseExpiry (.reel r)) s (endedAs k 0x0702 0xFFFF 0 (reelAt s.c x.reel).lastEcho)) ∧
    (calmTo 0 s.c = true → ∀ k x, takeAt s.c k = some x → x.origin ≠ 0xFFFF → x.lead = m.toNat → (x.st = .accepted ∨ x.st = .started) →
      Completes (.leaseExpiry (.lead m)) s (endedAs k 0x0702 0xFFFF 0 (frameNow s.c - 8)))

/-- R71, R72, R92, R135, R136: at its start cue, the next cue that is due, an accepted take whose tiles and reel are free runs: each tile of its cell holds the take, its entry
address and the values of R135, a tile that changes slice has a zero scratchpad, and no other byte changes.
Log entries 6 and 9: where the statement rests on these, it is the model's choice. -/
def Obligations.TakeStartsAtItsCue : Prop :=
  ∀ (s : State) (key : BitVec 32) (x : Take) (p : Nat),
    let k := key.toNat
    let ts := plainTiles s.c x.cell
    s.c.quiet = true → takeAt s.c k = some x → x.planned = some p → p < 2 ^ 64 → x.st = .accepted → x.leaf = true →
    (∀ i ∈ ts, (tileAt s.c i).take = none ∧ (tileAt s.c i).inReset = false) →
    (∀ e ∈ s.c.ad.takes, e.2.leaf = true → e.2.st ≠ .ended → e.2.reelKey ≠ x.reelKey ∨ x.num ≤ e.2.num) →
    nextCue s.c p = some (p, .start k) →
    Completes (.startTake key) s (fun t => now t.c = Nat.max (now s.c) p ∧ t.pending = s.pending ∧
      (∃ y, takeAt t.c k = some y ∧ y.st = .started ∧ y.startTc = p ∧ y.num = x.num ∧ y.cell = x.cell) ∧
      (∀ i ∈ ts, (tileAt t.c i).take = some k ∧ (tileAt t.c i).pc = x.entry ∧ (tileAt t.c i).ended = false ∧ (tileAt t.c i).lastSlice = sliceNow s.c ∧
        sReg (tileAt t.c i) 1 = BitVec.ofNat 64 x.argBase ∧ sReg (tileAt t.c i) 2 = BitVec.ofNat 64 (64 * x.argLen) ∧
        sReg (tileAt t.c i) 3 = BitVec.ofNat 64 i ∧ sReg (tileAt t.c i) 5 = BitVec.ofNat 64 x.num ∧
        sReg (tileAt t.c i) 6 = BitVec.ofNat 64 p ∧ sReg (tileAt t.c i) 7 = BitVec.ofNat 64 x.deadline) ∧
      (∀ i, i ∉ ts → tileAt t.c i = tileAt s.c i) ∧
      ∀ a, getByte t.mem a = if ts.any (fun i => (tileAt s.c i).lastSlice != sliceNow s.c && decide (i * 0x200000 ≤ a ∧ a < (i + 1) * 0x200000)) then 0
        else getByte s.mem a)

/-- R94 to R98, R105: a take whose tiles are done wraps, or over its budget, or else past its deadline, ends in that reason; a take whose count of cycles passes its
budget ends in 0x0201 with its lowest tile; a take that passes its deadline ends in the reason of R97.
Log entries 1, 6, 9 and 55: where the statement rests on these, it is the model's choice. -/
def Obligations.TakeEndsInOneOutcome : Prop :=
  ∀ (s : State) (key : BitVec 32) (cycles : BitVec 64) (x : Take), s.c.quiet = true → journalOk s.c = true → takeAt s.c key.toNat = some x →
    x.leaf = true →
    let late := lateReason s.c x
    let low := (plainTiles s.c x.cell).headD 0
    (x.st = .started → wrapReady s.c key.toNat x = true → Completes (.wrap key cycles) s
      (if overBudget x cycles.toNat = true then endedAs key.toNat 0x0201 low (tileAt s.c low).lastPc cycles.toNat else if x.deadline ≠ noDeadline ∧ x.deadline < now s.c then endedAs key.toNat late.1 0xFFFF late.2.1 late.2.2 else endedAs key.toNat 0 0xFFFF 0 0)) ∧
    (x.st = .started → x.budget * 1500000000 < cycles.toNat * 4194304 → Completes (.budgetOverrun key cycles) s
      (endedAs key.toNat 0x0201 low (tileAt s.c low).lastPc cycles.toNat)) ∧
    (x.deadline < noDeadline → calmTo (x.deadline + 1) s.c = true → (x.st = .started ∨ x.st = .accepted) → Completes (.deadlineMissed key) s
      (endedAs key.toNat late.1 0xFFFF late.2.1 late.2.2))

/-- R34, R44, R113, R118 to R121: a sound prepare of a plain cell, from a module that is heard, is journaled and admitted; a member that refuses, or is silent, undoes the take; the last
admission accepts it; COMMIT accepts a prepared copy and is acknowledged; an abort, or 16 frames without either, drops it.
Log entries 29, 48, 55 and 58: where the statement rests on these, it is the model's choice. -/
def Obligations.CompositeTakesAreAgreed : Prop :=
  ∀ (s : State) (lead origin module gen code : BitVec 16) (slate : List Byte) (ref : TakeRef) (member : Fin 64) (k : Nat) (x : Take),
    s.c.quiet = true → journalOk s.c = true →
    let y := { slateTake slate with origin := origin.toNat, lead := lead.toNat, leadGen := gen.toNat }
    let c1 := modCount 59 1 (hearing lead.toNat gen.toNat s.c)
    let fromLead := heardFrom lead.toNat gen.toNat s.c = true
    let fromMember := heardFrom module.toNat gen.toNat s.c = true
    let found := findRef s.c ref = some (k, x) ∧ x.st = .prepared ∧ x.parent = none ∧ (x.origin = 0xFFFF → (reelAt s.c x.reel).slates = [])
    let remote := fun (key i : Nat) (m : Member) => memberAt s.c k member module.toNat (fun m => !m.admitted) = some (key, i, m) ∧ m.admitted = false
    let after := fun (key i : Nat) => setMember key i (fun m => { m with admitted := true }) s.c
    (fromLead → genOlder y.gen (Map.getD y.gen c1.ad.peers origin.toNat) = false → copyHere c1 y y.cell = false →
      slateBad c1 y.reel (sliceNow s.c) true slate = none → takeChecks c1 y (sliceNow s.c) 0 false = none → slotKey c1 = some k → compositeForm y.cell = false →
      (∀ e ∈ s.c.ad.takes, ∀ i, e.2.parent ≠ some (k, i)) →
      Completes (.prepare ⟨lead, gen⟩ origin slate) s (fun t => (∃ z, takeAt t.c k = some z ∧ z.st = .prepared ∧ z.lead = lead.toNat ∧ z.origin = origin.toNat ∧
        (z.reel, z.num, z.cell, z.deadline) = (y.reel, y.num, y.cell, y.deadline)) ∧
        toldModule 2 lead.toNat (refBytes y y.cell ++ leBytes 2 0) t)) ∧
    (∀ key i m, fromMember → found → remote key i m → code ≠ 0 → Completes (.admitAnswer ref member ⟨module, gen⟩ code) s (fun t => takeAt t.c k = none)) ∧
    (∀ key i m, found → remote key i m → Completes (.admissionTimeout ref member module) s (fun t => takeAt t.c k = none)) ∧
    (∀ key i m, fromMember → found → remote key i m → x.origin = 0xFFFF → (reelAt s.c x.reel).haltNg = none →
      (remoteMembers (after key i) k).all (fun e => e.2.2.admitted) = true → Completes (.admitAnswer ref member ⟨module, gen⟩ 0) s (takeIs k .accepted)) ∧
    (fromLead → found → x.origin ≠ 0xFFFF → Completes (.commit ⟨lead, gen⟩ ref) s (fun t => takeIs k .accepted t ∧
      toldModule 5 lead.toNat (refBytes x x.cell) t)) ∧
    (fromLead → found → x.origin ≠ 0xFFFF → Completes (.abort ⟨⟨lead, gen⟩, ref⟩) s (fun t => takeAt t.c k = none)) ∧
    (calmTo ((x.admitFrame + 16) * 2 ^ 22) s.c = true → found → x.origin ≠ 0xFFFF → Completes (.preparedCopyDrop ref) s (fun t => takeAt t.c k = none))

/-- R35, R44, R101, R105, R113, R121: from modules that are heard, a member's outcome or the loss of its module closes its place in a composite take, which ends when no place is open; a lead
that starts a new generation ends its older copies in 0x0703 and has its older prepared copies dropped.
Log entries 29, 48 and 55: where the statement rests on these, it is the model's choice. -/
def Obligations.CompositeTakesClose : Prop :=
  ∀ (s : State) (lead module gen : BitVec 16) (ref : TakeRef) (member : Fin 64) (bs : List Byte) (k : Nat) (x : Take),
    s.c.quiet = true → journalOk s.c = true → takeAt s.c k = some x →
    let closed := fun (key : Nat) (newer : Bool) (p : Nat → Member → Prop) (t : State) => ∃ y, takeAt t.c key = some y ∧ (newer = true → y.st = .ended) ∧
      ∀ i m, y.members[i]? = some m → p i m → m.kind ≠ 0
    (∀ i m, heardFrom module.toNat (leAt bs 4 2) s.c = true → findRef s.c ref = some (k, x) → (x.st = .accepted ∨ x.st = .started) → 64 ≤ bs.length →
      memberAt s.c k member module.toNat (fun m => m.kind == 0) = some (k, i, m) → m.kind = 0 →
      let newer := ((List.range x.members.length).zip x.members).all (fun e => e.1 == i || e.2.kind != 0)
      Completes (.memberOutcome ref member module bs) s (closed k newer (fun j _ => j = i))) ∧
    ((x.st = .accepted ∨ x.st = .started) → Completes (.remoteMemberLost module) s
      (closed k false (fun _ m => m.copy = none ∧ m.module = module.toNat))) ∧
    (heardFrom lead.toNat gen.toNat s.c = true → x.origin ≠ 0xFFFF → x.lead = lead.toNat → genOlder x.leadGen gen.toNat = true → x.st = .prepared →
      Completes (.leadGenerationChange lead gen) s (fun t => takeAt t.c k = none)) ∧
    (heardFrom lead.toNat gen.toNat s.c = true → uncopied k s.c = true → x.origin ≠ 0xFFFF → x.lead = lead.toNat → genOlder x.leadGen gen.toNat = true → (x.st = .accepted ∨ x.st = .started) →
      Completes (.leadGenerationChange lead gen) s (endedAs k 0x0703 0xFFFF 0 x.leadGen))

/-- R93, R407, R425: planning anew sets the clock the AD plans with; a waiting take whose deadline the new plan cannot meet ends in 0x0601 with the cap and
the clock, and where every deadline is met no take changes its place in the journal.
Log entry 30: where the statement rests on it, it is the model's choice. -/
def Obligations.ReplanEndsWhatCannotBeMet : Prop :=
  ∀ (s : State), s.c.quiet = true → journalOk s.c = true →
    let c1 := setFloorClock s.c
    let plan := (planNow c1 true).1
    (plan.all (fun e => e.2.2.2) = true → Completes .replan s (fun t => bytesKept s t ∧
      rd t.c Reg.AD_FLOOR_CLOCK_F = rd c1 Reg.AD_FLOOR_CLOCK_F ∧ ∀ k, (takeAt t.c k).map (fun x => x.st) = (takeAt s.c k).map (fun x => x.st))) ∧
    (∀ k x a b, takeAt s.c k = some x → x.st = .accepted → (k, a, b, false) ∈ plan →
      Completes .replan s (endedAs k 0x0601 0xFFFF (capNow s.c) (clockNow s.c)))

/-! ### The memory system, the cell table, images (R30, R31, R164 to R169, R258 to R291) -/

/-- R267, R268, R269: an apply that a check fails only says which; one that passes puts the staged partition into effect, and a unit that changes mode is
zero. A flush that runs goes on; when it is done no line is dirty, after command 2 none is left, and each dirty line stands in memory.
Log entries 8 and 61: where the statement rests on these, it is the model's choice. -/
def Obligations.PartitionAndFlush : Prop :=
  ∀ (s : State),
    let r := applyRefusal s.c
    let old := s.c.memory.cfg
    let new := staged s.c
    let changed := fun (a : Nat) => sramBase ≤ a ∧ a < 0x001400000000 ∧ bit new.unitMode ((a - sramBase) / 0x4000000) ≠ bit old.unitMode ((a - sramBase) / 0x4000000)
    let begun := fun (cmd : Nat) (t : State) => if s.c.memory.flush.isSome then t = s else
      t.c.memory = { s.c.memory with flush := some cmd } ∧ rd t.c Reg.MEM_FLUSH_STATUS_BUSY = 1 ∧ rd t.c Reg.MEM_STATUS_FLUSH_BUSY = 1 ∧ bytesKept s t ∧
      rd t.c Reg.MEM_FLUSH_STATUS_UNITS_LEFT = popCount old.unitMode 256 % 256 ∧
      regsKept [Reg.MEM_FLUSH_STATUS_BUSY.key, Reg.MEM_STATUS_FLUSH_BUSY.key, Reg.MEM_FLUSH_STATUS_UNITS_LEFT.key, Reg.MEM_FLUSH_STATUS_RESUMED.key] s t
    Completes .memCfgApply s (fun t => rd t.c Reg.MEM_CFG_STATUS_REFUSAL = r ∧
      if r ≠ 0 then t.c.memory = s.c.memory ∧ bytesKept s t ∧ regsKept [Reg.MEM_CFG_STATUS_REFUSAL.key] s t else
        t.c.memory.cfg = new ∧ rd t.c Reg.MEM_CFG_STATUS_APPLIED = 1 ∧ rdb t.c Reg.MEM_ENC_CTRL_ACTIVE = rdb s.c Reg.MEM_ENC_CTRL_ENABLE ∧
        (∀ a, changed a → getByte t.mem a = 0) ∧ (∀ a, a < lpddrBase → ¬ changed a → getByte t.mem a = getByte s.mem a) ∧
        (new.unitMode ≠ old.unitMode ∨ new.placement ≠ old.placement → t.c.memory.cache = [])) ∧
    Completes .memFlushWriteBack s (begun 1) ∧ Completes .memFlushInvalidate s (begun 2) ∧
    Completes .flushDone s (fun t => if s.c.memory.flush.isNone then t = s else
      t.c.memory.flush = none ∧ rd t.c Reg.MEM_FLUSH_STATUS_BUSY = 0 ∧ rd t.c Reg.MEM_STATUS_FLUSH_BUSY = 0 ∧ rd t.c Reg.MEM_EVENTS_FLUSH_DONE = 1 ∧
      (s.c.memory.flush = some 2 → t.c.memory.cache = []) ∧ (∀ x ∈ t.c.memory.cache, x.dirty = false) ∧
      (∀ a, a < lpddrBase → getByte t.mem a = getByte s.mem a) ∧
      (s.c.memory.lostDevices = [] → (∀ x ∈ s.c.memory.cache, x.data.length = 256) →
        ∀ x ∈ s.c.memory.cache, x.dirty = true → (∀ y ∈ s.c.memory.cache, y.line = x.line → y = x) → getBytes t.mem (lineAddr x.line) 256 = x.data))

/-- R291, R381, R571: a slice release ends every open take that is no copy of another in 0x0303, keeps admission stopped, zeroes all memory but the units reserved for crew, empties the cache, destroys the
key and the groups, and leaves its record; its slice and generation stand there, and the module may be assigned anew.
Log entries 1, 8, 9 and 61: where the statement rests on these, it is the model's choice. -/
def Obligations.SliceReleaseLeavesNothing : Prop :=
  ∀ (s : State) (ms : BitVec 16), s.c.quiet = true → journalOk s.c = true →
    let crew := fun (a : Nat) => sramBase ≤ a ∧ a < 0x001400000000 ∧ (a - sramBase) / 0x4000000 % 32 = 15
    Completes (.sliceRelease ms) s (fun t => (∀ a, getByte t.mem a = if crew a then getByte s.mem a else 0) ∧
      (∀ a, ¬ crew (poisonBase a) → isPoisoned t.mem a = false) ∧ t.c.memory.cache = [] ∧ t.c.memory.sliceKey = none ∧
      t.c.memory.released = true ∧ closedCause t.c = some 1 ∧ (∀ j, (groupAt t.c j).state = 0) ∧ (∀ i, (tileAt t.c i).acc = [] ∧ (tileAt t.c i).hist = []) ∧
      rd t.c Reg.MEM_ENC_CTRL_KEY_PRESENT = 0 ∧ rd t.c Reg.MEM_RELEASE_STATUS_DONE = 1 ∧ rd t.c Reg.MEM_RELEASE_STATUS_LAST_MS = Nat.min ms.toNat 700 ∧
      (∃ x, t.c.memory.release = some x ∧ x.slice = sliceNow t.c ∧ x.gen = moduleGen t.c) ∧
      ∀ k x, takeAt s.c k = some x → x.parent = none → uncopied k s.c = true → (x.st = .accepted ∨ x.st = .started) → endedAs k 0x0303 0xFFFF 0 0 t)

/-- R274, R278, R279, R280, R284, R285, R287: trackers go, drift adjustments and RFM commands are counted, the highest refresh rate shows; the one error
that stands in a line, in a word or on a link is counted as the patrol finds it, an uncorrectable one is poisoned and its contents stay; a lost device leaves service.
Log entries 9, 10 and 61: where the statement rests on these, it is the model's choice. -/
def Obligations.MemoryUpkeepIsCounted : Prop :=
  ∀ (s : State) (index : Fin 256) (mdie : Fin 4) (device : Fin 12) (rate : Fin 3) (rfm : BitVec 16) (addr : BitVec 48) (wrong : Fin 5) (bits : Fin 3) (last : Bool),
    let a := addr.toNat
    let n := 288 + 16 * mdie.toNat + 15
    let rates := Map.setD 0 s.c.memory.rates device.toNat rate.toNat
    let up := fun (f : Fld) (k : Nat) (t : State) => rd t.c f = if k = 0 then rd s.c f else Nat.min (rd s.c f + k) (2 ^ f.len - 1)
    let found := fun (limit : Nat) (t : State) => bytesKept s t ∧ flawless t = true ∧
      ∀ x, isPoisoned t.mem x = (isPoisoned s.mem x || (decide (limit < wrong.toNat) && poisonBase x == poisonBase a))
    let one := fun (limit : Nat) => if wrong.toNat ≠ 0 ∧ wrong.toNat ≤ limit then 1 else 0
    let many := fun (limit : Nat) => if limit < wrong.toNat then 1 else 0
    Completes (.trackerFree index) s (fun t => t.c.memory.trackers = s.c.memory.trackers.eraseIdx index ∧ bytesKept s t) ∧
    Completes (.driftAdjustment mdie) s (fun t => bytesKept s t ∧ (∀ g : Fld, countKey g.key = false → rd t.c g = rd s.c g) ∧
      if rdb s.c (Reg.CNT_CFG_CHAIN (n - 1)) then t = s else rd t.c (Reg.CNT_COUNT n) = (rd s.c (Reg.CNT_COUNT n) + 1) % 2 ^ 32) ∧
    Completes (.refresh device rate rfm) s (fun t => bytesKept s t ∧ t.c.memory.rates = rates ∧
      rd t.c Reg.MEM_REFRESH_MODE = maxNat (rates.map (fun e => e.2)) % 4 ∧ rd t.c Reg.MEM_RFM_COUNT = Nat.min (rd s.c Reg.MEM_RFM_COUNT + rfm.toNat) (2 ^ 32 - 1)) ∧
    (flawless s = true → deviceLost s.c a = false → regionOf s.c a = .lpddr → rd s.c Reg.MEM_SCRUB_CTRL_LPDDR_PERIOD_H ≠ 0 →
      Completes (.patrolScrub addr [.cells addr wrong] last) s (fun t => found 2 t ∧
        up Reg.MEM_ECC_CORR_COUNT (one 2) t ∧ up Reg.MEM_ECC_UNCORR_COUNT (many 2) t ∧ rd t.c Reg.MEM_SCRUB_STATUS_POSITION_GIB = (a - lpddrBase) / 2 ^ 30 ∧
        up Reg.MEM_SCRUB_STATUS_PASSES (if last then 1 else 0) t ∧ (last = true → rd t.c Reg.MEM_EVENTS_SCRUB_PASS = 1) ∧
        (2 < wrong.toNat → rd t.c Reg.MEM_EVENTS_UNCORR = 1)) ∧
      Completes (.patrolScrub addr [.link addr bits] last) s (fun t => bytesKept s t ∧ flawless t = true ∧
        up Reg.MEM_LINK_ECC_COUNT (if bits = 1 then 1 else 0) t)) ∧
    (flawless s = true → ∀ u, regionOf s.c a = .sram u → bit s.c.memory.cfg.unitMode u = false → rd s.c Reg.MEM_SCRUB_CTRL_SRAM_PERIOD_H ≠ 0 →
      Completes (.patrolScrub addr [.cells addr wrong] last) s (fun t => found 1 t ∧
        up Reg.MEM_SRAM_CORR_COUNT (one 1) t ∧ up Reg.MEM_SRAM_UNCORR_COUNT (many 1) t)) ∧
    Completes (.devOut device) s (fun t => bytesKept s t ∧ if bit (rd s.c Reg.MEM_STATUS_DEV_IN_SERVICE) device.toNat = false then t = s else
      device.toNat ∈ t.c.memory.lostDevices ∧ rd t.c Reg.MEM_EVENTS_DEV_OUT = 1 ∧
      ∀ k : Nat, k < 12 → bit (rd t.c Reg.MEM_STATUS_DEV_IN_SERVICE) k = (bit (rd s.c Reg.MEM_STATUS_DEV_IN_SERVICE) k && decide (k ≠ device.toNat)))

/-- R30, R31, R164 to R169, R176: a cell-table write that a check fails is answered with the check's code and changes no entry, else the entry is as written
and its generation goes up; an image that passes the load checks is entered and its handle answered; a free image is gone.
Log entry 54: where the statement rests on it, it is the model's choice. -/
def Obligations.CellsAndImagesAreChecked : Prop :=
  ∀ (s : State) (req : Req) (bs : List Byte),
    let i := leAt bs 0 2
    let e := bs.drop 4
    let wrong := cellRefusal s.c i e
    let a := leNat bs
    let bad := imageRefusal s a
    let n := ((List.range 1024).find? (fun n => !(((Map.get? s.c.share.images n).map (fun im => im.loaded)).getD false))).getD 0
    let loads := (((Map.get? s.c.share.images n).map (fun im => im.loads)).getD 0 + 1) % 2 ^ 16
    let imagesKept := fun (t : State) => t.c.share.images = s.c.share.images
    (servable 0x31 req s.c = true → bs.length = 580 → leAt bs 2 2 = 0 → i ≤ 4095 → Completes (.cellWrite req bs) s (fun t => bytesKept s t ∧
      if wrong ≠ 0 then answered 0x31 req (0x0400 + wrong) [] t ∧ t.c.ad.cells = s.c.ad.cells else answered 0x31 req 0 [] t ∧
        (∀ j, j ≠ i → cellAt t.c j = cellAt s.c j) ∧ 
          cellAt t.c i = ⟨leAt e 4 2, leAt e 6 1, leAt e 8 1, ((cellAt s.c i).gen + 1) % 2 ^ 16, entryMembers e⟩)) ∧
    (servable 0x32 req s.c = true → bs.length = 8 → Completes (.imageLoad req bs) s (fun t => bytesKept s t ∧
      if bad ≠ 0 then answered 0x32 req (0x0300 + bad) [] t ∧ imagesKept t else answered 0x32 req 0 (leBytes 4 (loads * 65536 + n)) t ∧
        ∀ j, Map.get? t.c.share.images j = if j = n then 
          some ⟨loads, true, sliceNow s.c, a + 128, leAt (getBytes s.mem a 128) 16 4, leAt (getBytes s.mem a 128) 20 1⟩ else Map.get? s.c.share.images j)) ∧
    (servable 0x33 req s.c = true → bs.length = 4 → Completes (.imageFree req bs) s (fun t => bytesKept s t ∧
      match imageFor s.c a (sliceNow s.c) with
      | none => answered 0x33 req 0x030D [] t ∧ imagesKept t
      | some im => if s.c.ad.takes.any (fun e => e.2.handle == a) then answered 0x33 req 0x0003 [] t ∧ imagesKept t else
          answered 0x33 req 0 [] t ∧ ∀ j, Map.get? t.c.share.images j = if j = a % 1024 then some { im with loaded := false } else Map.get? s.c.share.images j))

/-! ### The fabric (R297 to R331) -/

/-- R299, R310, R312, R313, R315 to R318, R322: on a port that is up, DATA that opens a context lands in the allotment; of an old generation it is dropped; come before, it is
counted; ahead of its turn it is held; outside the allotment it is refused and nothing is written.
Log entries 54, 58 and 59: where the statement rests on these, it is the model's choice. -/
def Obligations.DataLandsInOrder : Prop :=
  ∀ (s : State) (port : Fin 18) (bs : List Byte) (p : Pkt), s.c.quiet = true → comesIn port 1 bs p s.c →
    let ctx := s.c.fab.dst.find? (isDst p.src p.tc)
    let inside := (List.range p.payload.length).all (fun k => inAllotment s.c (p.addr + k))
    let now_ := fun (t : State) => ∃ y ∈ t.c.fab.dst, isDst p.src p.tc y = true ∧ y.gen = p.gen ∧ y.expect = 1 ∧ y.held = []
    (ctx = none → p.seq = 0 → dstCount p.src s.c < 4096 → inside = true → plainRange s p.addr p.payload.length = true → Completes (.data port bs) s (fun t =>
      now_ t ∧ getBytes t.mem p.addr p.payload.length = p.payload ∧ bytesKeptBut p.addr p.payload.length s t)) ∧
    (ctx = none → p.seq = 0 → dstCount p.src s.c < 4096 → inside = false → Completes (.data port bs) s (fun t => now_ t ∧ bytesKept s t ∧
      rd t.c Reg.FAB_EVENTS_REFUSED = 1 ∧ t.c.out.length = s.c.out.length + if p.last then 2 else 1)) ∧
    (∀ x, ctx = some x → genOlder p.gen x.gen = true → Completes (.data port bs) s (fun t =>
      bumped Reg.FAB_DROP_GEN_COUNT 1 s t ∧ t.mem = s.mem ∧ t.c.fab = s.c.fab)) ∧
    (∀ x, ctx = some x → p.gen = x.gen → p.opn = false →
      let ahead := (p.seq + 2 ^ 32 - x.expect) % 2 ^ 32
      (2 ^ 31 ≤ ahead → Completes (.data port bs) s (fun t => bumped Reg.FAB_DUP_COUNT 1 s t ∧ t.mem = s.mem)) ∧
      (0 < ahead → ahead < 2 ^ 16 → dieHeld s.c (ownerOf s.c p.src) + p.payload.length ≤ 2 ^ 23 → heldBytes x + p.payload.length ≤ 2 ^ 19 →
        (∀ q ∈ x.held, q.seq ≠ p.seq) → Completes (.data port bs) s (fun t => t.mem = s.mem ∧ t.c.out = s.c.out ∧
          ∃ y ∈ t.c.fab.dst, isDst p.src p.tc y = true ∧ y.expect = x.expect ∧ y.held = x.held ++ [p])))

/-- R159, R315, R328, R484, R485: a notification posts to the tile where the take of its step group runs, else waits; a first cut ends the takes of its
step group, and a second copy only counts; a first DEPART fences each entry of its sender.
Log entries 6, 54 and 58: where the statement rests on these, it is the model's choice. -/
def Obligations.NoticesCutsAndDeparturesAct : Prop :=
  ∀ (s : State) (port : Fin 18) (bs : List Byte) (p : Pkt), s.c.quiet = true → journalOk s.c = true →
    let tile := leAt p.payload 4 1 % 192
    let sem := 16 + leAt p.payload 5 1 % 8
    let step := leAt p.payload 0 4
    let tc := leAt p.payload 8 8
    let origin := ((rtEntries s.c).find? (fun n => rtPhys s.c n == p.src)).getD 0xFFFF
    let first := (firstCopy p s.c).1 = true
    let mine := fun (n : Nat) => rtValid s.c n && rtPhys s.c n == p.src
    (comesIn port 2 bs p s.c → s.c.fab.dst.find? (isDst p.src p.tc) = none → p.seq = 0 → dstCount p.src s.c < 4096 →
      (∀ k x, takeOn s.c tile = some (k, x) → x.stepGroup = some step → x.st = .started → qReg (tileAt s.c tile) sem < 65535 →
        Completes (.notify port bs) s (fun t => qReg (tileAt t.c tile) sem = qReg (tileAt s.c tile) sem + 1 ∧ bytesKept s t ∧
          t.c.share.notices = s.c.share.notices)) ∧
      (takeOn s.c tile = none → s.c.share.notices.length < 256 → Completes (.notify port bs) s (fun t => bytesKept s t ∧
        t.c.share.notices = s.c.share.notices ++ [⟨p.slice, step, tile, sem - 16, frameNow s.c⟩] ∧ ∀ i, tileAt t.c i = tileAt s.c i))) ∧
    (comesIn port 8 bs p s.c → first → leAt p.payload 4 2 = sliceNow s.c → cutRecently step s.c = false →
      (∀ k x, takeAt s.c k = some x → cutEnds step tc x = true → Completes (.cut port bs) s (endedAs k 0x0402 0xFFFF step origin)) ∧
      ((∀ e ∈ s.c.ad.takes, cutEnds step tc e.2 = false) → Completes (.cut port bs) s (fun t =>
        t.mem = s.mem ∧ t.c.ad = s.c.ad ∧ t.c.flt = { s.c.flt with cuts := (step, tc) :: s.c.flt.cuts } ∧ bumped Reg.FLT_CUT_RX_COUNT 1 s t ∧
        ((∀ e ∈ s.c.coll.groups, e.2.state ≠ 2 ∨ e.2.step ≠ step) → t.c.coll = s.c.coll)))) ∧
    (comesIn port 8 bs p s.c → ¬ first → Completes (.cut port bs) s (fun t =>
      t.mem = s.mem ∧ t.c.ad = s.c.ad ∧ t.c.flt = s.c.flt ∧ t.c.fab = s.c.fab ∧ bumped Reg.FLT_CUT_RX_COUNT 1 s t)) ∧
    (comesIn port 9 bs p s.c → first → Completes (.depart port bs) s (fun t => t.mem = s.mem ∧ (noTraffic s.c = true → t.c.ad = s.c.ad) ∧
      rd t.c Reg.FAB_EVENTS_DEPARTED = 1 ∧ ∀ n, n < 4096 → rtFenced t.c n = (rtFenced s.c n || mine n))) ∧
    (comesIn port 9 bs p s.c → ¬ first → Completes (.depart port bs) s (fun t => t.mem = s.mem ∧ t.c.ad = s.c.ad ∧ t.c.fab = s.c.fab ∧
      ∀ n, n < 4096 → rtFenced t.c n = rtFenced s.c n))

/-- R160, R161, R318, R319, R322: an ACK that covers the last packet of a message posts its semaphore; one that covers no last packet releases what it
covers; a NAK has the packet sent again; a REFUSE ends the take of its message in 0x0404; an answer of another generation is dropped. -/
def Obligations.AnswersReachTheSource : Prop :=
  ∀ (s : State) (port : Fin 18) (bs : List Byte) (p : Pkt), s.c.quiet = true → journalOk s.c = true →
    let found := fun (ctx : SrcCtx) => p.gen = moduleGen s.c ∧ s.c.fab.src.find? (isSrc p.src (p.arg % 4)) = some ctx
    let now_ := fun (t : State) (P : SrcCtx → Prop) => ∃ y, t.c.fab.src.find? (isSrc p.src (p.arg % 4)) = some y ∧ P y
    let old := fun (t : State) => bumped Reg.FAB_DROP_GEN_COUNT 1 s t ∧ t.mem = s.mem ∧ t.c.fab = s.c.fab ∧ t.c.ad = s.c.ad
    (∀ ctx x i n m, comesIn port 3 bs p s.c → found ctx → ctx.unacked = [x] → ctx.backlog = [] → x.last = true → x.owner = .tile i n →
      seqLe x.seq p.seq = true → (tileAt s.c i).msgs = [m] → m.id = n → semCount s.c i m.sem < 65535 →
      Completes (.messageComplete port bs) s (fun t => bytesKept s t ∧
        (tileAt t.c i).msgs = [] ∧ semCount t.c i m.sem = semCount s.c i m.sem + 1 ∧ now_ t (fun y => y.unacked = []))) ∧
    (∀ ctx, comesIn port 3 bs p s.c → found ctx → ctx.backlog = [] → (∀ x ∈ ctx.unacked, seqLe x.seq p.seq = true → x.last = false) →
      Completes (.wilefAck port bs) s (fun t => bytesKept s t ∧ (∀ i, tileAt t.c i = tileAt s.c i) ∧
        now_ t (fun y => y.unacked = ctx.unacked.filter (fun x => !seqLe x.seq p.seq)))) ∧
    (∀ ctx x, comesIn port 4 bs p s.c → found ctx → ctx.unacked.find? (fun x => x.seq == p.seq) = some x →
      x.tries < rd s.c Reg.FAB_REORDER_RETRY_LIMIT → Completes (.nak port bs) s (fun t => bytesKept s t ∧
        t.c.out.length = s.c.out.length + 1 ∧ bumped Reg.FAB_RETX_COUNT 1 s t ∧
        now_ t (fun y => ∃ z ∈ y.unacked, z.seq = p.seq ∧ z.tries = x.tries + 1 ∧ z.body = x.body))) ∧
    (∀ i m k x, comesIn port 5 bs p s.c → p.gen = moduleGen s.c → i < 192 → p.msgId / 2 ^ 24 = i →
      (tileAt s.c i).msgs.find? (fun y => y.id == p.msgId % 2 ^ 24) = some m →
      takeOn s.c i = some (k, x) → x.st = .started → Completes (.refuse port bs) s (endedAs k 0x0404 i m.pc m.dst)) ∧
    (p.gen ≠ moduleGen s.c → (comesIn port 3 bs p s.c → Completes (.messageComplete port bs) s old ∧ Completes (.wilefAck port bs) s old) ∧
      (comesIn port 4 bs p s.c → Completes (.nak port bs) s old) ∧ (comesIn port 5 bs p s.c → Completes (.refuse port bs) s old))

/-- R72, R159, R313, R316, R318, R319, R324: where no cue comes first, a notification held for 16 frames goes; the gap timer sends a NAK for the next packet; the ACK timer sends the cumulative ACK; a timeout sends the packet
again; an idle context closes or is freed; a rate is cut where congestion showed, else raised, and is full with CC_EN clear.
Log entries 6, 9 and 58: where the statement rests on these, it is the model's choice. -/
def Obligations.FabricTimersAct : Prop :=
  ∀ (s : State) (entry : Fin 256) (phys : BitVec 12) (cls : Fin 3) (seq : BitVec 32) (thresh : Bool), s.c.quiet = true →
    let src := s.c.fab.src.find? (isSrc phys.toNat cls)
    let dst := s.c.fab.dst.find? (isDst phys.toNat cls)
    let d := phys.toNat
    let rate := Map.getD (fullRate s.c) s.c.fab.rates d
    let cut := thresh || s.c.fab.echoed.contains d
    let rateEnd := match Map.get? s.c.fab.rateAt d with
      | some t => t + usTu (rd s.c Reg.FAB_CC_PERIOD_US)
      | none => 0
    (∀ n, s.c.share.notices[entry.toNat]? = some n → calmTo ((n.frame + 16) * 2 ^ 22) s.c = true →
      Completes (.notificationExpiry entry) s (fun t => t.c.share.notices = s.c.share.notices.eraseIdx entry.toNat ∧ bumped (Reg.TL_NOTIFY_DROPS_COUNT n.tile) 1 s t ∧ t.mem = s.mem)) ∧
    (∀ x at_, dst = some x → x.gapAt = some at_ → calmTo (at_ + usTu (rd s.c Reg.FAB_REORDER_GAP_US)) s.c = true →
      Completes (.gapTimer phys cls) s (fun t => t.mem = s.mem ∧ t.c.fab.src = s.c.fab.src ∧ sentControl 4 d x.expect x.gen cls false s t ∧
        t.c.fab.dst.find? (isDst d cls) = some { x with gapAt := some (now t.c) })) ∧
    (∀ x at_, dst = some x → x.owedAt = some at_ → calmTo (at_ + usTu 2) s.c = true →
      Completes (.ackTimer phys cls) s (fun t => t.mem = s.mem ∧
        sentControl 3 d ((x.expect + 2 ^ 32 - 1) % 2 ^ 32) x.gen cls (x.echo && rdb s.c Reg.FAB_CTRL_CC_EN) s t ∧
        t.c.fab.dst.find? (isDst d cls) = some { x with sinceAck := 0, echo := false, owedAt := none })) ∧
    (∀ x z, src = some x → x.unacked.find? (fun y => y.seq == seq.toNat) = some z → z.tries < rd s.c Reg.FAB_REORDER_RETRY_LIMIT →
      calmTo (z.sentAt + usTu 100) s.c = true → Completes (.retransmitTimeout phys cls seq) s (fun t => bytesKept s t ∧ t.c.out.length = s.c.out.length + (if canSend s.c then 1 else 0) ∧
        bumped Reg.FAB_RETX_COUNT 1 s t ∧
        ∃ y, t.c.fab.src.find? (isSrc d cls) = some y ∧ ∃ w ∈ y.unacked, w.seq = seq.toNat ∧ w.tries = z.tries + 1 ∧ w.body = z.body)) ∧
    (∀ x, src = some x → x.unacked = [] → x.backlog = [] → calmTo (x.at_ + 8 * 2 ^ 22) s.c = true →
      Completes (.contextClose phys cls) s (fun t => t.mem = s.mem ∧ t.c.fab.src = s.c.fab.src.filter (fun y => !isSrc d cls y) ∧
        t.c.fab.dst = s.c.fab.dst ∧ t.c.regs = s.c.regs)) ∧
    (∀ x, dst = some x → x.held = [] → calmTo (x.at_ + 16 * 2 ^ 22) s.c = true →
      Completes (.contextFree phys cls) s (fun t => t.mem = s.mem ∧ t.c.fab.dst = s.c.fab.dst.filter (fun y => !isDst d cls y) ∧
        t.c.fab.src = s.c.fab.src ∧ t.c.regs = s.c.regs)) ∧
    (calmTo rateEnd s.c = true → Completes (.congestionUpdate phys thresh) s (fun t => t.mem = s.mem ∧ t.c.fab.src = s.c.fab.src ∧
      (∀ e, e ≠ d → Map.get? t.c.fab.rates e = Map.get? s.c.fab.rates e) ∧
      Map.get? t.c.fab.rates d = if rdb s.c Reg.FAB_CTRL_CC_EN = false then none
        else if cut then some (Nat.max (10 ^ 9) (rate * (8 - rd s.c Reg.FAB_CC_MD_EIGHTHS) / 8))
        else some (Nat.min (fullRate s.c) (rate + rd s.c Reg.FAB_CC_AI_GBPS * 10 ^ 9))))

/-- R309, R311, R326: a route entry's write completes: one that would move a valid, unfenced entry is refused, else the entry is as written and the hash is no longer
current; a recomputation makes it current; FENCE sets or clears a fence; REMAP gives an entry that is fenced or not valid its ID.
Log entry 15: where the statement rests on it, it is the model's choice. -/
def Obligations.RoutesAreWrittenAndFenced : Prop :=
  ∀ (s : State) (value : BitVec 32) (req : Req) (bs : List Byte), s.c.quiet = true →
    let v := value.toNat
    let sel := rd s.c Reg.FAB_RT_SEL_LOGICAL
    let n := leAt bs 0 2
    let others := fun (k : Nat) (t : State) => t.mem = s.mem ∧ ∀ j, j ≠ k → rtPhys t.c j = rtPhys s.c j ∧ rtValid t.c j = rtValid s.c j ∧
      rtFenced t.c j = rtFenced s.c j
    let fenced := fun (b : Bool) (t : State) => answered 0x34 req 0 [] t ∧ others n t ∧ rtFenced t.c n = b ∧ rtPhys t.c n = rtPhys s.c n ∧
      rtValid t.c n = rtValid s.c n ∧ (rtFenced s.c n ≠ b → rd t.c Reg.FAB_STATUS_RT_HASH_VALID = 0 ∧ (noTraffic s.c = true → ∀ x ∈ t.c.fab.src, x.dst ≠ rtPhys s.c n))
    Completes (.routeTableWrite value) s (fun t => others sel t ∧
      if bits v 0 12 ≠ rtPhys s.c sel ∧ rtValid s.c sel = true ∧ rtFenced s.c sel = false then
        rd t.c Reg.FAB_RT_CMD_STATUS_REFUSED = 1 ∧ regsKept [Reg.FAB_RT_CMD_STATUS_REFUSED.key] s t else
        rtPhys t.c sel = bits v 0 12 ∧ rtValid t.c sel = bit v 12 ∧ rtFenced t.c sel = bit v 13 ∧ rd t.c Reg.FAB_STATUS_RT_HASH_VALID = 0) ∧
    Completes .rtHashRecompute s (fun t => t.mem = s.mem ∧ rd t.c Reg.FAB_STATUS_RT_HASH_VALID = 1 ∧ t.c.sec.m5 = routeHash s.c ∧
      ∀ k, k < 8 → rd t.c (Reg.FAB_RT_HASH_HASH k) = leAt (routeHash s.c) (4 * k) 4) ∧
    (servable 0x34 req s.c = true → bs.length = 3 → n < 4096 → leAt bs 2 1 = 1 → Completes (.fenceSet req bs) s (fenced true)) ∧
    (servable 0x34 req s.c = true → bs.length = 3 → n < 4096 → leAt bs 2 1 = 0 → Completes (.fenceClear req bs) s (fenced false)) ∧
    (servable 0x35 req s.c = true → bs.length = 4 → n < 4096 → leAt bs 2 2 < 4096 → Completes (.remap req bs) s (fun t => others n t ∧
      rtValid t.c n = rtValid s.c n ∧ rtFenced t.c n = rtFenced s.c n ∧
      if rtValid s.c n = true ∧ rtFenced s.c n = false then answered 0x35 req 0x0502 [] t ∧ rtPhys t.c n = rtPhys s.c n else
        answered 0x35 req 0 [] t ∧ rtPhys t.c n = leAt bs 2 2 ∧ rd t.c Reg.FAB_STATUS_RT_HASH_VALID = 0))

/-- R72, R299 to R301, R312, R323: a port that may be brought up comes up at weight 128 with a partner of its domain, else it is down or shows the mismatch; a port that
leaves the up state says so; a port up for 10 s is named in the profile; an F-die that leaves service takes its ports and contexts with it.
Log entries 1, 9 and 10: where the statement rests on these, it is the model's choice. -/
def Obligations.PortsComeUpAndGo : Prop :=
  ∀ (s : State) (port : Fin 18) (failed : Fin 6) (domain : BitVec 3) (ms : BitVec 16) (fdie : Fin 6), s.c.quiet = true →
    let q := port.toNat
    let state := fun (c : Ctl) (p : Nat) => rd c (Reg.FAB_PORT_STATE_STATE p)
    let shown := fun (t : State) => t.mem = s.mem ∧ t.c.ad = s.c.ad ∧ (∀ p, p < 18 → bit (rd t.c Reg.FAB_STATUS_PORTS_UP) p = decide (state t.c p = 3)) ∧
      ∀ p, p < 18 → p ≠ q → state t.c p = state s.c p
    let gone := fun (t : State) => shown t ∧ state t.c q = 0 ∧ (∀ x ∈ t.c.flt.ports10, x ≠ q) ∧ rd t.c (Reg.TC_LINK_IN_SERVICE q) = 0 ∧
      (state s.c q = 3 → rd t.c Reg.FAB_EVENTS_PORT_DOWN = 1)
    Completes (.portBringUp port failed domain ms) s (fun t => if canBringUp q s.c = false then t = s else
      shown t ∧ rd t.c (Reg.FAB_PORT_STATE_TRAIN_MS q) = ms.toNat ∧
      if failed ≠ 0 ∨ bringUpMs < ms.toNat then state t.c q = 0 ∧ bumped (Reg.FAB_PORT_STATE_RETRIES q) 1 s t else
        rd t.c (Reg.FAB_PORT_STATE_PARTNER_DOMAIN q) = domain.toNat ∧
        if domain.toNat = rd s.c Reg.FAB_ID_DOMAIN then state t.c q = 3 ∧ rd t.c (Reg.FAB_PORT_WEIGHT_WEIGHT q) = 128 else
          state t.c q = 4 ∧ rd t.c Reg.FAB_EVENTS_DOMAIN_MISMATCH = 1) ∧
    (∀ at_, Map.get? s.c.fab.portAt q = some at_ → rd s.c (Reg.FAB_PORT_CTRL_ENABLE q) ≠ 0 → state s.c q = 0 → calmTo (at_ + 2 ^ 32) s.c = true →
      Completes (.portRetry port) s (fun t => state t.c q = 1 ∧ t.mem = s.mem ∧ regsKept [(Reg.FAB_PORT_STATE_STATE q).key] s t)) ∧
    Completes (.portDown port) s (fun t => if state s.c q = 0 then t = s else gone t) ∧
    Completes (.portDisable port) s (fun t => rd t.c (Reg.FAB_PORT_CTRL_ENABLE q) = 0 ∧ state t.c q = 0 ∧ (state s.c q ≠ 0 → gone t)) ∧
    (∀ at_, Map.get? s.c.fab.portAt q = some at_ → state s.c q = 3 → q ∉ s.c.flt.ports10 → calmTo (at_ + 10 * 2 ^ 32 + 1) s.c = true →
      Completes (.portUp10S port) s (fun t => t.c.flt.ports10 = q :: s.c.flt.ports10 ∧ t.c.flt.profile = profileBody t.c ∧ t.mem = s.mem)) ∧
    Completes (.fdieOut fdie) s (fun t => if bit (rd s.c Reg.FAB_STATUS_FDIES) fdie = false then t = s else t.mem = s.mem ∧
      (∀ k : Nat, k < 6 → bit (rd t.c Reg.FAB_STATUS_FDIES) k = (bit (rd s.c Reg.FAB_STATUS_FDIES) k && decide (k ≠ fdie.toNat)) ∧
        bit (rd t.c Reg.COL_STATUS_ENGINES) k = (bit (rd s.c Reg.COL_STATUS_ENGINES) k && decide (k ≠ fdie.toNat))) ∧
      rd t.c Reg.FAB_EVENTS_FDIE_OUT = 1 ∧ (∀ p, p < 18 → p / 3 = fdie.toNat → state t.c p = 0) ∧
      (noTraffic s.c = true → t.c.ad = s.c.ad ∧ t.c.fab.src = s.c.fab.src.filter (fun x => ownerOf s.c x.dst != fdie)) ∧ t.c.fab.dst = s.c.fab.dst.filter (fun x => ownerOf s.c x.src != fdie))

/-! ### The collective engines (R334 to R366) -/

/-- R72, R338 to R340: a JOIN for a group that is not known here waits; the last JOIN opens or fails the creation; a creation not joined in time fails in
status 5; the result at a member opens its group or frees its slot.
Log entries 6, 9 and 58: where the statement rests on these, it is the model's choice. -/
def Obligations.CreationsEndInOneResult : Prop :=
  ∀ (s : State) (h : CollSrc) (gid : BitVec 32) (member slot : Nat) (status : Fin 8) (hash : BitVec 64) (at_ : Fin 256) (table : List Byte),
    s.c.quiet = true →
    let j : Join := ⟨gid.toNat, member, slot, status, hash.toNat, frameNow s.c⟩
    let joins := s.c.coll.joins.filter (fun x => !(x.gid == gid.toNat && x.from_ == member)) ++ [j]
    let ours := joins.filter (fun x => x.gid == gid.toNat)
    let waits := fun (k v : Nat) (g : Group) (t : State) => Map.get? (tileAt t.c g.creator).colWait k = some v
    let result := fun (k v : Nat) (slots : List Nat) (g : Group) (t : State) => waits k v g t ∧ if v = 0 then groupAt t.c k = { g with state := 2, slots := slots } else
      groupAt t.c k = Group.free ∧ rd t.c Reg.COL_EVENTS_CREATE_FAILED = 1
    let unheld := fun (t : State) => t.mem = s.mem ∧ ∀ x ∈ t.c.coll.joins, x.gid ≠ gid.toNat
    let limit := rd s.c Reg.COL_CREATE_TIMEOUT_FRAMES
    ((accepts h.src h.slice s.c).1 = true → rootAt s.c gid.toNat = none → (strangers s.c).length < 64 →
      Completes (.join h gid member slot status hash) s (fun t => t.mem = s.mem ∧ t.c.coll = { s.c.coll with joins := joins })) ∧
    (∀ k g, (accepts h.src h.slice s.c).1 = true → rootAt s.c gid.toNat = some (k, g) → groupAt s.c k = g → g.state = 1 → g.index = 0 →
      (ours.length < g.members.length → Completes (.join h gid member slot status hash) s (fun t => t.mem = s.mem ∧
        t.c.coll = { s.c.coll with joins := joins })) ∧
      (g.members.length ≤ ours.length → Completes (.join h gid member slot status hash) s (fun t => unheld t ∧
        result k (createStatus ours 0) ((List.range g.members.length).map (fun m => ((ours.find? (fun x => x.from_ == m)).map (fun x => x.slot)).getD 0)) g t))) ∧
    (∀ k g x, rootAt s.c gid.toNat = some (k, g) → groupAt s.c k = g → g.state = 1 → s.c.coll.joins.find? (fun y => y.gid == gid.toNat) = some x →
      calmTo ((x.frame + limit) * 2 ^ 22) s.c = true → (s.c.coll.joins.filter (fun x => x.gid == gid.toNat)).length < g.members.length →
      Completes (.joinTimeout gid) s (fun t => unheld t ∧ result k 5 [] g t)) ∧
    (∀ x, rootAt s.c gid.toNat = none → s.c.coll.joins.find? (fun y => y.gid == gid.toNat) = some x → calmTo ((x.frame + limit) * 2 ^ 22) s.c = true →
      Completes (.joinTimeout gid) s (fun t => t.mem = s.mem ∧ t.c.coll = { s.c.coll with
        joins := s.c.coll.joins.filter (fun y => y.gid != gid.toNat || decide (frameNow t.c < y.frame + limit)) })) ∧
    ((accepts h.src h.slice s.c).1 = true → (groupAt s.c at_).gid = gid.toNat → (groupAt s.c at_).state = 1 →
      Completes (.createResult h at_ gid status table) s (fun t => t.mem = s.mem ∧ result at_ status (table.map (fun b => b.toNat)) (groupAt s.c at_) t))

/-- R336, R346, R351 to R353, R361, R364: at an open group a SIG and data that come early are held; a SIG that disagrees ends the take in 0x0501; DONE
completes a member's reduce; FAIL breaks the group; a released clapper completes with its time; a pool with groups in it is not changed.
Log entries 8 and 58: where the statement rests on these, it is the model's choice. -/
def Obligations.CollectivePacketsAct : Prop :=
  ∀ (s : State) (h : CollSrc) (slot : Fin 256) (gid : BitVec 32) (seq sig : BitVec 64) (reason detail : BitVec 16) (by_ m unit : Nat) (val : List Byte)
    (size : Bool) (value : BitVec 32),
    s.c.quiet = true → journalOk s.c = true →
    let g := groupAt s.c slot
    let n := seq.toNat
    let arrives := (accepts h.src h.slice s.c).1 = true ∧ g.state = 2 ∧ g.gid = gid.toNat ∧
      (s.c.fab.dst.any (fun x => x.src == h.src && genOlder h.gen x.gen)) = false ∧
      findFrom (fun k => decide (k < 4096) && rtPhys s.c k == h.src) g.members 0 = some m
    let one := fun (op : CollOp) => g.ops = [op] ∧ op.seq = n ∧ op.begun = true ∧ g.inbox = []
    let field := if size then Reg.COL_POOL_SIZE_MIB else Reg.COL_POOL_BASE_MIB
    let finished := fun (op : CollOp) (t : State) => (groupAt t.c slot).ops = [] ∧ (groupAt t.c slot).lastDone = op.seq ∧ t.mem = s.mem ∧
      bumped (Reg.COL_GROUP_OPS_COUNT slot) 1 s t ∧
      Map.get? (tileAt t.c op.tile).colWait slot = some (match op.release with | some r => r | none => op.seq * 256)
    (arrives → g.ops = [] →
      Completes (.sig h slot gid seq sig) s (fun t => t.mem = s.mem ∧ groupAt t.c slot = { g with sigs := g.sigs ++ [(m, n, sig.toNat)] }) ∧
      (val ≠ [] → Completes (.coll h slot gid seq (.part unit val)) s (fun t => t.mem = s.mem ∧
        groupAt t.c slot = { g with inbox := g.inbox ++ [⟨m, n, 0, unit, val⟩] })) ∧
      Completes (.fail h slot gid seq reason by_ detail) s (fun t => t.mem = s.mem ∧ rd t.c Reg.COL_EVENTS_GROUP_BROKEN = 1 ∧
        groupAt t.c slot = { g with state := 3, inbox := [], failCode := reason.toNat, failMember := by_ })) ∧
    (∀ op x, arrives → one op → op.fn ≠ 8 → sig.toNat ≠ op.sig → takeAt s.c op.take = some x → x.st = .started →
      Completes (.sig h slot gid seq sig) s (endedAs op.take 0x0501 op.tile g.gid n)) ∧
    (∀ op x, arrives → g.ops = [op] → takeAt s.c op.take = some x → x.st = .started →
      let nga := failNg g reason.toNat by_ n detail.toNat
      Completes (.fail h slot gid seq reason by_ detail) s (endedAs op.take nga.1 op.tile nga.2.1 nga.2.2)) ∧
    (∀ op, arrives → one op → op.fn = 6 → g.index ≠ op.root → sigBad g op = false →
      Completes (.done h slot gid seq) s (fun t => if ringOk g op then finished op t else
        t.mem = s.mem ∧ groupAt t.c slot = { g with ops := [{ op with done := true }] })) ∧
    let freed := fun (n r : Nat) => armed s.c n && actionOf s.c n == 2 && rd s.c (Reg.TC_CUE_ARG n) == slot.toNat && dueAt s.c n == r
    (∀ op r, g.ops = [op] → op.begun = true → op.fn = 8 → op.done = false → g.inbox = [] → op.release = some r → r < 2 ^ 64 → ringOk g op = true →
      sigBad g op = false → (∃ k, (List.range 32).find? (fun k => armed s.c k && actionOf s.c k == 2 && rd s.c (Reg.TC_CUE_ARG k) == slot.toNat) = some k ∧
        freed k r = true ∧ nextCue s.c r = some (r, .chan k)) →
      Completes (.releaseClapper true slot.toNat) s (finished op)) ∧
    Completes (.poolChange size value) s (fun t => t.mem = s.mem ∧ if s.c.coll.groups.any (fun e => e.2.state != 0) then
      rd t.c Reg.COL_EVENTS_POOL_REFUSED = 1 ∧ regsKept [Reg.COL_EVENTS_POOL_REFUSED.key] s t else
      rd t.c field = value.toNat % 2 ^ field.len ∧ regsKept [field.key] s t)

/-- R72, R152: at its release, the next cue that is due, the clapper of a root take is gone and its participants issue again, where nothing else is left to run; time has come to the release.
Log entry 6: where the statement rests on it, it is the model's choice. -/
def Obligations.ClapperReleaseLetsIssueGoOn : Prop :=
  ∀ (s : State) (root id r : Nat), Map.get? s.c.share.clappers root = some (id, some r) → r < 2 ^ 64 → nextCue s.c r = some (r, .release root) →
    let ps := participants s.c root
    (onCtl (fun c => { advanceTo r c with share := { c.share with clappers := Map.del c.share.clappers root } }) s |> fun u =>
      (ps.foldl (fun v i => onTile i (fun x => { x with clap := none, arrived := false }) v) u).c.quiet) = true →
    Completes (.releaseClapper false root) s (fun t => now t.c = Nat.max (now s.c) r ∧ t.mem = s.mem ∧ Map.get? t.c.share.clappers root = none ∧
      ∀ i, (tileAt t.c i).clap = (if i ∈ ps then none else (tileAt s.c i).clap) ∧ (tileAt t.c i).pc = (tileAt s.c i).pc)

/-! ### Control space (R10 to R14, R52, R505, R516, R574) -/

/-- R11, R14, R574: a write with an epoch that is not current changes nothing and is counted; one to no register is counted; in every window whose
registers only hold what is written, each field at the address takes its bits as its access code and its range say.
Log entry 54: where the statement rests on it, it is the model's choice. -/
def Obligations.RegisterWritesFollowTheirFields : Prop :=
  ∀ (s : State) (epoch : BitVec 16) (addr : BitVec 48) (value : BitVec 32),
    let a := addr.toNat
    let current := epoch.toNat = rd s.c Reg.MGT_STATUS_EPOCH
    let bitsFor := fun (f : Fld) => bits value.toNat (f.key % 32) f.len
    let holds := match locate a with
      | .block b off => b == 2 || b == 12 || b == 14 || (b == 0 && off != 0xC && off != 0x1C && decide (off < 0x2000)) || (b == 1 && decide (off < 0x104))
      | .tile _ off => !([0x40, 0x1014, 0x8600, 0x837C].contains off)
      | .nowhere => false
    (¬ current → Completes (.registerWrite epoch addr value) s (fun t => bumped Reg.MGT_STALE_WRITES_COUNT 1 s t ∧
      regsKept [Reg.MGT_STALE_WRITES_COUNT.key] s t ∧ t.mem = s.mem ∧ t.c.out = s.c.out)) ∧
    (current → fieldsAt s.c a = [] → Completes (.registerWrite epoch addr value) s (fun t => bumped (unmappedFld a) 1 s t ∧
      regsKept [(unmappedFld a).key] s t ∧ t.mem = s.mem ∧ t.c.out = s.c.out)) ∧
    (current → holds = true → fieldsAt s.c a ≠ [] → Completes (.registerWrite epoch addr value) s (fun t =>
      t.mem = s.mem ∧ t.c.out = s.c.out ∧ regsKept ((fieldsAt s.c a).map (·.key)) s t ∧ ∀ f ∈ fieldsAt s.c a, rd t.c f = match f.acc with
        | .rw => clampVal f.clamp (bitsFor f) % 2 ^ f.len
        | .w1c => if bitsFor f = 0 then rd s.c f else 0
        | _ => rd s.c f))

/-- R13, R52, R505, R516: a read returns the word its fields spell and clears those that clear on read; a LO latches the word of its HI, and that HI
then returns it once; TC_NOW_LO reads bits [31:0] of the timecode and latches bits [63:32]; a PEAK is cleared by its read; an access to no register reads zero and is counted.
Log entry 54: where the statement rests on it, it is the model's choice. -/
def Obligations.ReadsLatchAndClear : Prop :=
  ∀ (s : State) (addr : BitVec 48) (port : Fin 179),
    let a := addr.toNat
    let said := fun (v : Nat) (t : State) => t.c.out = .word v :: s.c.out ∧ t.mem = s.mem
    let missed := fun (t : State) => t.mem = s.mem ∧ bumped (unmappedFld a) 1 s t ∧ regsKept [(unmappedFld a).key] s t
    let peak := fun (b : Bool) => if b then Reg.CNT_PORT_PEAK_IN port.toNat else Reg.CNT_PORT_PEAK_OUT port.toNat
    (fieldsAt s.c a = [] → Completes (.unmappedAccess addr true) s (fun t => missed t ∧ t.c.out = s.c.out) ∧
      Completes (.unmappedAccess addr false) s (fun t => missed t ∧ said 0 t) ∧ Completes (.latchingRead addr) s (fun t => missed t ∧ said 0 t)) ∧
    (fieldsAt s.c a ≠ [] → ∀ w, Completes (.unmappedAccess addr w) s (fun t => t = s)) ∧
    (fieldsAt s.c a ≠ [] → Map.get? s.c.latched a = none → Completes (.latchingRead addr) s (fun t => said (peek s.c a) t ∧
      (∀ h, latchOf s.c a = some h → Map.get? t.c.latched h = some (peek s.c h)) ∧ (latchOf s.c a = none → t.c.latched = s.c.latched) ∧
      regsKept (((fieldsAt s.c a).filter (fun f => f.acc == .rc)).map (·.key)) s t ∧ ∀ f ∈ fieldsAt s.c a, f.acc = .rc → rd t.c f = 0)) ∧
    (∀ v, fieldsAt s.c a ≠ [] → Map.get? s.c.latched a = some v → Completes (.latchingRead addr) s (fun t => said v t ∧
      t.c.regs = s.c.regs ∧ Map.get? t.c.latched a = none)) ∧
    (a = 0x0F0000000000 → Map.get? s.c.latched a = none → Completes (.latchingRead addr) s (fun t => said (now s.c % 2 ^ 32) t ∧
      Map.get? t.c.latched 0x0F0000000004 = some (now s.c / 2 ^ 32))) ∧
    ∀ inward, Map.get? s.c.latched (0xF0006004000 + 32 * port.toNat + if inward then 0x10 else 0xC) = none →
      Completes (.peakRead port inward) s (fun t => said (rd s.c (peak inward)) t ∧ rd t.c (peak inward) = 0 ∧ regsKept [(peak inward).key] s t ∧
        t.c.latched = s.c.latched)

/-! ### Time (R49 to R67) -/

/-- R54 to R67, R72, R377: where no cue comes first, a reference in range is qualified and one out of range is lost; the PLL gives phase-locked; the third good pulse measures the phase and
zeroes the fraction on entry; the hold of an input runs out to the highest state left; the best master is followed; a Sync, an exchange on a link and a message
of the grid are taken in; a wrong seconds label costs facility lock; a step waits for its frame boundary and then moves the timecode.
Log entries 1, 6, 10 and 56: where the statement rests on these, it is the model's choice. -/
def Obligations.TimeInputsAreQualified : Prop :=
  ∀ (s : State) (hz : BitVec 32) (sp : BitVec 40) (x : TimeInput) (a : Announce) (t1 t2 t3 t4 : DWord) (dm : Byte) (who : Nat) (port : Fin 18) (pv : Bool)
    (req : Req) (bs : List Byte), s.c.quiet = true →
    let c := s.c
    let q := port.toNat
    let done := fun (t : State) => t.mem = s.mem ∧ t.c.ad = c.ad
    let noneArmed := ∀ n, n < 64 → armed c n = false
    let pulse := rd c Reg.TC_CTRL_PULSE_EN ≠ 0
    let seen := c.time.pulseSeen = true
    let goodSp := 999999900 ≤ sp.toNat ∧ sp.toNat ≤ 1000000100
    let edge := fun P => Completes (.tbPulseEdge sp) s (fun t => done t ∧ P t)
    let alone := fun (n : Nat) (t : State) => t.c.time = { c.time with pulseRun := n }
    let kept := fun (n : Nat) (t : State) => alone n t ∧ regsKeptButCounts [] s t
    let frames := fun (k : Nat) => takeFrames false .ptp 0 k c
    let others := c.time.heard.filter (fun x => x.sender != a.sender)
    let off : Int := (t1.toNat : Int) + c.time.pathDelay - (t2.toNat : Int)
    let label := (off + 2147483648) / 4294967296
    let there : Int := (t2.toNat : Int) - t1.toNat - signedOf c (Reg.TC_LINK_ASYM q)
    let back : Int := (t4.toNat : Int) - t3.toNat
    let newer := ((List.range (leAt bs 0 2)).map (fun k => leAt bs (8 + 8 * k) 8)).filter (fun x => decide (x > c.time.crossings.headD 0))
    Completes (.tbRefQualify hz) s (fun t => done t ∧ lockOf t.c = lockOf c ∧
      if rdb c Reg.TC_CTRL_REF_EN = true ∧ 9999800 ≤ hz.toNat ∧ hz.toNat ≤ 10000200 then rd t.c Reg.TC_STATE_REF_OK = 1 ∧ .ref ∉ t.c.time.lost
      else rd t.c Reg.TC_STATE_REF_OK = 0 ∧ if rdb c Reg.TC_STATE_REF_OK then rd t.c Reg.TC_EVENTS_REF_RANGE = 1 else t = s) ∧
    Completes .tbRefLost s (fun t => done t ∧ lockOf t.c = lockOf c ∧ rd t.c Reg.TC_STATE_REF_OK = 0 ∧
      if rdb c Reg.TC_STATE_REF_OK then rd t.c Reg.TC_EVENTS_REF_RANGE = 1 ∧ (1 ≤ lockOf c → .ref ∈ t.c.time.lost) else t = s) ∧
    Completes .timecodePllLock s (fun t => if rdb c Reg.TC_STATE_REF_OK then done t ∧ t.c.time.pllLocked = true ∧
      lockOf t.c = (if lockOf c = 0 then 1 else lockOf c) else t = s) ∧
    (¬ pulse → edge (kept c.time.pulseRun)) ∧
    (pulse → ¬ seen → edge (fun t => t.c.time = { c.time with pulseRun := 1, pulseSeen := true } ∧ regsKeptButCounts [] s t)) ∧
    (pulse → seen → ¬ goodSp → edge (fun t => rd t.c Reg.TC_EVENTS_PULSE_SPACING = 1 ∧ rd t.c Reg.TC_STATE_PULSE_OK = 0 ∧
      t.c.time.pulseRun = 1)) ∧
    (pulse → seen → c.time.pulseRun < 2 → goodSp → edge (kept (c.time.pulseRun + 1))) ∧
    (pulse → seen → 1 < c.time.pulseRun → goodSp → ¬ (lockOf c = 1 ∧ c.time.pllLocked = true) → edge (fun t => rd t.c Reg.TC_STATE_PULSE_OK = 1 ∧
      rd t.c Reg.TC_PULSE_OFFSET_OFFSET = offsetReg (pulsePhase c) % 2 ^ 32 ∧ .pulse ∉ t.c.time.lost ∧ now t.c = now c ∧ lockOf t.c = lockOf c)) ∧
    (pulse → seen → 1 < c.time.pulseRun → goodSp → lockOf c = 1 → c.time.pllLocked = true → noneArmed → calmTo (now c) c = true → edge (fun t => rd t.c Reg.TC_STATE_PULSE_OK = 1 ∧
      rd t.c Reg.TC_PULSE_OFFSET_OFFSET = 0 ∧ now t.c = now c / 2 ^ 32 * 2 ^ 32 ∧ lockOf t.c = 2 ∧
      rd t.c Reg.TC_EVENTS_STEPPED = 1)) ∧
    Completes .tbPulseLost s (fun t => done t ∧ t.c.time.pulseRun = 0 ∧ rd t.c Reg.TC_STATE_PULSE_OK = 0 ∧ lockOf t.c = lockOf c ∧
      if rdb c Reg.TC_STATE_PULSE_OK then (2 ≤ lockOf c → .pulse ∈ t.c.time.lost) else kept 0 t) ∧
    (heldInput c x = false ∨ fallTo c x = none → Completes (.holdoverExpiry x) s (fun t => t = s)) ∧
    (∀ n, heldInput c x = true → fallTo c x = some n → holdEnd c x < 2 ^ 64 → calmTo (holdEnd c x) c = true →
      Completes (.holdoverExpiry x) s (fun t => done t ∧ now t.c = Nat.max (now c) (holdEnd c x) ∧ (x = .ptp → rd t.c Reg.TC_STATE_PTP_OK = 0) ∧
        lockOf t.c = Nat.min (lockOf c) n ∧ (n < lockOf c → rd t.c Reg.TC_EVENTS_STATE_DROP = 1))) ∧
    ((frames 1).1 = false → Completes (.announce a) s (fun t => t = { s with c := (frames 1).2 }) ∧
      Completes (.delayResponse t4) s (fun t => t = { s with c := (frames 1).2 })) ∧
    ((frames 1).1 = true → Completes (.announce a) s (fun t => if ptpDomainOk c a.domain then done t ∧
        t.c.time.heard = (if a.ptpTimescale then a :: others else others) ∧ t.c.time.master = bestMaster t.c.time.heard ∧
        (c.time.master ≠ none → t.c.time.master = none → 3 ≤ lockOf c → .ptp ∈ t.c.time.lost) else t = { s with c := (frames 1).2 })) ∧
    Completes .announceTimeout s (fun t => match c.time.master with
      | none => t = s
      | some m => done t ∧ t.c.time.heard = c.time.heard.filter (fun x => x.sender != m.sender) ∧ t.c.time.master = bestMaster t.c.time.heard ∧
        (t.c.time.master = none → 3 ≤ lockOf c → .ptp ∈ t.c.time.lost)) ∧
    (c.time.master = none → Completes .delayReq s (fun t => t = s)) ∧
    (∀ m, c.time.master = some m → rdb c Reg.TC_CTRL_PTP_EN = true → txOpen (rd c Reg.ETH_PRIO_PTP_PRIO) .ptp c = true → (∀ d, c.time.delayAt = some d → d + 2 ^ 28 ≤ now c) → Completes .delayReq s (fun t =>
      done t ∧ t.c.out = .eth 1 m.sender 319 (leBytes 8 (now c)) :: c.out ∧ t.c.time.delayT3 = some (now c) ∧ t.c.time.delayAt = some (now c))) ∧
    (∀ d, c.time.delayAt = some d → now c < d + 2 ^ 28 → Completes .delayReq s (fun t => t = s)) ∧
    ((frames 1).1 = true → c.time.delayT3 = none → Completes (.delayResponse t4) s (fun t => t = { s with c := (frames 1).2 })) ∧
    (∀ d, (frames 1).1 = true → c.time.delayT3 = some d → c.time.syncT1 ≠ 0 → Completes (.delayResponse t4) s (fun t => done t ∧
      t.c.regs = (frames 1).2.regs ∧ t.c.time = { c.time with
      delayT3 := none, pathDelay := (((c.time.syncT2 : Int) - c.time.syncT1) + ((t4.toNat : Int) - d)) / 2 })) ∧
    Completes (.ptpSync dm who t1 t2) s (fun t =>
      if (frames 2).1 = true ∧ ptpDomainOk c dm = true ∧ c.time.master.map (fun a => a.sender) = some who then done t ∧ rd t.c Reg.TC_STATE_PTP_OK = 1 ∧
        rd t.c Reg.TC_PTP_OFFSET_OFFSET = offsetReg off % 2 ^ 32 ∧ t.c.time.labelDelta = label ∧
        t.c.time.ptpOffsets = ((off - label * 4294967296) :: c.time.ptpOffsets).take 16 ∧
        (3 ≤ lockOf c → label ≠ 0 → lockOf t.c = 2 ∧ rd t.c Reg.TC_EVENTS_LABEL_CONFLICT = 1) ∧ (3 ≤ lockOf c → label = 0 → lockOf t.c = lockOf c) ∧
        (lockOf c = 2 → label = 0 → lockOf t.c = if ptpAgrees t.c then (if rdb c Reg.TC_CTRL_DOMAIN_ROOT && rdb c Reg.TC_STATE_LINKS then 4 else 3) else 2) ∧
        (lockOf c < 2 → lockOf t.c = lockOf c)
      else t = { s with c := (frames 2).2 }) ∧
    (rdb c Reg.TC_CTRL_WILEF_EN = false → Completes (.timeExchange port t1 t2 t3 t4 pv) s (fun t => t = s)) ∧
    (rdb c Reg.TC_CTRL_WILEF_EN = true → Completes (.timeExchange port t1 t2 t3 t4 pv) s (fun t => done t ∧
      t.c.out = .time q t1.toNat (rdb c Reg.TC_CTRL_DOMAIN_ROOT) :: c.out ∧ rd t.c (Reg.TC_LINK_PARTNER_VALID q) = b2n pv ∧
      rd t.c Reg.TC_STATE_LINKS = (timeLinks t.c).length ∧ (∀ p, p < 18 → p ≠ q → rd t.c (Reg.TC_LINK_IN_SERVICE p) = rd c (Reg.TC_LINK_IN_SERVICE p)) ∧
      if t4.toNat < t1.toNat ∨ t3.toNat < t2.toNat then rd t.c (Reg.TC_LINK_RUN q) = 0 ∧ rd t.c (Reg.TC_LINK_IN_SERVICE q) = 0 else
        rd t.c (Reg.TC_LINK_OFFSET q) = offsetReg ((there - back) / 2) % 2 ^ 32 ∧ rd t.c (Reg.TC_LINK_DELAY q) = offsetReg ((there + back) / 2) % 2 ^ 32 ∧
        bumped (Reg.TC_LINK_RUN q) 1 s t ∧
        rd t.c (Reg.TC_LINK_IN_SERVICE q) = b2n (pv && decide (4 ≤ rd t.c (Reg.TC_LINK_RUN q))))) ∧
    (servable 0x24 req c = true → 1 ≤ leAt bs 0 2 → leAt bs 0 2 ≤ 16 → bs.length = 8 + 8 * leAt bs 0 2 → zerosAt bs 2 6 = true →
      Completes (.gridPhase req bs) s (fun t => done t ∧ answered 0x24 req 0 [] t ∧
        t.c.time.crossings.length = Nat.min 9 (newer.length + c.time.crossings.length) ∧
        (newer ≠ [] → t.c.time.crossings.headD 0 = maxNat newer ∧ rd64 t.c Reg.TC_GRID_LAST_LO_VALUE Reg.TC_GRID_LAST_HI_VALUE = maxNat newer) ∧
        rd t.c Reg.TC_STATE_GRID_OK = b2n (gridValid t.c))) ∧
    (c.time.crossings = [] → Completes .gridStale s (fun t => t = s)) ∧
    (∀ y l, c.time.crossings = y :: l → y + 2 ^ 32 < 2 ^ 64 → calmTo (y + 2 ^ 32) c = true → Completes .gridStale s (fun t =>
      done t ∧ now t.c = Nat.max (now c) (y + 2 ^ 32) ∧ rd t.c Reg.TC_STATE_GRID_OK = 0 ∧ (rdb c Reg.TC_STATE_GRID_OK = true → rd t.c Reg.TC_EVENTS_GRID_STALE = 1))) ∧
    Completes .tcStep s (fun t => done t ∧ if c.time.facilitySeen = true ∧ deadlineOpen c = true then rd t.c Reg.TC_STEP_REFUSED = 1 ∧ t.c.time = c.time ∧
        regsKept [Reg.TC_STEP_REFUSED.key] s t
      else rd t.c Reg.TC_STEP_PENDING = 1 ∧ t.c.time = { c.time with step := some true } ∧ regsKept [Reg.TC_STEP_PENDING.key] s t) ∧
    (c.time.step = none → Completes .tcStepApply s (fun t => t = s)) ∧
    ∀ crew, c.time.step = some crew → noneArmed → nextFrame c < 2 ^ 64 →
      let moved := ofInt 64 ((nextFrame c : Int) + if crew then stepDelta c else c.time.labelDelta * 4294967296)
      calmTo (nextFrame c) c = true → (nextCue c moved).isNone = true → Completes .tcStepApply s (fun t => done t ∧ t.c.time.step = none ∧ now t.c = moved ∧
      rd t.c Reg.TC_STEP_PENDING = 0 ∧ rd t.c Reg.TC_EVENTS_STEPPED = 1)

/-- Where no cue comes first: R51, R66, R69 to R79, R118, R310, R314, R410, R430, R505, R510, R512: the frame boundary; a write of a channel, which is kept, refused or armed; a clock
switch, a ramp step and a sample at their cue; the end of a port's window.
Log entries 1, 6, 25, 26 and 56: where the statement rests on these, it is the model's choice. -/
def Obligations.CuesAndFramesAct : Prop :=
  ∀ (s : State) (chan : Fin 64) (reg : Fin 5) (value : BitVec 32) (port : Fin 179) (out inw : BitVec 32), s.c.quiet = true →
    let c := s.c
    let n := chan.toNat
    let p := port.toNat
    let v := value.toNat
    let done := fun (t : State) => t.mem = s.mem ∧ t.c.tiles = c.tiles
    let fires := fun (a : Nat) => armed c n = true ∧ actionOf c n = a
    let flag := fun (f : Nat → Fld) (b : Nat) (t : State) => rd t.c (f n) = if bit v b then 0 else rd c (f n)
    let wrote := fun (P : State → Prop) => Completes (.cueChannelWrite chan reg value) s (fun t => done t ∧ P t)
    let set := fun (t : State) => rd t.c (Reg.TC_CUE_CTRL_ACTION n) = bits v 8 4 ∧ rd t.c (Reg.TC_CUE_CTRL_PERIOD_LOG2 n) = bits v 12 6
    let arming := reg = 2 ∧ armed c n = false ∧ bit v 0 = true
    let okArm := armRefused n (bits v 8 4) (bits v 12 6) = false ∧ bit v 3 = false
    let own := fun (k : Nat) => dueAt c k < 2 ^ 64 ∧ nextCue c (dueAt c k) = some (dueAt c k, .chan k)
    let steps := armed c 32 = true ∧ actionOf c 32 = 5
    let windowTo := ceilDiv ((microsOf (now c) / 2 ^ windowK c p + 1) * 2 ^ windowK c p * 2 ^ 32) 1000000
    let mono := (advanceTo (dueAt c 32) c).time.mono
    let soon := ∃ x, c.gaf.stepAt = some x ∧ mono < x + 2 ^ 21
    let e := 128 * rd c Reg.GAF_LEVEL_E
    let want := Nat.min e (if rdb c Reg.GAF_STATUS_PRESSED then e else Nat.max (holdFloor c) (128 * c.gaf.peak))
    let ends := stepLevel c.gaf.t128 (125 * rd c Reg.GAF_SLOPE_UP) (125 * rd c Reg.GAF_SLOPE_DN) want (rd c Reg.GAF_LEVEL2_Q)
    let peak := fun (f f' : Nat → Fld) (x : BitVec 32) (t : State) => rd t.c (f p) = Nat.max (rd c (f p)) x.toNat ∧
      rd t.c (f' p) = if rd c (f p) < x.toNat then microsOf (now c) / 2 ^ windowK c p % 2 ^ 32 else rd c (f' p)
    (c.time.step = none → (∀ k, k < 64 → armed c k = true → rd c (Reg.TC_CUE_CTRL_PHASE_MODE k) = 0) → (∀ x ∈ c.ad.takes, x.2.holdFrame = none) → (∀ d, d < 12 → domainRuns c (rd c Reg.PWR_STATUS_MODE) d = true) → nextFrame c < 2 ^ 64 →
      calmTo (nextFrame c) c = true → Completes .framePulse s (fun t => done t ∧ t.c.ad = c.ad ∧ now t.c = nextFrame c ∧
        (∀ k, k < 128 → Map.getD 0 t.c.fab.allow k = rd c (Reg.FAB_ALLOW_ALLOW k)) ∧
        (rdb c Reg.FAB_CTRL_SPRAY_ADAPT = false → ∀ q ∈ portsUp c, rd t.c (Reg.FAB_PORT_WEIGHT_WEIGHT q) = 128) ∧
        t.c.gaf.eIn = c.gaf.eIn + c.gaf.frameIn ∧ t.c.gaf.frameIn = 0 ∧ (lockOf c = 0 → rd t.c Reg.TC_ERR_EST_ERR = 0xFFFFFFFF) ∧
        (takePeers c = [] → t.c.out = c.out))) ∧
    (reg ≠ 2 → armed c n = true → wrote (fun t => t = s)) ∧
    (reg ≠ 2 → armed c n = false →
      let f := if reg = 0 then Reg.TC_CUE_TIME_LO n else if reg = 1 then Reg.TC_CUE_TIME_HI n else if reg = 3 then Reg.TC_CUE_ARG n else Reg.TC_CUE_PHASE n
      wrote (fun t => rd t.c f = v % 2 ^ f.len ∧ regsKept [f.key] s t ∧ t.c.time = c.time)) ∧
    (reg = 2 → armed c n = true → wrote (fun t => armed t.c n = bit v 0 ∧ flag Reg.TC_CUE_CTRL_FIRED 1 t ∧ flag Reg.TC_CUE_CTRL_LATE 2 t ∧
      flag Reg.TC_CUE_CTRL_GRID_MISS 4 t ∧ regsKept [(Reg.TC_CUE_CTRL_ARM n).key, (Reg.TC_CUE_CTRL_FIRED n).key, (Reg.TC_CUE_CTRL_LATE n).key,
        (Reg.TC_CUE_CTRL_GRID_MISS n).key] s t)) ∧
    (reg = 2 → armed c n = false → bit v 0 = false → wrote (fun t => set t ∧ armed t.c n = false ∧ now t.c = now c)) ∧
    (arming → armRefused n (bits v 8 4) (bits v 12 6) = true → wrote (fun t => t = s)) ∧
    (arming → okArm → now c ≤ chanTime c n → wrote (fun t => set t ∧ armed t.c n = true ∧ dueAt t.c n = chanTime c n ∧ now t.c = now c)) ∧
    (arming → okArm → chanTime c n < now c → bits v 8 4 = 6 → wrote (fun t => rd t.c (Reg.TC_CUE_CTRL_FIRED n) = 1 ∧
      rd t.c (Reg.TC_CUE_CTRL_LATE n) = 1 ∧ bumped Reg.TC_EVENTS_LATE_CUES 1 s t ∧ armed t.c n = decide (bits v 12 6 ≠ 0) ∧ now t.c = now c)) ∧
    (¬ fires 3 → Completes (.switchClockSource chan) s (fun t => t = s)) ∧
    (∀ x, fires 3 → own n → 40 ≤ n → n ≤ 43 → c.clk.switches.find? (fun y => y.chan == n) = some x → Completes (.switchClockSource chan) s (fun t => done t ∧
      rd t.c (Reg.TC_CUE_CTRL_FIRED n) = 1 ∧ t.c.clk.switches.find? (fun y => y.chan == n) = none ∧
      if sourceLocked c x.dom x.source then rd t.c (Reg.CLK_DOM_CTRL_SOURCE x.dom) = x.source % 2 ^ (Reg.CLK_DOM_CTRL_SOURCE x.dom).len ∧
        rd t.c (Reg.CLK_DOM_FREQ_MHZ x.dom) = Map.getD 0 c.clk.plls (4 * x.dom + x.source) % 2 ^ (Reg.CLK_DOM_FREQ_MHZ x.dom).len ∧
        rd t.c Reg.CLK_EVENTS_SWITCH_DONE = 1
      else ∀ d, rd t.c (Reg.CLK_DOM_CTRL_SOURCE d) = rd c (Reg.CLK_DOM_CTRL_SOURCE d))) ∧
    (¬ steps → Completes .rampStep s (fun t => t = s)) ∧
    (steps → own 32 → soon → Completes .rampStep s (fun t => done t ∧ bumped Reg.GAF_STEP_SKIPS_COUNT 1 s t ∧ t.c.gaf = c.gaf)) ∧
    (steps → own 32 → ¬ soon → c.gaf.allocDue = none → c.gaf.shutdown = false → Completes .rampStep s (fun t => done t ∧ t.c.ad = c.ad ∧
      t.c.gaf.t128 = ends ∧ rd t.c Reg.GAF_LEVEL_T = ends / 128 % 2 ^ 16 ∧ rd t.c Reg.GAF_LEVEL2_H = holdFloor c / 128 % 2 ^ 16 ∧
      rd t.c Reg.GAF_STATUS_PRESSED = 0 ∧ t.c.gaf.peak = 0 ∧ t.c.gaf.stepAt = some mono ∧ t.c.gaf.lag = decide (e < ends))) ∧
    (¬ fires 6 → Completes (.sampleCounters chan) s (fun t => t = s)) ∧
    (fires 6 → own n → Completes (.sampleCounters chan) s (fun t => done t ∧ rd t.c (Reg.TC_CUE_CTRL_FIRED n) = 1 ∧
      (bit (rd c (Reg.TC_CUE_ARG n)) 1 = true → ∀ k, k < 1024 → rd t.c (Reg.CNT_SAMPLE_VALUE k) = rd t.c (Reg.CNT_COUNT k) % 2 ^ 32) ∧
      (bit (rd c (Reg.TC_CUE_ARG n)) 0 = true → ∀ i, i < 192 → if (tileAt c i).inReset then rd t.c (Reg.TL_CNT_SAMPLE_SEQ_STALE i) = 1 else
        rd t.c (Reg.TL_CNT_SAMPLE_SEQ_STALE i) = 0 ∧ ∀ k, k < 96 → rd t.c (Reg.TL_CNT_SAMPLE_VALUE i k) = rd t.c (Reg.TL_CNT_COUNT i k) % 2 ^ 32))) ∧
    (windowTo < 2 ^ 64 → calmTo windowTo c = true → Completes (.windowEnd port out inw) s (fun t => done t ∧ rd t.c (Reg.CNT_PORT_LAST_OUT p) = out.toNat ∧ rd t.c (Reg.CNT_PORT_LAST_IN p) = inw.toNat ∧
      Map.get? t.c.clk.winK p = none ∧ match Map.get? c.clk.winK p with
        | none => peak Reg.CNT_PORT_PEAK_OUT Reg.CNT_PORT_PEAK_OUT_AT out t ∧ peak Reg.CNT_PORT_PEAK_IN Reg.CNT_PORT_PEAK_IN_AT inw t
        | some _ => rd t.c (Reg.CNT_PORT_PEAK_OUT p) = 0 ∧ rd t.c (Reg.CNT_PORT_PEAK_IN p) = 0))

/-! ### Ethernet (R369 to R393) -/

/-- R72, R370 to R380: where no cue comes first, the link comes up at the highest rate allowed that trains, falls back and retries; a pause holds a priority for its quanta and the watchdog
ends it; ETH_PRIO is refused where priorities coincide; at most 100 neighbours are answered a second; MACsec keys are agreed, renewed and retired.
Log entries 9, 10, 24, 40, 45 and 60: where the statement rests on these, it is the model's choice. -/
def Obligations.EthernetPortAndKeys : Prop :=
  ∀ (s : State) (fast slow : Bool) (ms quanta : BitVec 16) (prio : Fin 8) (n value : BitVec 32) (peer : Peer) (bs : List Byte) (pn : BitVec 64),
    let c := s.c
    let e := c.eth
    let p := prio.toNat
    let v := value.toNat
    let done := fun (t : State) => t.mem = s.mem ∧ t.c.ad = c.ad ∧ t.c.tiles = c.tiles
    let paused := e.paused.find? (fun x => x.1 == p)
    let others := e.paused.filter (fun x => x.1 != p)
    let link := fun (k : Nat) (t : State) => rd t.c Reg.ETH_STATUS_LINK = k
    let later := fun (d : Nat) => calmTo (now c + d) c = true
    let freed := heldOf c p
    let resumed := { e with paused := others, held := e.held.filter (fun x => x.1 != p), packetNum := e.packetNum + sumNat (freed.map (fun x => x.2.1)) }
    let gone := fun (t : State) => t.c.out = (freed.map (fun x => x.2.2)).reverse ++ c.out
    let into := takeFrames peer.ipv4 .sealed 0 1 c
    let ofKey := takeFrames false .bare 0 1 c
    let recent := e.answers.filter (fun x => decide (c.time.mono < x + 2 ^ 32))
    let prios := [Reg.ETH_PRIO_ROCE_PRIO.key, Reg.ETH_PRIO_REEL_PRIO.key, Reg.ETH_PRIO_PTP_PRIO.key, Reg.ETH_PRIO_VID.key]
    let ready := rdb c Reg.ETH_MACSEC_STATUS_KEY_READY
    let most := Nat.max e.packetNum pn.toNat
    let ptpOut := fun (g : Guarding) => txOpen (rd c Reg.ETH_PRIO_PTP_PRIO) g c = true
    Completes (.ethLinkBringUp fast slow ms) s (fun t => if ethUp c || !rdb c Reg.ETH_CTRL_ENABLE then t = s else
      done t ∧ rd t.c Reg.ETH_STATUS_TRAIN_MS = ms.toNat ∧
      if rdb c Reg.ETH_CTRL_ALLOW_1600 && fast then link 3 t ∧ t.c.eth.fallback = false else
        if rdb c Reg.ETH_CTRL_ALLOW_800 && slow then link 2 t ∧ t.c.eth.fallback = rdb c Reg.ETH_CTRL_ALLOW_1600 ∧ rd t.c Reg.ETH_EVENTS_FALLBACK = 1 else
        link 1 t ∧ t.c.eth = e) ∧
    (rd c Reg.ETH_STATUS_LINK ≠ 2 ∨ e.fallback = false → later 0 → Completes (.fallbackRetry fast) s (fun t => t = s)) ∧
    (rd c Reg.ETH_STATUS_LINK = 2 → e.fallback = true → calmTo (roundUp (now c + (e.upAt + 3600 * 2 ^ 32 - c.time.mono)) (2 ^ 22)) c = true →
      Completes (.fallbackRetry fast) s (fun t => done t ∧ link (if fast then 3 else 2) t ∧ t.c.eth.fallback = false)) ∧
    Completes .ethLinkDown s (fun t => done t ∧
      link (if ethUp c then b2n (rdb c Reg.ETH_CTRL_ENABLE) else if rdb c Reg.ETH_CTRL_ENABLE then rd c Reg.ETH_STATUS_LINK else 0) t ∧
      (ethUp c = true → rd t.c Reg.ETH_EVENTS_LINK_DOWN = 1 ∧ (3 ≤ lockOf c → .ptp ∈ t.c.time.lost))) ∧
    Completes (.pfcFrame prio quanta) s (fun t => done t ∧ bumped Reg.ETH_PFC_RX_COUNT 1 s t ∧
      if pausable c p = false ∨ (∃ x ∈ e.ignoring, x.1 = p) then t.c.eth = e ∧ t.c.out = c.out else if quanta = 0 then t.c.eth = resumed ∧ gone t else
        t.c.out = c.out ∧ t.c.eth =
          { e with paused := (p, (paused.map (fun x => x.2.1)).getD c.time.mono, c.time.mono + pauseTime c quanta.toNat) :: others }) ∧
    (paused = none → later 0 → Completes (.pauseExpiry prio) s (fun t => t = s) ∧ Completes (.pfcWatchdog prio n) s (fun t => t = s)) ∧
    (∀ x, paused = some x → later (x.2.2 - c.time.mono) → Completes (.pauseExpiry prio) s (fun t =>
      done t ∧ t.c.eth = resumed ∧ gone t ∧ x.2.2 ≤ t.c.time.mono)) ∧
    (∀ x, paused = some x → later (x.2.1 + rd c Reg.ETH_PFC_WD_WATCHDOG_MS * 2 ^ 32 / 1000 - c.time.mono) → Completes (.pfcWatchdog prio n) s (fun t =>
      done t ∧ t.c.out = c.out ∧ rd t.c Reg.ETH_EVENTS_PFC_WATCHDOG = 1 ∧
      bumped Reg.ETH_TX_DROP_PFC_COUNT (sumNat (freed.map (fun x => x.2.1)) + n.toNat) s t ∧
      x.2.1 + rd c Reg.ETH_PFC_WD_WATCHDOG_MS * 2 ^ 32 / 1000 ≤ t.c.time.mono ∧
      t.c.eth = { resumed with packetNum := e.packetNum, ignoring := (p, t.c.time.mono + 2 ^ 32) :: e.ignoring })) ∧
    ((e.ignoring.find? (fun x => x.1 == p)) = none → later 0 → Completes (.pfcWatchdogEnd prio) s (fun t => t = s)) ∧
    (∀ x, e.ignoring.find? (fun x => x.1 == p) = some x → later (x.2 - c.time.mono) → Completes (.pfcWatchdogEnd prio) s (fun t =>
      done t ∧ t.c.regs = c.regs ∧ x.2 ≤ t.c.time.mono ∧ t.c.eth = { e with ignoring := e.ignoring.filter (fun y => y.1 != p) })) ∧
    Completes (.ethPrioWrite value) s (fun t => done t ∧ if bits v 0 3 = bits v 4 3 ∨ bits v 8 3 = bits v 0 3 ∨ bits v 8 3 = bits v 4 3 then
        rd t.c Reg.ETH_EVENTS_PRIO_REFUSED = 1 ∧ regsKept [Reg.ETH_EVENTS_PRIO_REFUSED.key] s t
      else rd t.c Reg.ETH_PRIO_ROCE_PRIO = bits v 0 3 ∧ rd t.c Reg.ETH_PRIO_REEL_PRIO = bits v 4 3 ∧ rd t.c Reg.ETH_PRIO_PTP_PRIO = bits v 8 3 ∧
        rd t.c Reg.ETH_PRIO_VID = bits v 16 12 ∧ regsKept prios s t) ∧
    (into.1 = false ∨ 100 ≤ recent.length → Completes (.neighbourSolicitation peer) s (fun t => t = { s with c := into.2 })) ∧
    (into.1 = true → recent.length < 100 → ptpOut .sealed → Completes (.neighbourSolicitation peer) s (fun t =>
      done t ∧ t.c.out = .eth 5 peer.addr.toNat peer.port.toNat [] :: c.out ∧
      t.c.eth = { e with answers := c.time.mono :: recent, packetNum := e.packetNum + 1 })) ∧
    Completes (.keyExchange bs) s (fun t => match e.keying with
      | none => t = { s with c := ofKey.2 }
      | some an => if bs.length ≠ 1088 then t = { s with c := ofKey.2 } else done t ∧ rd t.c Reg.ETH_MACSEC_STATUS_AN = an % 2 ∧ rd t.c Reg.ETH_MACSEC_STATUS_KEY_READY = 1 ∧
          rd t.c Reg.ETH_MACSEC_STATUS_STALLED = 0 ∧ rd t.c Reg.ETH_STATUS_MACSEC_ACTIVE = b2n (rdb c Reg.ETH_MACSEC_CTRL_ENABLE) ∧
          t.c.eth.keying = none ∧ t.c.eth.packetNum = 1 ∧ t.c.eth.oldSa = ready ∧ t.c.eth.saAt = c.time.mono ∧ t.c.eth.sak.map List.length = some 44) ∧
    (later (if ready && decide (most < 2 ^ 62) then e.saAt + rd c Reg.ETH_MACSEC_CTRL_REKEY_S * 2 ^ 32 - c.time.mono else 0) →
      Completes (.rekey pn) s (fun t => done t ∧ most ≤ t.c.eth.packetNum ∧
      (ready = true → 2 ^ 63 ≤ most → rdb c Reg.ETH_MACSEC_STATUS_STALLED = false →
        rd t.c Reg.ETH_MACSEC_STATUS_STALLED = 1 ∧ rd t.c Reg.ETH_EVENTS_MACSEC_STALL = 1) ∧
      if rdb c Reg.ETH_MACSEC_CTRL_ENABLE && rdb c Reg.SEC_TRNG_HEALTHY then
        t.c.eth.keying = some (if ready then 1 - rd c Reg.ETH_MACSEC_STATUS_AN else 0) ∧ 
        (ptpOut .bare → ∃ ek, ek.length = 1184 ∧ t.c.out = .eth 8 0 6621 ek :: c.out)
      else t.c.eth.keying = e.keying ∧ t.c.out = c.out)) ∧
    (later (if e.oldSa then e.saAt + 2 ^ 32 - c.time.mono else 0) → Completes .oldAssociationTimeout s (fun t =>
      if e.oldSa then done t ∧ t.c.regs = c.regs ∧ t.c.eth = { e with oldSa := false } else t = s))

/-- R72, R381 to R389, R393: where no cue comes first and its frames are taken in and leave at once, an incoming request reaches a window or is refused; a reel SEND is a datagram of its reel; the doorbell starts the ring; requests are
retried, fail or complete; congestion is noted, and rates follow; queue pairs and windows come and go.
Log entries 9, 35, 40, 45 and 60: where the statement rests on these, it is the model's choice. -/
def Obligations.RdmaQueuesAct : Prop :=
  ∀ (s : State) (qp : Fin 4096) (key len value : BitVec 32) (off : BitVec 64) (bs : List Byte) (reel : Bool), s.c.quiet = true →
    let c := s.c
    let q := qp.toNat
    let x := qpAt c q
    let peerQpn := rd c (Reg.ETH_QP_REMOTE_QPN_QPN q)
    let up := qpState c q = 1
    let done := fun (t : State) => t.mem = s.mem ∧ t.c.ad = c.ad ∧ t.c.tiles = c.tiles
    let said := fun (l : List Byte) (t : State) => t.c.out = .eth 6 q peerQpn l :: c.out
    let nak := fun (k : Byte) (t : State) => done t ∧ said [1, k] t ∧ bumped Reg.ETH_RDMA_NAK_COUNT 1 s t
    let plain := fun (a n : Nat) => lpddrBase ≤ a ∧ plainRange s a n = true ∧ (List.range n).all (fun k => inAllotment c (a + k)) = true
    let into := fun (k : Nat) => takeFrames (rdb c (Reg.ETH_QP_CFG_IPV4 q)) .sealed 0 k c
    let heard := (into 1).1 = true
    let open_ := txOpen (rd c Reg.ETH_PRIO_ROCE_PRIO) .sealed c = true
    let later := fun (d : Nat) => calmTo (now c + d) c = true
    let frames := framesOf bs.length
    let nothing := fun (k : Nat) (i : Instr) => Completes i s (fun t => t = { s with c := (into k).2 })
    let reelPeer : Peer := ⟨BitVec.ofNat 128 (qpAddr c q), rdb c (Reg.ETH_QP_CFG_IPV4 q), BitVec.ofNat 16 (rd c (Reg.AD_REEL_PORT_PORT (rd c (Reg.ETH_QP_CFG_REEL q))))⟩
    let ring := ringAddr c q
    let size := ringSize c q
    let bell := leNat (getBytes s.mem ring 8)
    let entry := getBytes s.mem (ring + 64 + 64 * (x.taken % size)) 64
    let slot := ring + 64 + size * 64 + 16 * (x.completed % size)
    let runs := up ∧ 4 ≤ rd c (Reg.ETH_QP_CFG_RING_L q) ∧ bell ≤ x.completed + size
    let failed := fun (k : Nat) (t : State) => qpState t.c q = 2 ∧ rd t.c (Reg.ETH_QP_LAST_STATUS_STATUS q) = k ∧ rd t.c Reg.ETH_EVENTS_QP_ERROR = 1
    let completion := fun (id st n : Nat) (t : State) => getBytes t.mem slot 16 = leBytes 8 id ++ leBytes 2 st ++ leBytes 2 0 ++ leBytes 4 n ∧
      getBytes t.mem (ring + 8) 8 = leBytes 8 (x.completed + 1) ∧ (qpAt t.c q).completed = x.completed + 1 ∧ (qpAt t.c q).outstanding = []
    let oldest := x.outstanding.find? (fun r => r.result.isNone)
    let sends := fun (r : RdmaReq) => if r.op = 2 then [] else getBytes s.mem r.laddr r.len
    let readable := fun (r : RdmaReq) => open_ ∧ (r.op ≠ 2 → plain r.laddr r.len)
    let dt := fun (r : RdmaReq) => r.sentAt + ackTimeout - c.time.mono
    let retried := fun (r : RdmaReq) (t : State) => done t ∧ bumped Reg.ETH_RETX_COUNT (framesOf (sends r).length) s t ∧
      t.c.out = .eth 2 q peerQpn (requestHead r ++ sends r) :: c.out ∧
      qpAt t.c q = { x with outstanding := x.outstanding.map (fun y => if y.index = r.index then { y with retries := y.retries + 1, sentAt := t.c.time.mono } else y) }
    let w := rd c Reg.ETH_WIN_SEL_WIN
    let sel := rd c Reg.ETH_QP_SEL_QP
    let v := value.toNat
    let waits := fun (i : Instr) => Completes i s (fun t => t = s)
    (¬ (up ∧ heard) → nothing frames (.rdmaWrite qp key off bs) ∧ nothing 1 (.rdmaRead qp key off len) ∧ nothing frames (.rdmaSend qp bs) ∧
      nothing frames (.rdmaAcknowledgement qp (.ok bs)) ∧ nothing 1 (.rdmaAcknowledgement qp .rnr) ∧ ∀ k, nothing 1 (.rdmaAcknowledgement qp (.nak k))) ∧
    (¬ up ∨ oldest = none → later 0 → waits (.roceAckTimeout qp)) ∧
    (up → heard → open_ → winReach c key.toNat off.toNat bs.length true = none → Completes (.rdmaWrite qp key off bs) s (fun t => nak 0 t ∧ qpState t.c q = 2)) ∧
    (up → heard → open_ → winReach c key.toNat off.toNat len.toNat false = none → Completes (.rdmaRead qp key off len) s (fun t => nak 0 t ∧ qpState t.c q = 2)) ∧
    (∀ a, up → heard → open_ → winReach c key.toNat off.toNat bs.length true = some a → plain a bs.length → Completes (.rdmaWrite qp key off bs) s (fun t =>
      getBytes t.mem a bs.length = bs ∧ bytesKeptBut a bs.length s t ∧ said [0] t ∧ regsKeptButCounts [Reg.ETH_RX_FRAMES_COUNT.key, Reg.ETH_TX_FRAMES_COUNT.key] s t)) ∧
    (∀ a, up → heard → open_ → winReach c key.toNat off.toNat len.toNat false = some a → plain a len.toNat → Completes (.rdmaRead qp key off len) s (fun t =>
      done t ∧ said (0 :: getBytes s.mem a len.toNat) t ∧ regsKeptButCounts [Reg.ETH_RX_FRAMES_COUNT.key, Reg.ETH_TX_FRAMES_COUNT.key] s t)) ∧
    (up → heard → open_ → rdb c (Reg.ETH_QP_CFG_REEL_EN q) = false → Completes (.rdmaSend qp bs) s (nak 2)) ∧
    (up → heard → open_ → rdb c (Reg.ETH_QP_CFG_REEL_EN q) = true → leAt bs 4 2 ≠ rd c (Reg.ETH_QP_CFG_REEL q) → Completes (.rdmaSend qp bs) s (fun t =>
      done t ∧ said [0] t ∧ bumped Reg.AD_DROPS_COUNT 1 s t)) ∧
    (up → heard → rdb c (Reg.ETH_QP_CFG_REEL_EN q) = true → leAt bs 4 2 = rd c (Reg.ETH_QP_CFG_REEL q) → Completes (.rdmaSend qp bs) s (fun t =>
      let s' := onCtl (sendAck q []) { s with c := (into frames).2 }
      (leAt bs 3 1 = 1 → t = submitGo reelPeer bs s') ∧ (leAt bs 3 1 = 4 → t = ackGo reelPeer bs s') ∧
      (leAt bs 3 1 = 6 → t = echoGo reelPeer bs s') ∧ (leAt bs 3 1 = 7 → t = attachGo reelPeer bs s'))) ∧
    (qpState c q = 0 → waits (.doorbell qp)) ∧
    (runs → x.outstanding = [] → bell ≤ x.taken → waits (.doorbell qp)) ∧
    (up → 4 ≤ rd c (Reg.ETH_QP_CFG_RING_L q) → x.completed + size < bell → Completes (.doorbell qp) s (fun t =>
      done t ∧ qpState t.c q = 2 ∧ rd t.c Reg.ETH_EVENTS_QP_ERROR = 1)) ∧
    (∀ d s1, runs → open_ → x.outstanding = [] → bell = x.taken + 1 → startStatus q entry s = (none, d, s1) → Completes (.doorbell qp) s (fun t => t.mem = s1.mem ∧
      (qpAt t.c q).taken = bell ∧ (qpAt t.c q).outstanding.length = 1 ∧ qpState t.c q = 1 ∧
      t.c.out = .eth 2 q peerQpn (leBytes 1 (leAt entry 0 1) ++ leBytes 8 (leAt entry 16 8) ++ leBytes 4 (leAt entry 24 4) ++ leBytes 4 (leAt entry 4 4) ++ d) :: c.out)) ∧
    (∀ k s1, runs → x.outstanding = [] → bell = x.taken + 1 → startStatus q entry s = (some k, [], s1) → Completes (.doorbell qp) s (fun t =>
      failed k t ∧ completion (leAt entry 32 8) k 0 t ∧ t.c.out = c.out)) ∧
    (heard → oldest = none → nothing 1 (.rdmaAcknowledgement qp .rnr)) ∧
    (∀ r, up → oldest = some r → r.retries < 7 → readable r → (later (dt r) → Completes (.roceAckTimeout qp) s (retried r)) ∧
      (heard → Completes (.rdmaAcknowledgement qp .rnr) s (retried r))) ∧
    (∀ r, up → oldest = some r → 7 ≤ r.retries → (later (dt r) → Completes (.roceAckTimeout qp) s (failed 3)) ∧
      (heard → Completes (.rdmaAcknowledgement qp .rnr) s (failed 3))) ∧
    (∀ r k, up → heard → oldest = some r → Completes (.rdmaAcknowledgement qp (.nak k)) s (failed 2)) ∧
    (∀ r, runs → heard → x.outstanding = [r] → r.result = none → r.op ≠ 2 → bell ≤ x.taken → Completes (.rdmaAcknowledgement qp (.ok bs)) s (fun t =>
      completion r.id 0 r.len t ∧ qpState t.c q = 1)) ∧
    (∀ r, runs → heard → x.outstanding = [r] → r.result = none → r.op = 2 → bell ≤ x.taken → plain r.laddr r.len →
      (r.laddr + r.len ≤ ring ∨ ring + 64 + 80 * size ≤ r.laddr) → Completes (.rdmaAcknowledgement qp (.ok bs)) s (fun t =>
        completion r.id 0 r.len t ∧ getBytes t.mem r.laddr r.len = padTo r.len bs)) ∧
    (heard → open_ → Completes (.cePacket qp reel) s (fun t => done t ∧ bumped Reg.ETH_ECN_CE_COUNT 1 s t ∧
      if reel = true ∨ ¬ up ∨ (∃ a, x.cnpAt = some a ∧ c.time.mono < a + 214748) then t.c.out = c.out ∧ t.c.eth = c.eth else
        t.c.out = .eth 7 q peerQpn [] :: c.out ∧ bumped Reg.ETH_CNP_TX_COUNT 1 s t ∧ qpAt t.c q = { x with cnpAt := some c.time.mono })) ∧
    (heard → Completes (.cnp qp) s (fun t => done t ∧ bumped Reg.ETH_CNP_RX_COUNT 1 s t ∧
      if qpState c q = 0 then t.c.eth = c.eth else qpAt t.c q = { x with cnp := true })) ∧
    (later (c.eth.rateAt + rd c Reg.ETH_CC_PERIOD_US * 2 ^ 32 / 1000000 - c.time.mono) → Completes .roceRateUpdate s (fun t => done t ∧ t.c.regs = c.regs ∧
      ∀ k, Map.get? t.c.eth.qps k = (Map.get? c.eth.qps k).map (fun y => { y with rate := some (nextRate c y), cnp := false }))) ∧
    Completes .qpCreate s (fun t => if qpState c sel ≠ 0 then t = s else done t ∧ qpState t.c sel = 1 ∧ qpAt t.c sel = QpSt.new ∧
      rd t.c (Reg.ETH_QP_LOCAL_QPN_QPN sel) = sel % 2 ^ 24 ∧ rd t.c (Reg.ETH_QP_LAST_STATUS_STATUS sel) = 0) ∧
    Completes .qpDestroy s (fun t => if qpState c sel = 0 then t = s else done t ∧ qpState t.c sel = 0 ∧ qpAt t.c sel = QpSt.new) ∧
    Completes .qpReset s (fun t => if qpState c sel ≠ 2 then t = s else done t ∧ qpState t.c sel = 1 ∧ rd t.c (Reg.ETH_QP_LAST_STATUS_STATUS sel) = 0 ∧
      t.c.eth = c.eth) ∧
    Completes (.windowRegister value) s (fun t => done t ∧ (rdb t.c (Reg.ETH_WIN_CTRL_VALID w) =
        if rdb c (Reg.ETH_WIN_CTRL_VALID w) then bit v 0 else bit v 0 && winGood c w) ∧
      (rdb c (Reg.ETH_WIN_CTRL_VALID w) = false → bit v 0 = true → if winGood c w then rd t.c (Reg.ETH_WIN_KEY_KEY w) % 256 = w % 256 else
        rd t.c (Reg.ETH_WIN_CTRL_REFUSED w) = 1 ∧ rd t.c Reg.ETH_EVENTS_WINDOW_REFUSED = 1) ∧
      (rdb c (Reg.ETH_WIN_CTRL_VALID w) = false → rd t.c (Reg.ETH_WIN_CTRL_REMOTE_READ w) = b2n (bit v 1) ∧
        rd t.c (Reg.ETH_WIN_CTRL_REMOTE_WRITE w) = b2n (bit v 2)))

/-! ### The gaffer (R394 to R438) -/

/-- R72, R396 to R407, R412, R413, R437, R570, R579: a cap, limits, a protective cap, a capstep value, slopes and a call sheet are checked, refused or held to the
ceiling, and answered; E and Q follow at once; the pin CAPSTEP_n brings its value in; the staged sheet becomes active where no cue comes first; estimates and the sensor's fault show once their samples have come.
Log entries 3, 30, 31 and 57: where the statement rests on these, it is the model's choice. -/
def Obligations.CapsAndSheetsAreChecked : Prop :=
  ∀ (s : State) (req : Req) (bs : List Byte), s.c.quiet = true → waiting s.c = [] → s.c.gaf.shutdown = false →
    let c := s.c
    let u := fun (k : Nat) => leAt bs k 2
    let done := fun (t : State) => t.mem = s.mem ∧ t.c.tiles = c.tiles
    let level := fun (t : State) => rd t.c Reg.GAF_LEVEL_E = effCap t.c % 2 ^ 16 ∧ rd t.c Reg.GAF_LEVEL2_Q % 2 ^ 16 = protLimit t.c % 2 ^ 16
    let reply := fun (is : List Instr) (typ st : Nat) (P : State → Prop) => servable typ req c = true → ∀ i ∈ is, Completes i s (fun t => done t ∧
      answered typ req (0x0100 + st) [] t ∧ P t ∧ if st ≤ 1 then t.c.mgt.capAt = c.time.mono ∧ rd t.c Reg.MGT_CAP_LEASE_LAPSED = 0 else
        t.c.gaf = c.gaf ∧ regsKept [Reg.MGT_REQUESTS_COUNT.key] s t)
    let form := fun (k : Nat) => bs.length = 8 ∧ leAt bs 0 1 = k ∧ zeroBytes bs [1, 6, 7] = true ∧ (k = 1 ∨ zeroBytes bs [4, 5] = true)
    let cap := reply [.contractCapSet req bs, .capLimitsSet req bs, .protectiveCapSet req bs, .protectiveCapClear req bs, .capstepValueSet req bs] 0x20
    let top := rd c Reg.GAF_CFG_CFG_CEIL
    let hi := Nat.min (u 4) top
    let outside := u 2 < 100 ∨ rd c Reg.GAF_LIMITS_CEIL < u 2
    let badSlopes := 2000 < u 0 ∨ 2000 < u 2 ∨ (u 4 ≠ 0 ∧ (u 4 < 100 ∨ 2000 < u 4))
    let slope := fun (f : Fld) (v : Nat) (t : State) => rd t.c f = if v = 0 then rd c f else v
    let badSheet := leAt bs 1 1 < 10 ∨ 100 < leAt bs 1 1 ∨ 95 < leAt bs 2 1 ∨ rd c Reg.GAF_LIMITS_CEIL < u 4 ∨ 2 ^ 42 ≤ leAt bs 8 8
    let pin := fun (low : Bool) (t : State) => done t ∧ rd t.c Reg.MGT_LINES_CAPSTEP_N = b2n !low ∧ rdb t.c Reg.GAF_STATUS_CAPSTEP = low ∧
      (rdb c Reg.GAF_STATUS_CAPSTEP ≠ low → level t)
    let sheetAt := rd64 c Reg.GAF_CS_FRAME_LO_FRAME Reg.GAF_CS_FRAME_HI_FRAME * 2 ^ 22
    let once := fun (i : Instr) (n k : Nat) (P : State → Prop) => Completes i s (fun t => if n < k then t = s else done t ∧ P t)
    let shows := fun (k : Nat) (t : State) => rd t.c Reg.GAF_STATUS_ESTIMATE = k
    let warm := rd c Reg.GAF_STATUS_ESTIMATE = 0
    let alerted := fun (b : Bool) (t : State) => rd t.c Reg.GAF_STATUS_SENSOR_FAULT = b2n b ∧ rd t.c Reg.MGT_ALERT_CAUSE_SENSOR_FAULT = b2n b ∧
      rd t.c Reg.MGT_LINES_ALERT_DRIVEN = b2n (alertCauses.any (rdb t.c))
    (form 0 → u 2 < rd c Reg.GAF_LIMITS_FLOOR → cap 2 (fun _ => True)) ∧
    (form 0 → rd c Reg.GAF_LIMITS_FLOOR ≤ u 2 → rd c Reg.GAF_LIMITS_CEIL < u 2 → cap 1 (fun t => level t ∧
      rd t.c Reg.GAF_CAP_CAP = rd c Reg.GAF_LIMITS_CEIL % 2 ^ 16 ∧ rd t.c Reg.GAF_EVENTS_CEILING_CLAMP = 1)) ∧
    (form 0 → rd c Reg.GAF_LIMITS_FLOOR ≤ u 2 → u 2 ≤ rd c Reg.GAF_LIMITS_CEIL → cap 0 (fun t => level t ∧ rd t.c Reg.GAF_CAP_CAP = u 2)) ∧
    (form 1 → (u 2 < 600 ∨ hi < u 2 ∨ rd c Reg.GAF_CAP_CAP < u 2) → cap 3 (fun _ => True)) ∧
    (form 1 → 600 ≤ u 2 → u 2 ≤ hi → u 2 ≤ rd c Reg.GAF_CAP_CAP → cap (b2n (decide (top < u 4))) (fun t => level t ∧
      rd t.c Reg.GAF_LIMITS_FLOOR = u 2 ∧ rd t.c Reg.GAF_LIMITS_CEIL = hi ∧ rd t.c Reg.GAF_CAP_CAP = Nat.min (rd c Reg.GAF_CAP_CAP) hi)) ∧
    ((form 2 ∨ form 4) → outside → cap 4 (fun _ => True)) ∧
    (form 2 → ¬ outside → cap 0 (fun t => level t ∧ rd t.c Reg.GAF_PROT_CAP_VALID = 1 ∧ rd t.c Reg.GAF_PROT_CAP_VALUE = u 2)) ∧
    (form 3 → u 2 = 0 → cap 0 (fun t => level t ∧ rd t.c Reg.GAF_PROT_CAP_VALID = 0)) ∧
    (form 4 → ¬ outside → cap 0 (fun t => level t ∧ rd t.c Reg.GAF_CAPSTEP_VALUE = u 2)) ∧
    (bs.length = 8 → zeroBytes bs [6, 7] = true → (badSlopes → reply [.slopeSet req bs] 0x21 4 (fun _ => True)) ∧
      (¬ badSlopes → reply [.slopeSet req bs] 0x21 0 (fun t => slope Reg.GAF_SLOPE_UP (u 0) t ∧ slope Reg.GAF_SLOPE_DN (u 2) t ∧
        slope Reg.GAF_PROT_SLOPE_RATE (u 4) t))) ∧
    (bs.length = 16 → zeroBytes bs [3, 6, 7] = true → (badSheet → reply [.callSheet req bs] 0x22 4 (fun _ => True)) ∧
      (¬ badSheet → reply [.callSheet req bs] 0x22 0 (fun t => rd t.c Reg.GAF_CS_NEXT_SLOT = leAt bs 0 1 ∧ rd t.c Reg.GAF_CS_NEXT_BAND = leAt bs 1 1 ∧
        rd t.c Reg.GAF_CS_NEXT_FRAC = leAt bs 2 1 ∧ rd t.c Reg.GAF_CS_FLOOR_NEXT_FLOOR_W = u 4 ∧
        rd64 t.c Reg.GAF_CS_FRAME_LO_FRAME Reg.GAF_CS_FRAME_HI_FRAME = leAt bs 8 8 ∧ rd t.c Reg.GAF_CS_ACTIVE_PENDING = 1))) ∧
    (rd c Reg.GAF_CS_ACTIVE_PENDING = 0 → calmTo (now c) c = true → Completes .callSheetActivate s (fun t => t = s)) ∧
    (rd c Reg.GAF_CS_ACTIVE_PENDING ≠ 0 → calmTo (if sheetAt < now c then roundUp (now c) (2 ^ 22) else sheetAt) c = true → Completes .callSheetActivate s (fun t => done t ∧
      rd t.c Reg.GAF_CS_ACTIVE_SLOT = rd c Reg.GAF_CS_NEXT_SLOT % 2 ^ 8 ∧ rd t.c Reg.GAF_CS_ACTIVE_BAND = rd c Reg.GAF_CS_NEXT_BAND % 2 ^ 8 ∧
      rd t.c Reg.GAF_CS_ACTIVE_FRAC = rd c Reg.GAF_CS_NEXT_FRAC % 2 ^ 8 ∧ rd t.c Reg.GAF_CS_FLOOR_FLOOR_W = rd c Reg.GAF_CS_FLOOR_NEXT_FLOOR_W % 2 ^ 16 ∧
      rd t.c Reg.GAF_CS_ACTIVE_PENDING = 0 ∧ (rd c Reg.GAF_CS_NEXT_SLOT ≠ rd c Reg.GAF_CS_ACTIVE_SLOT →
        armed t.c 32 = true ∧ actionOf t.c 32 = 5 ∧ periodOf t.c 32 = 22))) ∧
    Completes .capstepAssert s (pin true) ∧ Completes .capstepRelease s (pin false) ∧
    once .modelDiverge c.gaf.modelFar 500 (fun t => t.c.gaf.diverged = true ∧ rd t.c Reg.GAF_EVENTS_MODEL_DIVERGE = 1 ∧ shows (if warm then 0 else 2) t ∧
      t.c.gaf.log.head? = some (7, Nat.min (rd c Reg.GAF_P_IN_P_IN) 0xFFFF, now c)) ∧
    once .measuredEnd c.gaf.modelNear 10000 (fun t => t.c.gaf.diverged = false ∧ shows (if warm then 0 else 1) t) ∧
    once .warmingEnd c.gaf.corr 1000 (shows (if c.gaf.diverged then 2 else 1)) ∧
    once .sensorFault c.gaf.railFar 500 (fun t => alerted true t ∧ rd t.c Reg.GAF_EVENTS_SENSOR_FAULT = 1 ∧
      t.c.gaf.log.head? = some (8, Nat.min (rd c Reg.GAF_P_IN_P_IN) 0xFFFF, now c)) ∧
    once .sensorFaultClear c.gaf.railNear 100000 (alerted false)

/-- R72, R409 to R411, R414 to R421, R425, R431 to R436: the tone of a µs and the throttle from the sample that comes in; the clock moves toward the best; a
rail above its limit holds issue, and below it issue rises; where no cue comes first, the minimum state is entered and left, and allocations are formed and take effect.
Log entries 10, 30 and 57: where the statement rests on these, it is the model's choice. -/
def Obligations.ToneThrottleAndClockFollowTheLevel : Prop :=
  ∀ (s : State) (p : Power) (held : Fin 193) (steps : Fin 64) (best amps : BitVec 16) (rail : Fin 4),
    s.c.quiet = true → waiting s.c = [] → s.c.gaf.shutdown = false →
    let c := s.c
    let c1 := takeSample p c
    let r := realDraw c1
    let most := toneCapacity c1 held.toNat
    let need := if c.gaf.minimum then 0 else toneNeed c1
    let issue := rd c Reg.GAF_THROTTLE_ISSUE
    let done := fun (t : State) => t.mem = s.mem ∧ t.c.tiles = c.tiles
    let sampled := fun (t : State) => done t ∧ t.c.ad = c.ad ∧ t.c.gaf.peak = Nat.max c.gaf.peak r ∧ t.c.gaf.frameIn = c.gaf.frameIn + p.pIn ∧
      rd t.c Reg.GAF_P_CTL_P_CTL = rd c1 Reg.GAF_P_CTL_P_CTL ∧ rd t.c Reg.GAF_P_EST_P_MOD = Nat.min p.pMod 0xFFFF
    let old := rd c Reg.GAF_CLOCK_ACTUAL
    let want := clampNat 400 (Nat.max 400 (clockLimit c)) best.toNat
    let mhz := if c.gaf.minimum then 400 else if old < want then Nat.min want (old + 100) else Nat.max want (old - 100)
    let limit := rd c (Reg.GAF_RAIL_LIMIT rail.toNat)
    let ocOf := fun (x : Ctl) => Map.getD 64 x.gaf.ocIssue rail.toNat
    let later := fun (d : Nat) => calmTo (now c + d) c = true
    let c2 := advanceTo (roundUp (now c) (2 ^ 26)) c
    Completes (.toneUpdate p held) s (fun t => sampled t ∧ rd t.c Reg.GAF_TONE_LEVEL = Nat.min most need % 2 ^ 16 ∧
      t.c.gaf.lag = decide (128 * rd c Reg.GAF_LEVEL_E < t.c.gaf.t128) ∧
      if most < need then t.c.gaf.t128 = Nat.min c.gaf.t128 (128 * (r + most)) ∧ (c.gaf.shortFrame ≠ some (frameNow c) → rd t.c Reg.GAF_EVENTS_TONE_SHORT = 1)
      else t.c.gaf.t128 = c.gaf.t128) ∧
    Completes (.throttleUpdate p steps) s (fun t => sampled t ∧ t.c.gaf.t128 = c.gaf.t128 ∧
      if c.gaf.minimum then rd t.c Reg.GAF_THROTTLE_ISSUE = 1 else
        if c.gaf.t128 < 128 * r then rd t.c Reg.GAF_THROTTLE_ISSUE = Nat.max 1 (issue - Nat.max 1 steps.toNat) % 2 ^ 7 ∧ rd t.c Reg.GAF_STATUS_PRESSED = 1 else
        rd t.c Reg.GAF_THROTTLE_ISSUE = if 128 * (r + rd c Reg.GAF_CS_ACTIVE_BAND) ≤ c.gaf.t128 ∧ issue < 64 then issue + 1 else issue) ∧
    Completes (.clockSet best) s (fun t => done t ∧ t.c.ad = c.ad ∧ rd t.c Reg.GAF_CLOCK_ACTUAL = mhz % 2 ^ 16 ∧
      (∀ d, d < 8 → rd t.c (Reg.CLK_DOM_FREQ_MHZ d) = if rd c (Reg.CLK_DOM_FREQ_MHZ d) = 0 then 0 else Nat.min mhz (rd c (Reg.CLK_TH_CEIL_MHZ d)) % 2 ^ 16) ∧
      (rdb c Reg.GAF_STATUS_UNIFORM = true → rd c Reg.GAF_LEVEL2_Q ≠ 0xFFFF → mhz < rd c Reg.GAF_LP_ALLOC_CLOCK → rd c Reg.GAF_LP_ALLOC_CLOCK ≤ old →
        rd t.c Reg.GAF_EVENTS_UNIFORM_BREAK = 1)) ∧
    Completes (.overCurrent rail amps) s (fun t => done t ∧ rd t.c (Reg.GAF_RAIL_CURRENT rail.toNat) = amps.toNat ∧
      if amps.toNat ≤ limit then t.c.gaf = c.gaf else ocOf t.c = 16 ∧ rd t.c Reg.GAF_EVENTS_OVER_CURRENT = 1 ∧ bumped Reg.GAF_OVER_CURRENT_COUNT 1 s t) ∧
    Completes (.overCurrentRelease rail amps) s (fun t => done t ∧ rd t.c (Reg.GAF_RAIL_CURRENT rail.toNat) = amps.toNat ∧
      if 9 * limit ≤ 10 * amps.toNat then t.c.gaf = c.gaf else ocOf t.c = Nat.min 64 (ocOf c + 16)) ∧
    (c.gaf.overSince = none ∨ c.gaf.minimum = true → later 0 → Completes .minimumStateEntry s (fun t => t = s)) ∧
    (∀ x, c.gaf.overSince = some x → c.gaf.minimum = false → later (x + 2 ^ 22 - c.time.mono) → Completes .minimumStateEntry s (fun t => done t ∧ t.c.gaf.minimum = true ∧
      rd t.c Reg.GAF_THROTTLE_ISSUE = 1 ∧ rd t.c Reg.GAF_TONE_LEVEL = 0 ∧ rd t.c Reg.GAF_CLOCK_ACTUAL = 400 ∧ rd t.c Reg.GAF_CLOCK_ASSURED = 6 ∧
      rd t.c Reg.AD_STATUS_CAP_UNREACHABLE = 1 ∧ rd t.c Reg.GAF_EVENTS_CAP_UNREACHABLE = 1)) ∧
    (c.gaf.underSince = none ∨ c.gaf.minimum = false → later 0 → Completes .minimumStateExit s (fun t => t = s)) ∧
    (∀ x, c.gaf.underSince = some x → c.gaf.minimum = true → later (x + 2 ^ 26 - c.time.mono) → Completes .minimumStateExit s (fun t => done t ∧ t.c.gaf.minimum = false ∧
      rd t.c Reg.AD_STATUS_CAP_UNREACHABLE = 0 ∧ (protLimit c = rd c Reg.GAF_LEVEL2_Q → t.c.gaf.t128 = 128 * rd c Reg.GAF_P_CTL_P_CTL))) ∧
    (rd c Reg.GAF_LP_CTRL_ROLE = 0 → later 0 → Completes .lpAllocation s (fun t => t = s)) ∧
    (rd c Reg.GAF_LP_CTRL_ROLE ≠ 0 → calmTo (roundUp (now c) (2 ^ 26)) c = true → Completes .lpAllocation s (fun t => done t ∧ t.c.ad = c.ad ∧ t.c.gaf.lpAlloc = (lpAllocate c2).1 ∧
      t.c.gaf.lpSent = [] ∧ ((lpAllocate c2).2 = true → rd t.c Reg.GAF_EVENTS_LP_SHORT = 1))) ∧
    (c.gaf.allocDue = none → later 0 → Completes .allocationApply s (fun t => t = s)) ∧
    (∀ w k u, c.gaf.allocDue = some (w, k, u) → calmTo u c = true → Completes .allocationApply s (fun t =>
      done t ∧ t.c.gaf.allocDue = none ∧ rd t.c Reg.GAF_LP_ALLOC_ALLOC = w % 2 ^ 16 ∧ rd t.c Reg.GAF_LP_ALLOC_CLOCK = k % 2 ^ 16 ∧
      rd t.c Reg.GAF_STATUS_UNIFORM = b2n (rdb c Reg.GAF_LP_CTRL_UNIFORM && k != 0) ∧ rd t.c Reg.GAF_LEVEL_E = effCap t.c % 2 ^ 16))

/-! ### Clocks, droop, heat, coolant (R439 to R466) -/

/-- R72, R439, R440, R445 to R455, R463 to R465: the crystal and REFCLK are judged, lost and back; a switch is armed on its cue, runs at once where its time has passed, or is refused; an
observation and a frequency count are taken; an admission waits 16 cycles and a droop is counted; the inlet and the leak loop are read, and a wet loop shuts the module down.
Log entries 9, 10, 11, 32, 33 and 57: where the statement rests on these, it is the model's choice. -/
def Obligations.ClockSourcesAndLoopsAct : Prop :=
  ∀ (s : State) (value ohms : BitVec 32) (khz : BitVec 24) (group : Fin 48) (cycle : BitVec 64) (die : Fin 8) (sensor : Fin 16) (mv : BitVec 8)
    (cycles : BitVec 32) (temp : BitVec 12) (draw : BitVec 16), s.c.quiet = true → s.c.gaf.shutdown = false →
    let c := s.c
    let v := value.toNat
    let k := die.toNat
    let done := fun (t : State) => t.mem = s.mem ∧ t.c.tiles = c.tiles
    let is := fun (f : Fld) (b : Bool) (t : State) => rd t.c f = b2n b
    let alert := fun (t : State) => rd t.c Reg.MGT_LINES_ALERT_DRIVEN = b2n (alertCauses.any (rdb t.c))
    let moved := fun (d src : Nat) (t : State) => rd t.c (Reg.CLK_DOM_CTRL_SOURCE d) = src ∧ rd t.c (Reg.CLK_DOM_FREQ_MHZ d) =
      Map.getD 0 c.clk.plls (4 * d + src) % 2 ^ 16 ∧ rd t.c Reg.CLK_EVENTS_SWITCH_DONE = 1
    let dom := bits v 0 4
    let src := bits v 4 2
    let asked := rd64 c Reg.CLK_SW_TIME_LO_TIME Reg.CLK_SW_TIME_HI_TIME
    let at_ := if asked = 0 then slotCeil (now c + 2 ^ 14) else asked
    let span := fun (fB : Nat) => Reservation.mk 2 (dieTiles dom) at_ (at_ + switchSlots (rd c (Reg.CLK_DOM_FREQ_MHZ dom)) fB * 2 ^ 14)
    let code := match sourceMhz c dom src, freeChannel c with
      | none, _ => 3
      | some f, n => if rd c (Reg.CLK_DOM_CTRL_SOURCE dom) = src then 2 else if sourceLocked c dom src = false then 1 else if n = none then 5 else
          if dom < 8 ∧ reservationFits (span f) c = false then 4 else 0
    let obs := bits v 0 5
    let badObs := match obsFreq c obs with
      | some f => bit v 12 && decide (20000 * 2 ^ bits v 8 4 < f)
      | none => true
    let g := group.toNat / 6
    let admitted := match Map.get? c.clk.admitted g with
      | some x => Nat.max cycle.toNat (x + 16)
      | none => cycle.toNat
    let open_ := 500000 < ohms.toNat
    let short := ohms.toNat < 200
    let high := ¬ open_ ∧ ¬ short ∧ 450 < temp.toNat
    let st := leakState ohms.toNat
    let run := if c.clk.leakRun.1 = st then c.clk.leakRun.2 + 1 else 1
    let read := fun (t : State) => t.c.clk.leakRun = (st, Nat.min run 5) ∧ rd t.c Reg.CLK_LEAK_RES = Nat.min 0xFFFF (ohms.toNat / 10)
    ((c.pwr.boot = none ∨ stageNow c ≠ 1) → Completes .crystalJudged s (fun t => if c.pwr.mg = 2 ∨ c.pwr.mg = 3 then t = s else
      done t ∧ t.c.pwr = { c.pwr with mg := 0 } ∧ rd t.c Reg.CLK_STATUS_XO_OK = 1 ∧ rd t.c Reg.MGT_ALERT_CAUSE_XO_LOST = 0 ∧ alert t)) ∧
    Completes .crystalTimeout s (fun t => if rdb c Reg.CLK_STATUS_XO_OK = true ∨ c.pwr.mg = 3 then t = s else
      done t ∧ t.c.pwr = { c.pwr with mg := 2 } ∧ rd t.c Reg.MGT_LINES_FAULT_DRIVEN = 1 ∧ t.c.flt.faultPin = true) ∧
    Completes .refclkLost s (fun t => if rdb c Reg.CLK_STATUS_REFCLK_OK = false then t = s else done t ∧ rd t.c Reg.CLK_STATUS_REFCLK_OK = 0 ∧
      rd t.c Reg.CLK_STATUS_HOLDOVER = 1 ∧ rd t.c Reg.CLK_EVENTS_REFCLK_LOST = 1 ∧ rd t.c Reg.MGT_ALERT_CAUSE_REFCLK_LOST = 1 ∧ alert t ∧
      (sourceLocked c 12 2 = true → moved 12 2 t)) ∧
    ((c.pwr.boot = none ∨ stageNow c ≠ 5) → Completes .refclkBack s (fun t => if rdb c Reg.CLK_STATUS_REFCLK_OK then t = s else done t ∧
      rd t.c Reg.CLK_STATUS_REFCLK_OK = 1 ∧ rd t.c Reg.CLK_STATUS_HOLDOVER = 0 ∧ rd t.c Reg.CLK_EVENTS_REFCLK_BACK = 1 ∧
      rd t.c Reg.MGT_ALERT_CAUSE_REFCLK_LOST = 0 ∧ alert t ∧
      (rd c (Reg.CLK_DOM_CTRL_SOURCE 12) = 2 → Map.get? c.clk.plls 48 ≠ none → moved 12 0 t))) ∧
    Completes .xoLost s (fun t => if rdb c Reg.CLK_STATUS_XO_OK = false then t = s else done t ∧ rd t.c Reg.CLK_STATUS_XO_OK = 0 ∧
      if rd c (Reg.CLK_DOM_CTRL_SOURCE 12) = 2 then t.c.pwr = { c.pwr with mg := 1 } else t.c.pwr = c.pwr ∧ (rdb c Reg.CLK_STATUS_REFCLK_OK = true →
        rd t.c Reg.CLK_EVENTS_XO_LOST = 1 ∧ rd t.c Reg.MGT_ALERT_CAUSE_XO_LOST = 1 ∧ alert t)) ∧
    Completes (.switchRequest value) s (fun t => done t ∧ rd t.c Reg.CLK_SW_STATUS_REFUSAL = code ∧ if code ≠ 0 then
        rd t.c Reg.CLK_EVENTS_SWITCH_REFUSED = 1 ∧ t.c.clk = c.clk ∧ t.c.ad = c.ad ∧ t.c.time = c.time ∧
        regsKept [Reg.CLK_EVENTS_SWITCH_REFUSED.key, Reg.CLK_SW_STATUS_REFUSAL.key] s t
      else ∃ n, freeChannel c = some n ∧ if at_ < now c then rd t.c (Reg.TC_CUE_CTRL_LATE n) = 1 ∧ t.c.clk.switches = c.clk.switches ∧
        rd t.c (Reg.CLK_DOM_CTRL_SOURCE dom) = src else armed t.c n = true ∧ actionOf t.c n = 3 ∧ (at_ < 2 ^ 64 → chanTime t.c n = at_) ∧
        t.c.clk.switches = c.clk.switches ++ [⟨n, dom, src, at_⟩] ∧ (8 ≤ dom → t.c.ad = c.ad)) ∧
    Completes (.clkObsWrite value) s (fun t => done t ∧ rd t.c Reg.CLK_OBS_SRC = obs ∧ rd t.c Reg.CLK_OBS_N = bits v 8 4 ∧ is Reg.CLK_OBS_EN (bit v 12) t ∧
      is Reg.CLK_OBS_REFUSED badObs t ∧ (badObs = true → rd t.c Reg.CLK_EVENTS_OBS_REFUSED = 1)) ∧
    Completes (.fcountStart value) s (fun t => if obsFreq c obs = none then t = s else done t ∧ rd t.c Reg.CLK_FCOUNT_SEL_SRC = obs ∧
      if bit v 8 then t.c.clk = { c.clk with counting := some (now c) } ∧ rd t.c Reg.CLK_FCOUNT_VALID = 0 ∧
        is Reg.CLK_FCOUNT_GATE_XO (!rdb c Reg.CLK_STATUS_REFCLK_OK) t
      else t.c.clk = c.clk ∧ regsKept [Reg.CLK_FCOUNT_SEL_SRC.key] s t) ∧
    (c.clk.counting = none → calmTo (now c) c = true → Completes (.fcountDone khz) s (fun t => t = s)) ∧
    (∀ x, c.clk.counting = some x → calmTo (x + usTu 1000) c = true → Completes (.fcountDone khz) s (fun t => done t ∧
      t.c.clk = { c.clk with counting := none } ∧ rd t.c Reg.CLK_FCOUNT_VALID = 1 ∧ rd t.c Reg.CLK_FCOUNT_KHZ = khz.toNat)) ∧
    Completes .clkTripClear s (fun t => done t ∧ rd t.c Reg.CLK_TRIP_VALID = 0 ∧ regsKept [Reg.CLK_TRIP_VALID.key] s t ∧ t.c.clk = c.clk) ∧
    Completes (.ladderAdmission group cycle) s (fun t => done t ∧ Map.get? t.c.clk.admitted g = some admitted ∧
      if cycle.toNat < admitted then bumped (Reg.CLK_LADDER_WAITS_COUNT g) 1 s t else regsKeptButCounts [] s t) ∧
    Completes (.droop die sensor mv cycles) s (fun t => if mv.toNat < 30 then t = s else done t ∧ bumped (Reg.CLK_DROOP_EVENTS_COUNT k) 1 s t ∧
      bumped (Reg.CLK_DROOP_STRETCHED_CYCLES k) (Nat.max 32 cycles.toNat) s t ∧
      rd t.c (Reg.CLK_DROOP_WORST_MV k) = Nat.max (rd c (Reg.CLK_DROOP_WORST_MV k)) mv.toNat ∧
      (rd c (Reg.CLK_DROOP_WORST_MV k) < mv.toNat → rd t.c (Reg.CLK_DROOP_WORST_SENSOR k) = sensor.toNat)) ∧
    Completes (.coolantRead ohms temp) s (fun t => done t ∧ is Reg.CLK_COOL_OPEN (decide open_) t ∧ is Reg.CLK_COOL_SHORT (decide short) t ∧
      is Reg.CLK_COOL_VALID (decide (¬ open_ ∧ ¬ short)) t ∧ is Reg.CLK_COOL_HIGH (decide high) t ∧
      rd t.c Reg.CLK_COOL_TEMP = (if ¬ open_ ∧ ¬ short then temp.toNat else rd c Reg.CLK_COOL_TEMP) ∧
      is Reg.MGT_ALERT_CAUSE_COOL_FAULT (decide (open_ ∨ short)) t ∧ is Reg.MGT_ALERT_CAUSE_COOL_HIGH (decide high) t ∧ alert t) ∧
    ((run < 5 ∨ rd c Reg.CLK_LEAK_STATE = st) → Completes (.leakLoopRead ohms draw) s (fun t => done t ∧ read t ∧ t.c.gaf = c.gaf ∧
      rd t.c Reg.CLK_LEAK_STATE = rd c Reg.CLK_LEAK_STATE)) ∧
    (5 ≤ run → rd c Reg.CLK_LEAK_STATE ≠ st → st ≠ 2 → Completes (.leakLoopRead ohms draw) s (fun t => done t ∧ read t ∧ t.c.gaf = c.gaf ∧
      rd t.c Reg.CLK_LEAK_STATE = st ∧ is Reg.MGT_ALERT_CAUSE_LEAK_MARGINAL (st == 1) t ∧ is Reg.MGT_ALERT_CAUSE_LEAK_OPEN (st == 4) t ∧ alert t ∧
      (st = 1 → rd t.c Reg.CLK_EVENTS_LEAK_MARGINAL = 1) ∧ (st = 4 → rd t.c Reg.CLK_EVENTS_LEAK_OPEN = 1))) ∧
    (5 ≤ run → rd c Reg.CLK_LEAK_STATE ≠ st → st = 2 → c.ad.takes = [] → c.gaf.railsOff = false →
      (∀ n, n < 64 → n ≠ 32 → armed c n = false) → (∀ e ∈ c.share.clappers, e.2.2 = none) → Completes (.leakLoopRead ohms draw) s (fun t =>
      done t ∧ rd t.c Reg.CLK_LEAK_STATE = 2 ∧ rd t.c Reg.CLK_EVENTS_LEAK_WET = 1 ∧ rd t.c Reg.GAF_EVENTS_SHUTDOWN = 1 ∧ t.c.gaf.railsOff = true ∧
      t.c.pwr.rails = false ∧ t.c.flt.leakLatch = true ∧ rd t.c Reg.MGT_LINES_FAULT_DRIVEN = 1 ∧ rdb t.c Reg.FLT_STATUS_FATAL = true ∧
      rd t.c Reg.GAF_TONE_LEVEL = 0))

/-- R456 to R462: the sensors of a die are read, a cold one is excluded, and the die is judged by its valid ones; the ceiling follows the hottest; a sensor at
115 °C trips the rails and the fatal class.
Log entries 10 and 33: where the statement rests on these, it is the model's choice. -/
def Obligations.HeatIsJudged : Prop :=
  ∀ (s : State) (die : Fin 40) (cdie : Fin 8) (temps : List (BitVec 12)) (power : BitVec 16) (sensor : Fin 32),
    let c := s.c
    let k := die.toNat
    let j := cdie.toNat
    let l := (temps.take (sensorsOf k)).map (fun t => t.toNat)
    let n := 32 * k + sensor.toNat
    let ceil := fun (t : State) => rd t.c (Reg.CLK_TH_CEIL_MHZ j)
    Completes (.sensorRead die temps power) s (fun t => t.mem = s.mem ∧ t.c.tiles = c.tiles ∧
      (∀ i, i < l.length → rd t.c (Reg.CLK_TH_SENSOR_TEMP (32 * k + i)) = l.getD i 0 ∧ (l.getD i 0 + 10 < inletNow c →
        rd t.c (Reg.CLK_TH_SENSOR_EXCL_COLD (32 * k + i)) = 1 ∧ rd t.c (Reg.CLK_TH_SENSOR_VALID (32 * k + i)) = 0)) ∧
      if k < 8 then
        let few := decide ((validOf t.c k).length < 8)
        rd t.c (Reg.CLK_TH_STATE_VALID k) = (validOf t.c k).length ∧ rd t.c (Reg.CLK_TH_STATE_PINNED k) = b2n few ∧
        rd t.c (Reg.CLK_TH_STATE_TMAX k) = (if few then rd c Reg.CLK_TH_LIMIT_THROTTLE else maxNat (validOf t.c k)) % 2 ^ 12
      else
        let hot := maxNat ((List.range 32).map (fun i => maxNat (validOf t.c (8 + i))))
        rd t.c Reg.CLK_TH_OTHER_TMAX = hot % 2 ^ 12 ∧ rd t.c Reg.MGT_ALERT_CAUSE_OTHER_HOT = b2n (decide (1000 ≤ hot))) ∧
    Completes (.thermalCeilingUpdate cdie) s (fun t => t.mem = s.mem ∧ t.c.tiles = c.tiles ∧ ceil t = nextCeiling c j % 2 ^ 16 ∧
      rd t.c (Reg.CLK_TH_STATE_THROTTLED j) = b2n (decide (ceil t < 1650) || rdb c (Reg.CLK_TH_STATE_ISSUE_LIMIT j) || rdb c (Reg.CLK_TH_STATE_PINNED j)) ∧
      rd t.c (Reg.CLK_DOM_FREQ_MHZ j) = if rd c (Reg.CLK_DOM_FREQ_MHZ j) = 0 then 0 else Nat.min (rd c (Reg.CLK_DOM_FREQ_MHZ j)) (ceil t) % 2 ^ 16) ∧
    Completes (.overTemperatureTrip die sensor) s (fun t =>
      if rdb c (Reg.CLK_TH_SENSOR_EXCL_COLD n) || rdb c (Reg.CLK_TH_SENSOR_EXCL_FLAT n) || decide (sensorsOf k ≤ sensor.toNat) || c.flt.tripLatch then t = s
      else t.mem = s.mem ∧ t.c.tiles = c.tiles ∧ t.c.ad = c.ad ∧ t.c.flt.trip = some (k, sensor.toNat) ∧ t.c.flt.tripLatch = true ∧ rd t.c Reg.MGT_LINES_FAULT_DRIVEN = 1 ∧ t.c.gaf.railsOff = true ∧
        t.c.pwr.rails = false ∧ t.c.pwr.mg = (if k = 35 then 3 else c.pwr.mg) ∧ rdb t.c Reg.FLT_STATUS_FATAL = true ∧ armed t.c 32 = false)

/-! ### Faults, resets, power (R467 to R500, R530 to R534, R578, R586 to R600) -/

/-- R18, R72, R468 to R480, R492, R493, R495, R496, R499, R572: a domain reset ends the takes of the domain, zeroes its tiles and raises its generation, whether an
error, a register, a message or an escalation asks for it; the fatal class drives FAULT_n and ends every take; a link is noted; a repair is reserved, refused
and carried out; dailies are read and released; notices are posted, answered and sent again; where time passes, no cue comes first.
Log entries 6, 9, 10, 37, 61 and 62: where the statement rests on these, it is the model's choice. -/
def Obligations.FaultsAreContained : Prop :=
  ∀ (s : State) (die : Fin 8) (slot group : Fin 8) (cell : BitVec 32) (dark failed : List Nat) (us seq code : BitVec 16) (d40 : Fin 40) (b : Boot)
    (req : Req) (bs : List Byte), s.c.quiet = true → journalOk s.c = true →
    let c := s.c
    let gen1 := fun (cl : BitVec 32) => (domainGen c cl + 1) % 2 ^ 16
    let reset := fun (cl : BitVec 32) (t : State) => domainGen t.c cl = gen1 cl ∧ rd t.c Reg.FLT_EVENTS_DOMAIN_RESET = 1 ∧
      (∀ i ∈ plainTiles c cl, (∃ z, tileAt t.c i = { Tile.idle with lastSlice := z }) ∧ ∀ x, x < 0x200000 → getByte t.mem (i * 0x200000 + x) = 0) ∧
      ∀ k x, takeAt c k = some x → takeIn c (plainTiles c cl) x = true → endedAs k 0x0701 0xFFFF cl.toNat (gen1 cl) t
    let no := resetRefusal c 1 cell
    let far := Nat.xor die.toNat ([1, 2, 4, 7].getD slot.toNat 0)
    let link := 8 * (if slot.toNat < 4 then Nat.min die.toNat far else die.toNat) + slot.toNat
    let noTakes := c.ad.takes = []
    let esc := fun P => Completes (.escalation cell b) s P
    let refusal := if rdb c Reg.FLT_REPAIR_STATUS_BUSY then 3 else if c.share.spareTaken.contains die.toNat || c.flt.outC.contains die.toNat then 1 else
      if !groupExists c die.toNat group.toNat || !c.ad.suspect.contains (6 * die.toNat + group.toNat) then 2 else 0
    let dump := 16 * leAt bs 0 1 + leAt bs 1 1
    let sel := 16 * rd c Reg.FLT_DLY_SEL_DIE + rd c Reg.FLT_DLY_SEL_SLOT
    let later := fun (d : Nat) => calmTo (now c + d) c = true
    let heard := fun (typ : Nat) (t : State) => t.c.mgt.notices = c.mgt.notices.filter (fun e => e.1 != typ)
    let posted := fun (typ : Nat) (body : List Byte) (t : State) => t.mem = s.mem ∧ t.c.ad = c.ad ∧
      t.c.mgt.notices = c.mgt.notices.filter (fun e => e.1 != typ) ++ [(typ, t.c.time.mono, body)] ∧
      t.c.out.length = c.out.length + (c.mgt.sessions.filter (fun x => x.opened)).length
    Completes (.packageLinkFail die slot) s (fun t => if c.flt.outLinks.contains link then t = s else t.mem = s.mem ∧ t.c.ad = c.ad ∧
      t.c.regs = c.regs ∧ link ∈ t.c.flt.badLinks ∧ t.c.flt.outLinks = c.flt.outLinks ∧ t.c.flt.log.length = Nat.min 64 (c.flt.log.length + 1)) ∧
    (∀ ask, Completes (.domainReset cell true ask dark us failed) s (fun t => if no ≠ 0 then t = s else reset cell t)) ∧
    Completes (.domainReset cell false none dark us failed) s (fun t => if no ≠ 0 then rd t.c Reg.FLT_RESET_STATUS_REFUSAL = no ∧
      regsKept [Reg.FLT_RESET_STATUS_REFUSAL.key] s t ∧ t.mem = s.mem else reset cell t) ∧
    (servable 0x51 req c = true → Completes (.domainReset cell false (some req) dark us failed) s (fun t =>
      if no ≠ 0 then answered 0x51 req (resetReply 1 cell c) [] t ∧ t.mem = s.mem ∧ t.c.tiles = c.tiles else reset cell t)) ∧
    (cellLevel cell ≤ 2 → (isDomain c cell = false ∨ rdb c Reg.FLT_STATUS_FATAL = true) → esc (fun t => rd t.c Reg.FLT_EVENTS_ESCALATED = 1 ∧
      t.mem = s.mem ∧ t.c.tiles = c.tiles ∧ t.c.ad = c.ad ∧ t.c.flt.log.length = Nat.min 64 (c.flt.log.length + 1))) ∧
    (isDomain c cell = true → rdb c Reg.FLT_STATUS_FATAL = false →
      (cellLevel cell = 0 → esc (reset (groupCell (cellDie cell) (cellGroup cell)))) ∧ (cellLevel cell = 1 → esc (reset (dieCell (cellDie cell)))) ∧
      (cellLevel cell = 2 → c.flt.warmTimes = [] → esc (fun t => ∀ a, a < 0x18000000 → getByte t.mem a = 0))) ∧
    (cellLevel cell = 3 → noTakes → esc (fun t => rdb t.c Reg.FLT_STATUS_FATAL = true ∧ rd t.c Reg.FLT_EVENTS_ESCALATED = 1)) ∧
    (rdb c Reg.FLT_STATUS_FATAL = true → Completes (.fatal d40 code) s (fun t => t = s)) ∧
    (rdb c Reg.FLT_STATUS_FATAL = false → noTakes → Completes (.fatal d40 code) s (fun t => t.mem = s.mem ∧ rd t.c Reg.FLT_STATUS_FATAL = 1 ∧
      rd t.c Reg.FLT_EVENTS_FATAL = 1 ∧ bumped Reg.FLT_COUNT_FATAL_COUNT 1 s t ∧ rd t.c Reg.MGT_LINES_FAULT_DRIVEN = 1)) ∧
    (rdb c Reg.FLT_STATUS_FATAL = false → (∀ e ∈ c.ad.takes, e.2.stepGroup = none) → Completes (.fatal d40 code) s (fun t => t.c.flt.faultPin = true ∧
      ∀ k x, takeAt c k = some x → (x.st = .accepted ∨ x.st = .started) → endedAs k 0x0701 0xFFFF 0x30000000 (moduleGen c) t)) ∧
    Completes (.repair die group) s (fun t => t.mem = s.mem ∧ t.c.tiles = c.tiles ∧ rd t.c Reg.FLT_REPAIR_STATUS_REFUSAL = refusal ∧
      if refusal ≠ 0 then t.c.ad = c.ad ∧ t.c.flt = c.flt ∧ regsKept [Reg.FLT_REPAIR_STATUS_REFUSAL.key] s t else
        let from_ := repairStart c die.toNat
        rd t.c Reg.FLT_REPAIR_STATUS_BUSY = 1 ∧ t.c.flt = { c.flt with repair := some (die.toNat, group.toNat, from_) } ∧
        t.c.ad.reservations = ⟨1, (List.range 24).map (fun i => 24 * die.toNat + i), from_, from_ + 13108 * 2 ^ 14⟩ :: c.ad.reservations) ∧
    (c.flt.repair = none → later 0 → Completes (.repairExecute failed) s (fun t => t = s)) ∧
    (∀ k g at_, c.flt.repair = some (k, g, at_) → calmTo at_ c = true → rdb c Reg.SEC_TRNG_HEALTHY = false → Completes (.repairExecute failed) s (fun t => t.mem = s.mem ∧
      t.c.tiles = c.tiles ∧ rd t.c Reg.FLT_REPAIR_STATUS_REFUSAL = 4 ∧ rd t.c Reg.FLT_REPAIR_STATUS_BUSY = 0 ∧ t.c.flt.repair = none)) ∧
    (∀ k g at_, c.flt.repair = some (k, g, at_) → calmTo at_ c = true → k < 8 → rdb c Reg.SEC_TRNG_HEALTHY = true → noTakes → Completes (.repairExecute failed) s (fun t =>
      rd t.c Reg.FLT_REPAIR_STATUS_DONE = 1 ∧ rd t.c Reg.FLT_EVENTS_REPAIR_DONE = 1 ∧ t.c.flt.repair = none ∧ (∀ x ∈ t.c.ad.suspect, x ≠ 6 * k + g) ∧
      t.c.sec.repair ≠ none ∧ ∀ i ∈ plainTiles c (dieCell k), ∀ x, x < 0x200000 → getByte t.mem (i * 0x200000 + x) = 0)) ∧
    Completes .dailiesRelease s (fun t => t.mem = s.mem ∧ t.c.regs = c.regs ∧ Map.get? t.c.flt.dumps sel = none ∧
      ∀ k, k ≠ sel → Map.get? t.c.flt.dumps k = Map.get? c.flt.dumps k) ∧
    (servable 0x50 req c = true → bs.length = 12 → leAt bs 0 1 < 8 → leAt bs 1 1 < 16 → zerosAt bs 2 2 = true → leAt bs 8 4 ≤ 16384 →
      leAt bs 4 4 + leAt bs 8 4 ≤ 0x200000 → Completes (.dailiesRead req bs) s (fun t => t.mem = s.mem ∧ t.c.flt = c.flt ∧
        if Map.get? c.flt.dumps dump = none then answered 0x50 req 3 [] t else
          answered 0x50 req 0 (getBytes s.mem (dailiesBase (leAt bs 0 1) (leAt bs 1 1) + leAt bs 4 4) (leAt bs 8 4)) t)) ∧
    Completes (.profileAck seq) s (fun t => rd t.c Reg.FLT_PROFILE_ACK_SEQ = seq.toNat ∧ regsKept [Reg.FLT_PROFILE_ACK_SEQ.key] s t ∧ t.mem = s.mem) ∧
    (portSilent c = false → rdb c Reg.MGT_STATUS_UNHELD = false → Completes (.profile none) s (fun t => if c.flt.profileSeq = c.mgt.profiled then t = s else
        posted 0x60 (profileBytes c) t ∧ t.c.mgt.profiled = c.flt.profileSeq) ∧
      Completes (.alert none) s (fun t => if alertWord c = c.mgt.alerted then t = s else
        posted 0x61 (leBytes 4 c.mgt.alerted ++ leBytes 4 (alertWord c)) t ∧ t.c.mgt.alerted = alertWord c) ∧
      (oldestNotice c.mgt.notices = none → later 0 → Completes .noticeResend s (fun t => t = s)) ∧
      (∀ e, oldestNotice c.mgt.notices = some e → later (e.2.1 + 2 ^ 32 - c.time.mono) → Completes .noticeResend s (fun t =>
        posted e.1 e.2.2 t ∧ e.2.1 + 2 ^ 32 ≤ t.c.time.mono))) ∧
    (∀ x, portSilent c = false → mustWait c = false → findSession c req.sid.toNat = some x → x.opened = true → req.verified = true →
      x.highest < req.seq.toNat → Completes (.profile (some req)) s (heard 0x60) ∧ Completes (.alert (some req)) s (heard 0x61))

/-- R72, R468, R487 to R491, R530 to R534, R551, R578, R586 to R600, R614: a module reset is refused, or runs; a warm one leaves the scratchpads zero, a cold one
all memory; a third unasked warm reset is the fatal class; the bring-up waits at the stages the spec names; lost power departs; modes are refused, drained
to and entered. Where time passes no cue comes first, and the can's other images hash right where the boot uses them.
Log entries 1, 9, 10, 37, 38, 50, 55 and 61: where the statement rests on these, it is the model's choice. -/
def Obligations.ModuleResetsAndModes : Prop :=
  ∀ (s : State) (ask : Option Req) (b : Boot) (draw : BitVec 16), s.c.quiet = true →
    let c := s.c
    let later := fun (d : Nat) => calmTo (now c + d) c = true
    let noTakes := c.ad.takes = []
    let no := fun (k : Nat) => resetRefusal c k 0
    let wiped := fun (t : State) => ∀ a, a < 0x18000000 → getByte t.mem a = 0
    let blank := fun (t : State) => ∀ a, getByte t.mem a = 0
    let recent := (c.flt.warmTimes.filter (fun x => decide (c.time.mono ≤ x + 3600 * 2 ^ 32))).length
    let goodBoot := b.romTest = true ∧ b.identity = true ∧ b.counters = true ∧ b.mgmtSet = true ∧ b.badUnits = [] ∧ b.hold = false ∧
      b.badImages = [] ∧ c.upd.trial = false ∧ bootable b c c.upd.pointer = true
    let from_ := fun (src : Nat) (t : State) => rd t.c Reg.FLT_LAST_RESET_SOURCE = src ∧ rd t.c Reg.AD_STATUS_GENERATION = (moduleGen c + 1) % 2 ^ 16
    let warm := fun (src : Nat) (t : State) => wiped t ∧ (goodBoot → stageNow t.c = 9) ∧
      (b.romTest = false → t.c.sec.dead = some 2 ∧ t.c.flt.faultPin = true ∧ from_ src t ∧ ∀ i, tileAt t.c i = Tile.idle)
    let first := b.badImages = [] ∨ b.crystal = false
    let cold := fun (src : Nat) (t : State) => (first → blank t) ∧ (b.crystal = false → noTakes → stageNow t.c = 1 ∧ t.c.pwr.mg = 1 ∧ from_ src t)
    let refused := fun (k : Nat) (t : State) => rd t.c Reg.FLT_RESET_STATUS_REFUSAL = no k ∧ regsKept [Reg.FLT_RESET_STATUS_REFUSAL.key] s t ∧ t.mem = s.mem
    let fatal := fun (t : State) => noTakes → rd t.c Reg.FLT_STATUS_FATAL = 1 ∧ rd t.c Reg.FLT_EVENTS_ESCALATED = 1
    let gone := fun (t : State) => if c.pwr.power = false then t = s else t.mem = s.mem ∧ t.c.pwr = { c.pwr with
        power := false, rails := false, mg := 3, boot := none, lost := if rd c Reg.PWR_STATUS_MODE = 3 then 2 else 1 } ∧
      t.c.flt.log.length = Nat.min 64 (c.flt.log.length + 1) ∧
      (rd c Reg.PWR_STATUS_MODE ≠ 3 → rd t.c Reg.FLT_STATUS_DEPARTING = 1 ∧ ∀ e ∈ t.c.tiles, e.2.inReset = true ∧ e.2.queues = [])
    let drainTo := fun (m : Nat) (t : State) => t.mem = s.mem ∧ t.c.ad = c.ad ∧ rd t.c Reg.PWR_REFUSAL_CODE = pwrRefusal c (m + 1) ∧
      if pwrRefusal c (m + 1) ≠ 0 then rd t.c Reg.PWR_EVENTS_REFUSED = 1 ∧ t.c.pwr = c.pwr ∧ t.c.time = c.time else
        t.c.pwr = { c.pwr with target := some (m, c.time.mono) } ∧ rd t.c Reg.PWR_STATUS_DRAINING = b2n (rd c Reg.PWR_STATUS_MODE == 0)
    Completes (.moduleWarmReset ask true b) s (fun t => if no 2 ≠ 0 then t = s else if recent < 2 then warm 4 t else fatal t) ∧
    Completes (.moduleWarmReset none false b) s (fun t => if no 2 ≠ 0 then refused 2 t else warm 2 t) ∧
    Completes (.moduleColdReset none b) s (fun t => if no 3 ≠ 0 then refused 3 t else cold 3 t) ∧
    (∀ r, servable 0x51 r c = true →
      Completes (.moduleWarmReset (some r) false b) s (fun t => if no 2 ≠ 0 then answered 0x51 r (resetReply 2 0 c) [] t ∧ t.mem = s.mem else warm 2 t) ∧
      Completes (.moduleColdReset (some r) b) s (fun t => if no 3 ≠ 0 then answered 0x51 r (resetReply 3 0 c) [] t ∧ t.mem = s.mem else cold 3 t)) ∧
    Completes (.resetN b) s (fun t => if c.pwr.power = false ∨ c.pwr.mg = 2 then t = s else cold 1 t) ∧
    Completes (.powerOn b) s (fun t => if c.pwr.power then t = s else (first → blank t) ∧ t.c.pwr.lost = 0 ∧ (c.pwr.lost = 1 → b.crystal = false → noTakes →
      rd t.c Reg.FLT_EVENTS_POWER_LOSS = 1) ∧ (b.crystal = false → noTakes → stageNow t.c = 1 ∧ from_ 0 t) ∧
      (goodBoot → b.crystal = true → noTakes → stageNow t.c = 3)) ∧
    Completes (.powerReturn b) s (fun t => if c.pwr.power || !rdb c Reg.FLT_STATUS_DEPARTING then t = s else cold 6 t ∧
      rd t.c Reg.FLT_EVENTS_POWER_LOSS = 1 ∧ t.c.pwr.lost = 0) ∧
    Completes .inputPowerLoss s gone ∧ Completes .overvoltage s gone ∧
    let idle := !rdb c Reg.MGT_STATUS_UNHELD || c.sec.dead.isSome || c.pwr.mg != 0
    (idle = true → later 0 → Completes (.noUnitTimeout b) s (fun t => t = s)) ∧
    (idle = false → later (c.mgt.unheldAt + 10 * 2 ^ 32 - c.time.mono) → Completes (.noUnitTimeout b) s (fun t => if no 2 ≠ 0 then t.mem = s.mem ∧ t.c.tiles = c.tiles ∧ rd t.c Reg.MGT_EVENTS_NO_UNIT = 1 else c.flt.warmTimes = [] → warm 4 t)) ∧
    (c.pwr.boot = none ∨ stageNow c ≠ 3 → Completes .startOk s (fun t => t.mem = s.mem ∧ rd t.c Reg.MGT_LINES_START_OK = 1 ∧
      regsKept [Reg.MGT_LINES_START_OK.key] s t)) ∧
    (∀ bt, c.pwr.boot = some bt → stageNow c = 3 → bt.badImages = [] → Completes .startOk s (fun t => t.mem = s.mem ∧ (noTakes → stageNow t.c = if rd c Reg.CLK_LEAK_STATE = 2 then 3 else if rdb c Reg.CLK_STATUS_REFCLK_OK then 9 else 5))) ∧
    (stageNow c ≠ 9 ∨ linksReady c = false → later 0 → Completes .ready s (fun t => t = s)) ∧
    (stageNow c = 9 → linksReady c = true → later (if portsReady c then 0 else c.pwr.s5 + 2 * 2 ^ 32 - c.time.mono) → Completes .ready s (fun t => t.mem = s.mem ∧ t.c.ad = c.ad ∧ stageNow t.c = 10 ∧
      rd t.c Reg.PWR_EVENTS_READY = 1 ∧ t.c.pwr.ts = none ∧ t.c.mgt.notices.any (fun e => e.1 == 0x60) = true)) ∧
    (pwrRefusal c 1 ≠ 0 → later 0 → Completes .pwrRun s (fun t => t.mem = s.mem ∧ rd t.c Reg.PWR_REFUSAL_CODE = pwrRefusal c 1 ∧
      rd t.c Reg.PWR_EVENTS_REFUSED = 1 ∧ t.c.pwr = c.pwr ∧ t.c.time = c.time)) ∧
    (pwrRefusal c 1 = 0 → noTraffic c = true → calmTo (roundUp (now c) (2 ^ 22)) c = true → Completes .pwrRun s (fun t => t.mem = s.mem ∧
      rd t.c Reg.PWR_REFUSAL_CODE = 0 ∧ rd t.c Reg.PWR_STATUS_MODE = 0 ∧ rd t.c Reg.PWR_EVENTS_MODE_CHANGED = 1 ∧ rd t.c Reg.GAF_CLOCK_ACTUAL = 400)) ∧
    Completes .pwrSleep s (drainTo 1) ∧ Completes .pwrDeepSleep s (drainTo 2) ∧ Completes .pwrPowerDown s (drainTo 3) ∧
    (c.pwr.target = none ∨ openTake c = true → Completes (.modeApply draw) s (fun t => t = s)) ∧
    (∀ m z, c.pwr.target = some (m, z) → openTake c = false → noTraffic c = true →
      (∀ n, n < 64 → armed c n = true → rd c (Reg.TC_CUE_CTRL_PHASE_MODE n) = 0) →
      let low := now c + lowerTime draw.toNat c
      let goal := if m = 3 then low else roundUp low (2 ^ 22)
      goal < 2 ^ 64 → calmTo goal c = true → Completes (.modeApply draw) s (fun t => t.mem = s.mem ∧ t.c.pwr.target = none ∧ rd t.c Reg.PWR_STATUS_DRAINING = 0 ∧
          rd t.c Reg.PWR_STATUS_MODE = m % 4 ∧ rd t.c Reg.PWR_EVENTS_MODE_CHANGED = 1 ∧ (m = 3 → t.c.pwr.rails = false ∧ t.c.gaf.railsOff = true))) ∧
    (c.pwr.target = none ∨ rdb c Reg.PWR_STATUS_DRAINING = false → later 0 → Completes .drainLimit s (fun t => t = s)) ∧
    (∀ m z, c.pwr.target = some (m, z) → rdb c Reg.PWR_STATUS_DRAINING = true → later (z + rd c Reg.PWR_CTRL_DRAIN_S * 2 ^ 32 - c.time.mono) →
      Completes .drainLimit s (fun t => if openTake c = false then t.c.regs = c.regs ∧ t.c.ad = c.ad ∧ t.mem = s.mem ∧ z + rd c Reg.PWR_CTRL_DRAIN_S * 2 ^ 32 ≤ t.c.time.mono else
          journalOk c = true → ∀ k x, takeAt c k = some x → (x.st = .accepted ∨ x.st = .started) → endedAs k 0x0601 0xFFFF (capNow c) (clockNow c) t))

/-! ### Security and updates (R517 to R561) -/

/-- R72, R520, R524 to R526, R529, R535 to R541, R556, R557: a record or a token is checked in order, refused with the code of the first check that fails, or stored,
or granted; permissions end; a slice key is made or imported, and kept wrapped; the TRNG's state shows; quotes are signed; a JTAG instruction takes effect as its class
allows; where time passes, no cue comes first.
Log entries 6, 9, 10, 34, 40 and 57: where the statement rests on these, it is the model's choice. -/
def Obligations.RecordsKeysAndQuotesAreGuarded : Prop :=
  ∀ (s : State) (req : Req) (bs : List Byte) (x : RecContent) (sigOk sealOk : Bool) (instr : Fin 7),
    let c := s.c
    let same := fun (t : State) => t.mem = s.mem ∧ t.c.tiles = c.tiles ∧ t.c.ad = c.ad ∧ t.c.upd = c.upd
    let reply := fun (i : Instr) (typ status : Nat) (pl : List Byte) (P : State → Prop) => servable typ req c = true → Completes i s (fun t => same t ∧
      answered typ req status pl t ∧ P t)
    let coded := fun (i : Instr) (typ code : Nat) (P : State → Prop) => reply i typ (0x0200 + code) [] (fun t => rd t.c Reg.SEC_REFUSAL_CODE = code ∧ P t)
    let still := fun (t : State) => t.c.sec = c.sec ∧ t.c.memory = c.memory
    let r := recordCode c bs x sigOk
    let d := tokenCode c bs sigOk
    let due := rd64 c Reg.SEC_DEBUG_END_LO_TIME Reg.SEC_DEBUG_END_HI_TIME
    let ended := fun (t : State) => rd t.c Reg.SEC_STATUS_DEBUG_ACTIVE = 0 ∧ rd t.c Reg.SEC_DEBUG_PERMS = 0 ∧ rd t.c Reg.SEC_DEBUG_EPOCH = 0 ∧
      rd64 t.c Reg.SEC_DEBUG_END_LO_TIME Reg.SEC_DEBUG_END_HI_TIME = 0 ∧ (due < 2 ^ 64 → due ≤ now t.c)
    let trng := rdb c Reg.SEC_TRNG_HEALTHY
    let encrypts := rdb c Reg.MEM_ENC_CTRL_ACTIVE
    let keyless := c.memory.sliceKey = none
    let make := Instr.sliceKeyGenerate req bs
    let open_ := Instr.sliceKeyImportOpen req bs
    let take := Instr.sliceKeyImport req bs sealOk
    let keyed := fun (t : State) => rd t.c Reg.MEM_ENC_CTRL_KEY_PRESENT = 1 ∧ rd t.c Reg.SEC_EVENTS_KEY_LOADED = 1 ∧
      ∃ k nonce, k.length = 64 ∧ nonce.length = 12 ∧ t.c.memory = { c.memory with sliceKey := some k } ∧
        t.c.sec.wrapped = nonce ++ gcmSeal wrapKey nonce [] k
    let later := fun (d : Nat) => calmTo (now c + d) c = true
    let shut := fun (t : State) => t.c.sec = { c.sec with importAt := none, binding := [], importSeed := [], wrapped := t.c.sec.wrapped } ∧
      rd t.c Reg.SEC_STATUS_IMPORT_OPEN = 0
    let live := ∃ z, c.sec.importAt = some z ∧ c.time.mono < z + 60 * 2 ^ 32
    let form := fun (n k : Nat) => bs.length = n ∧ leAt bs 0 1 = k
    let alert := fun (b : Bool) (t : State) => same t ∧ still t ∧ rd t.c Reg.SEC_TRNG_HEALTHY = b2n !b ∧ rd t.c Reg.MGT_ALERT_CAUSE_TRNG_FAIL = b2n b ∧
      rd t.c Reg.MGT_LINES_ALERT_DRIVEN = b2n (alertCauses.any (rdb t.c))
    let eff := jtagEffect c instr
    (r ≠ 0 → coded (.recordLoad req bs x sigOk) 0x41 r (fun t => still t ∧ rd t.c Reg.SEC_EVENTS_RECORD_REFUSED = 1)) ∧
    (r = 0 → coded (.recordLoad req bs x sigOk) 0x41 0 (fun t => rd t.c Reg.SEC_EVENTS_RECORD_LOADED = 1 ∧ t.c.memory = c.memory ∧ if leAt bs 4 1 = 2 then
      t.c.sec = { c.sec with cfg := some { bytes := bs, content := x } } ∧ rd t.c Reg.SEC_STATUS_CFG_OK = 1 ∧ rd t.c Reg.SEC_RECORD_SEQ_CFG_SEQ = leAt bs 16 2 else
      t.c.sec = { c.sec with repair := some { bytes := bs, content := x } } ∧ rd t.c Reg.SEC_STATUS_REPAIR_OK = 1 ∧
        rd t.c Reg.SEC_RECORD_SEQ_REPAIR_SEQ = leAt bs 16 2 ∧ rd t.c Reg.SEC_STATUS_REPAIR_SELF = b2n (leAt bs 6 2 == 0xFF))) ∧
    (d ≠ 0 → coded (.debugToken req bs sigOk) 0x42 d (fun t => still t ∧ rd t.c Reg.SEC_EVENTS_DEBUG_REFUSED = 1)) ∧
    (d = 0 → coded (.debugToken req bs sigOk) 0x42 0 (fun t => t.c.sec = { c.sec with m6 := sha3_256 (m6Now c ++ sha3_256 bs) } ∧
      rd t.c Reg.SEC_STATUS_DEBUG_ACTIVE = 1 ∧ rd t.c Reg.SEC_DEBUG_PERMS = leAt bs 20 4 ∧ rd t.c Reg.SEC_DEBUG_EPOCH = leAt bs 16 2 ∧
      rd64 t.c Reg.SEC_DEBUG_END_LO_TIME Reg.SEC_DEBUG_END_HI_TIME = leAt bs 32 8 ∧ rd t.c Reg.SEC_EVENTS_DEBUG_ON = 1)) ∧
    (rdb c Reg.SEC_STATUS_DEBUG_ACTIVE = false → later 0 → Completes .debugTokenExpiry s (fun t => t = s)) ∧
    (rdb c Reg.SEC_STATUS_DEBUG_ACTIVE = true → calmTo due c = true → Completes .debugTokenExpiry s (fun t => same t ∧ ended t ∧
      t.c.sec = { c.sec with jtag := if c.sec.jtag = 6 then 0 else c.sec.jtag })) ∧
    (¬ form 1 1 → coded make 0x43 8 still) ∧
    (form 1 1 → encrypts = false → reply make 0x43 3 [] still) ∧
    (form 1 1 → encrypts = true → ¬ keyless → coded make 0x43 0x14 still) ∧
    (form 1 1 → encrypts = true → keyless → trng = false → reply make 0x43 3 [] still) ∧
    (form 1 1 → encrypts = true → keyless → trng = true → coded make 0x43 0 (fun t => keyed t ∧ t.c.sec = { c.sec with wrapped := t.c.sec.wrapped })) ∧
    (¬ form 1 2 → coded open_ 0x43 8 still) ∧
    (form 1 2 → trng = false → reply open_ 0x43 3 [] still) ∧
    (form 1 2 → trng = true → servable 0x43 req c = true → Completes open_ s (fun t => same t ∧ rd t.c Reg.SEC_STATUS_IMPORT_OPEN = 1 ∧ t.c.memory = c.memory ∧
      ∃ seed, seed.length = 64 ∧ (kemKey seed).length = 1184 ∧ answered 0x43 req 0x0200 (kemKey seed) t ∧
        t.c.sec = { c.sec with importAt := some c.time.mono, binding := sha3_256 (kemKey seed), importSeed := seed })) ∧
    (¬ form 1169 3 → coded take 0x43 8 still) ∧
    (form 1169 3 → ¬ live → coded take 0x43 0x13 still) ∧
    (form 1169 3 → live → encrypts = false → reply take 0x43 3 [] still) ∧
    (form 1169 3 → live → encrypts = true → ¬ keyless → coded take 0x43 0x14 still) ∧
    (form 1169 3 → live → encrypts = true → keyless → coded take 0x43 (if sealOk then 0 else 2) (fun t => shut t ∧
      if sealOk then keyed t ∧ t.c.memory.sliceKey = some (importedKey c (sub bs 1 1088) (sub bs 1089 80)) else
        t.c.memory = c.memory ∧ t.c.sec.wrapped = c.sec.wrapped)) ∧
    (c.sec.importAt = none → later 0 → Completes .importTimeout s (fun t => t = s)) ∧
    (∀ z, c.sec.importAt = some z → later (z + 60 * 2 ^ 32 - c.time.mono) → Completes .importTimeout s (fun t =>
      same t ∧ shut t ∧ t.c.sec.wrapped = c.sec.wrapped ∧ z + 60 * 2 ^ 32 ≤ t.c.time.mono)) ∧
    Completes .trngFail s (fun t => alert true t ∧ rd t.c Reg.SEC_EVENTS_TRNG_FAIL = 1) ∧ Completes .trngHealthy s (alert false) ∧
    (bs.length ≠ 32 → reply (.attest req bs) 0x40 2 [] still) ∧
    (bs.length = 32 → quoteFree c = false → reply (.attest req bs) 0x40 4 [] still) ∧
    (bs.length = 32 → quoteFree c = true → trng = false → reply (.attest req bs) 0x40 3 [] still) ∧
    (bs.length = 32 → quoteFree c = true → trng = true → servable 0x40 req c = true → Completes (.attest req bs) s (fun t => same t ∧
      bumped Reg.SEC_QUOTES_COUNT 1 s t ∧ t.c.sec = { c.sec with quotes := (c.time.mono :: c.sec.quotes).take 10 } ∧
      let body := quoteHead bs c ++ dsa44Key c.sec.aliasSeed ++ aliasCert c
      ∃ rnd, rnd.length = 32 ∧ (quoteHead bs c).length = 352 ∧ body.length = 4084 ∧ answered 0x40 req 0 (body ++ dsa44Sign c.sec.aliasSeed body rnd) t)) ∧
    Completes (.jtagInstruction instr) s (fun t => same t ∧ t.c.regs = c.regs ∧ t.c.sec = { c.sec with jtag := eff } ∧
      t.c.out = if eff = 1 then .word (rd c Reg.SEC_JTAG_ID_IDCODE) :: c.out else c.out)

/-- R72, R542 to R555, R558: a splice's pieces and chunks are checked, refused or written, by the management port or over Ethernet; a full slot is verified;
activation is armed, cancelled and carried out in its turn; the health window commits or reverts; recovery writes a can and ends in a cold reset. What goes out over
Ethernet leaves at once; where time passes, no cue comes first.
Log entries 6, 9, 10, 21, 34 and 60: where the statement rests on these, it is the model's choice. -/
def Obligations.SplicesActivateAndRecover : Prop :=
  ∀ (s : State) (req : Req) (bs : List Byte) (sigOk wraps : Bool) (k : BitVec 16) (b : Boot),
    let c := s.c
    let same := fun (t : State) => t.mem = s.mem ∧ t.c.tiles = c.tiles ∧ t.c.ad = c.ad ∧ t.c.sec = c.sec
    let ethOpen := (rdb c Reg.UPD_ETH_EN && !rdb c Reg.SEC_STATUS_RECOVERY && c.sec.dead.isNone && c.pwr.mg == 0) = true
    let item := fun (mk : Via → Instr) (code : Nat) (P : State → Prop) =>
      let Q := fun (t : State) => same t ∧ rd t.c Reg.UPD_REFUSAL_CODE = code ∧ P t
      (servable 0x44 req c = true → Completes (mk (.port req)) s (fun t => Q t ∧ ∃ pl, pl.length = 8 ∧ answered 0x44 req (0x0200 + code) pl t)) ∧
      ∀ p,
        let into := takeFrames p.ipv4 .sealed 0 (framesOf bs.length) c
        (into.1 = true → ethOpen → txOpen (rd c Reg.ETH_PRIO_REEL_PRIO) .sealed c = true → Completes (mk (.eth p)) s (fun t => Q t ∧ ∃ pl, pl.length = 8 ∧
          t.c.out = .eth 3 p.addr.toNat p.port.toNat (mgmtHeader 0x44 0 (0x0200 + code) 8 true ++ pl) :: c.out)) ∧
        (into.1 = true → ¬ ethOpen → Completes (mk (.eth p)) s (fun t => t = { s with c := bump Reg.ETH_RX_DROP_ADDR_COUNT 1 into.2 })) ∧
        (into.1 = false → Completes (mk (.eth p)) s (fun t => t = { s with c := into.2 }))
    let piece := item (fun v => .manifestPiece v bs sigOk)
    let chunk := item (fun v => .dataChunk v bs)
    let still := fun (t : State) => t.c.upd = c.upd
    let later := fun (d : Nat) => calmTo (now c + d) c = true
    let idx := leAt bs 4 4
    let data := bs.drop 8
    let head := fun (n : Nat) => 8 ≤ bs.length ∧ leAt bs 0 1 = n ∧ zerosAt bs 1 3 = true
    let pieceOk := head 1 ∧ data.length ≤ 16384 ∧ data.isEmpty = false
    let next := idx = 0 ∨ idx = c.upd.nextPiece
    let soon := tooSoon c data.length
    let all := (if idx = 0 then [] else c.upd.pieces) ++ data
    let noted := some (c.time.mono, data.length)
    let whole := fun (n : Nat) => manifestLen all = some n ∧ (n ≤ all.length ∨ data.length ≠ 16384)
    let cut := { c.upd with pieces := [], nextPiece := 0, lastItem := noted }
    let m := manifestCode c all sigOk
    let sp := spareSlot c
    let failed := fun (t : State) => (slotNo t.c sp).failed = true ∧ slotState t.c sp = 0 ∧ t.c.upd.manifest = none ∧ rd t.c Reg.UPD_EVENTS_SLOT_FAILED = 1
    let busy := (activationArmed c || inHealth c) = true
    (¬ pieceOk → piece 8 still) ∧
    (pieceOk → ¬ next → piece 0xA still) ∧
    (pieceOk → next → soon = true → piece 1 still) ∧
    (pieceOk → next → soon = false → data.length = 16384 → (∀ n, ¬ whole n) →
      piece 0 (fun t => t.c.upd = { c.upd with pieces := all, nextPiece := idx + 1, lastItem := noted })) ∧
    (pieceOk → next → soon = false → data.length ≠ 16384 → manifestLen all = none → piece 8 (fun t => t.c.upd = cut)) ∧
    (∀ n, pieceOk → next → soon = false → whole n → m ≠ 0 → piece m (fun t => t.c.upd = cut)) ∧
    (∀ n, pieceOk → next → soon = false → whole n → m = 0 → piece 0 (fun t => t.c.upd.manifest = some (manifestOf all) ∧ t.c.upd.bitmap = 0 ∧
      slotNo t.c sp = Slot.empty ∧ slotState t.c sp = 1 ∧ rd t.c Reg.UPD_EVENTS_MANIFEST_ACCEPTED = 1 ∧ t.c.upd.nor = c.upd.nor)) ∧
    (¬ head 2 → chunk 8 still) ∧
    (head 2 → c.upd.manifest = none → chunk 0xA still) ∧
    (∀ mf, head 2 → c.upd.manifest = some mf →
      (mf.chunks[idx]? = none → chunk 0xA still) ∧
      (∀ op off hash, mf.chunks[idx]? = some (op, off, hash) →
        (op ≠ 2 → chunk 0xA still) ∧
        (op = 2 → bit c.upd.bitmap idx = true → chunk 0 still) ∧
        (op = 2 → bit c.upd.bitmap idx = false →
          (data.length ≠ chunkLen mf idx → chunk 8 still) ∧
          (data.length = chunkLen mf idx → soon = true → chunk 1 still) ∧
          (data.length = chunkLen mf idx → soon = false → sha3_256 data ≠ hash → chunk 9 (fun t => t.c.upd.bitmap = c.upd.bitmap ∧
            t.c.upd.lastItem = c.upd.lastItem ∧ bumped Reg.UPD_CHUNKS_BAD_COUNT 1 s t)) ∧
          (data.length = chunkLen mf idx → soon = false → sha3_256 data = hash → chunk 0 (fun t => t.c.upd.bitmap = c.upd.bitmap + 2 ^ idx ∧
            t.c.upd.lastItem = noted ∧ norBytes t.c (slotBase sp + 16384 * idx) data.length = data))))) ∧
    Completes (.localChunkBuild k) s (fun t => same t ∧ match c.upd.manifest.bind (fun mf => mf.chunks[k.toNat]?.map (fun e => (chunkLen mf k.toNat, e))) with
      | none => t = s
      | some (n, op, off, hash) =>
        let built := if op = 1 then norBytes c (slotBase (bootedSlot c) + off) n else List.replicate n 0
        if op = 2 ∨ bit c.upd.bitmap k.toNat = true then t = s else
          norBytes t.c (slotBase sp + 16384 * k.toNat) n = built ∧ if sha3_256 built = hash then t.c.upd.bitmap = c.upd.bitmap + 2 ^ k.toNat else failed t) ∧
    Completes (.slotVerify sigOk) s (fun t => same t ∧ t.c.upd.nor = c.upd.nor ∧ match c.upd.manifest with
      | none => t = s
      | some mf => if slotState c sp ≠ 1 ∨ popCount c.upd.bitmap mf.n ≠ mf.n then t = s else
          if (slotFromNor c sp).digest = mf.digest ∧ canCode c (slotBase sp) sigOk = 0 then slotState t.c sp = 2 ∧ slotNo t.c sp = slotFromNor c sp ∧
            rd t.c Reg.UPD_EVENTS_SLOT_READY = 1 else failed t) ∧
    Completes .spliceAbandon s (fun t => same t ∧ if busy then still t ∧ rd t.c Reg.UPD_REFUSAL_CODE = 0xB else t.c.upd.manifest = none ∧ t.c.upd.bitmap = 0 ∧
      t.c.upd.pieces = [] ∧ slotNo t.c sp = Slot.empty ∧ slotState t.c sp = 0) ∧
    (∀ i ∈ [Instr.activateAt req bs, .activateCancel req bs], servable 0x45 req c = true →
      let ends := fun (code : Nat) (P : State → Prop) => Completes i s (fun t => same t ∧ still t ∧ answered 0x45 req (0x0200 + code) [] t ∧
        rd t.c Reg.UPD_REFUSAL_CODE = code ∧ P t)
      let form := bs.length = 16 ∧ zerosAt bs 2 6 = true
      let code := activateCode c (leAt bs 1 1) (leAt bs 8 8)
      let kept := fun (t : State) => regsKept [Reg.UPD_REFUSAL_CODE.key, Reg.MGT_REQUESTS_COUNT.key] s t
      (¬ form → ends 8 kept) ∧ (form → leAt bs 0 1 ≠ 1 → leAt bs 0 1 ≠ 2 → ends 8 kept) ∧ (form → leAt bs 0 1 = 1 → 1 < leAt bs 1 1 → ends 8 kept) ∧
      (form → leAt bs 0 1 = 1 → leAt bs 1 1 ≤ 1 → code ≠ 0 → ends code kept) ∧
      (form → leAt bs 0 1 = 1 → leAt bs 1 1 ≤ 1 → code = 0 → ends 0 (fun t => rd t.c Reg.AD_STATUS_ACTIVATION_HOLD = 1 ∧ armed t.c 44 = true ∧ chanTime t.c 44 = leAt bs 8 8 ∧
        rd t.c (Reg.TC_CUE_ARG 44) = leAt bs 1 1 ∧ rd64 t.c Reg.UPD_CUE_LO_TIME Reg.UPD_CUE_HI_TIME = leAt bs 8 8 ∧ rd t.c Reg.UPD_EVENTS_ARMED = 1)) ∧
      (form → leAt bs 0 1 = 2 → ends 0 (fun t => activationArmed t.c = false ∧ (activationArmed c = true → armed t.c 44 = false)))) ∧
    let noRow := (List.range 8).all (fun d => c.share.spareTaken.contains d || c.flt.outC.contains d) = true
    (c.upd.healthAt = none ∨ inHealth c = false → later 0 → Completes (.acceptanceTake wraps) s (fun t => t = s) ∧
      Completes (.healthWindowEnd b) s (fun t => t = s)) ∧
    (rdb c Reg.UPD_HEALTH_TAKE_WRAPPED = true ∨ noRow → later 0 → Completes (.acceptanceTake wraps) s (fun t => t = s)) ∧
    (∀ z, c.upd.healthAt = some z → inHealth c = true → rdb c Reg.UPD_HEALTH_TAKE_WRAPPED = false → ¬ noRow → later (z + 45 * 2 ^ 32 - c.time.mono) →
      Completes (.acceptanceTake wraps) s (fun t => same t ∧ still t ∧ rd t.c Reg.UPD_HEALTH_ACCEPTANCE_RUN = 1 ∧ rd t.c Reg.UPD_HEALTH_TAKE_WRAPPED = b2n wraps ∧
        z + 45 * 2 ^ 32 ≤ t.c.time.mono)) ∧
    (c.quiet = true →
      let svn := (slotNo c (bootedSlot c)).svn
      let wiped := fun (t : State) => ∀ a, a < 0x18000000 → getByte t.mem a = 0
      let due := dueAt c 44
      (∀ z, c.upd.healthAt = some z → inHealth c = true → later (z + 60 * 2 ^ 32 - c.time.mono) → Completes (.healthWindowEnd b) s (fun t =>
        if (rdb c Reg.UPD_HEALTH_BOOTED && partsKept c && rdb c Reg.UPD_HEALTH_TAKE_WRAPPED) = true then same t ∧ rd t.c Reg.UPD_STATUS_TRIAL = 0 ∧
          rd t.c Reg.UPD_HEALTH_PASSED = 1 ∧ rd t.c Reg.UPD_EVENTS_COMMITTED = 1 ∧ t.c.upd.trial = false ∧ t.c.upd.healthAt = none ∧
          z + 60 * 2 ^ 32 ≤ t.c.time.mono ∧ rd t.c (Reg.SEC_ARC_VALUE 0) = (if rd c (Reg.SEC_ARC_VALUE 0) < svn then svn % 2 ^ 9 else rd c (Reg.SEC_ARC_VALUE 0)) else
        c.flt.warmTimes = [] → wiped t)) ∧
      ((activationArmed c && armed c 44) = false → Completes (.activateFirmwareSlot b) s (fun t => t = s)) ∧
      (activationArmed c = true → armed c 44 = true → actionOf c 44 = 4 → due < 2 ^ 64 → nextCue c due = some (due, .chan 44) →
        Completes (.activateFirmwareSlot b) s (fun t =>
          if (rdb c Reg.FLT_STATUS_FATAL || rdb c Reg.FLT_STATUS_DEPARTING) = true then same t ∧ still t ∧ activationArmed t.c = false ∧ armed t.c 44 = false else
            wiped t ∧ (b.romTest = false → t.c.upd.pointer = rd c (Reg.TC_CUE_ARG 44) ∧ t.c.upd.trial = true ∧ rd t.c Reg.FLT_LAST_RESET_SOURCE = 5)))) ∧
    (servable 0x46 req c = true →
      let len := leAt bs 4 4
      let n := ceilDiv len 16384
      let at_ := leAt bs 0 4
      let recovers := rdb c Reg.SEC_STATUS_RECOVERY = true
      let lenOk := 0 < len ∧ len ≤ 0x1E000000 ∧ 8 ≤ bs.length
      let size := if at_ + 1 = n then len - 16384 * (n - 1) else 16384
      let ends := fun (status : Nat) (pl : List Byte) (P : State → Prop) => Completes (.recovery req bs sigOk) s (fun t => same t ∧ answered 0x46 req status pl t ∧ P t)
      let count := fun (bm : Nat) => leBytes 4 (popCount bm n)
      let old := if c.upd.recLen = len then c.upd.recBitmap else 0
      let bm := if bit old at_ then old else old + 2 ^ at_
      let rs := recoverySlot c
      let base := slotBase rs + 16384 * at_
      let code := canCode (norWrite base data c) (slotBase rs) sigOk
      let goes := recovers ∧ lenOk ∧ at_ < n ∧ data.length = size
      (¬ recovers → ends 3 [] still) ∧ (recovers → ¬ lenOk → ends 0x0208 (count c.upd.recBitmap) still) ∧
      (recovers → lenOk → n ≤ at_ → ends 0x020A (count c.upd.recBitmap) still) ∧
      (recovers → lenOk → at_ < n → data.length ≠ size → ends 0x0208 (count c.upd.recBitmap) still) ∧
      (goes → popCount bm n ≠ n → ends 0x0200 (count bm) (fun t => t.c.upd.recBitmap = bm ∧ t.c.upd.recLen = len ∧ slotState t.c rs = 1 ∧
        norBytes t.c base data.length = data)) ∧
      (goes → popCount bm n = n → code ≠ 0 → ends (0x0200 + code) (count bm) (fun t => t.c.upd.recBitmap = 0 ∧ t.c.upd.recLen = 0 ∧
        norBytes t.c base data.length = data)) ∧
      (goes → popCount bm n = n → code = 0 → rdb c Reg.FLT_STATUS_RESET_BUSY = false →
        Completes (.recovery req bs sigOk) s (fun t => (∀ a, a < 0x18000000 → getByte t.mem a = 0) ∧
          ((Config.freeBoot c.freeCtr).badImages = [] ∨ (Config.freeBoot c.freeCtr).crystal = false → ∀ a, getByte t.mem a = 0))))

/-! ### The management port (R562 to R583) -/

/-- R562 to R564, R568, R569, R575: every request is admitted alike, whatever it asks: nothing is answered by a dead or unpowered unit; a request waits while no
unit holds the token; one without a keyed session, one that does not verify and a replay are counted and dropped; a number that was answered is answered again
from the store; an older number, one above the rate, and a type that recovery does not let through are refused; the first verified one opens its session.
Log entries 5, 10 and 65: where the statement rests on these, it is the model's choice. -/
def Obligations.RequestsAreAdmittedOnce : Prop :=
  ∀ (s : State) (req : Req) (bs : List Byte) (x : RecContent) (b1 b2 : Bool),
    let c := s.c
    let rows : List (Nat × Instr) := [(0x03, .bye req bs), (0x04, .traySecret req bs), (0x10, .inventoryGet req bs), (0x11, .sensorGet req bs),
      (0x12, .stateGet req bs), (0x13, .regRead req bs), (0x14, .regWrite req bs), (0x20, .contractCapSet req bs), (0x20, .capLimitsSet req bs),
      (0x20, .protectiveCapSet req bs), (0x20, .protectiveCapClear req bs), (0x20, .capstepValueSet req bs), (0x21, .slopeSet req bs),
      (0x22, .callSheet req bs), (0x23, .lease req bs), (0x24, .gridPhase req bs), (0x30, .sliceAssign req bs), (0x31, .cellWrite req bs),
      (0x32, .imageLoad req bs), (0x33, .imageFree req bs), (0x34, .fenceSet req bs), (0x34, .fenceClear req bs), (0x35, .remap req bs),
      (0x40, .attest req bs), (0x41, .recordLoad req bs x b1), (0x42, .debugToken req bs b1), (0x43, .sliceKeyGenerate req bs),
      (0x43, .sliceKeyImportOpen req bs), (0x43, .sliceKeyImport req bs b2), (0x44, .manifestPiece (.port req) bs b1), (0x44, .dataChunk (.port req) bs),
      (0x45, .activateAt req bs), (0x45, .activateCancel req bs), (0x46, .recovery req bs b1), (0x50, .dailiesRead req bs)]
    let used := sumNat (c.mgt.waiting.map (fun e => e.2)) + (bs.length + 44)
    let sid := req.sid.toNat
    let num := req.num.toNat
    let counted := fun (f : Fld) (t : State) => bumped f 1 s t ∧ t.mem = s.mem ∧ t.c.tiles = c.tiles ∧ t.c.ad = c.ad ∧ t.c.out = c.out
    let dropped := fun (f : Fld) (t : State) => counted f t ∧ regsKept [f.key] s t ∧ t.c.mgt = c.mgt
    let refused := fun (typ status : Nat) (t : State) => answered typ req status [] t ∧ t.mem = s.mem ∧ t.c.tiles = c.tiles ∧ t.c.ad = c.ad ∧
      regsKept [Reg.MGT_REQUESTS_COUNT.key] s t
    let ready := portSilent c = false ∧ mustWait c = false
    let sessions := (c.mgt.sessions.filter (fun y => y.opened)).length
    (∀ e ∈ rows,
      (portSilent c = true → Completes e.2 s (fun t => t = s)) ∧
      (portSilent c = false → mustWait c = true → Completes e.2 s (fun t => if used ≤ 65536 then
        t = onCtl (onMgt (fun m => { m with waiting := m.waiting ++ [(e.2, bs.length + 44)] })) s else t = s)) ∧
      (ready → (∀ y, findSession c sid = some y → y.keyed = false) → Completes e.2 s (dropped Reg.MGT_RX_DROP_AUTH_COUNT)) ∧
      (∀ y, ready → findSession c sid = some y → y.keyed = true →
        (req.verified = false → Completes e.2 s (fun t => if y.opened then dropped Reg.MGT_RX_DROP_AUTH_COUNT t else
          counted Reg.MGT_RX_DROP_AUTH_COUNT t ∧ findSession t.c sid = none ∧ rd t.c Reg.MGT_EVENTS_AUTH_FAIL = 1)) ∧
        (req.verified = true → req.seq.toNat ≤ y.highest → Completes e.2 s (dropped Reg.MGT_RX_DROP_REPLAY_COUNT)) ∧
        (req.verified = true → y.highest < req.seq.toNat → y.opened = true →
          (∀ a, y.answers.find? (fun a => a.1 == num) = some a → Completes e.2 s (fun t => t.c.out = .mgmt y.sid (sealedMsg y a.2) :: c.out ∧ t.mem = s.mem ∧
            t.c.regs = c.regs ∧ t.c.tiles = c.tiles ∧ t.c.ad = c.ad)) ∧
          (y.answers.find? (fun a => a.1 == num) = none →
            (num ≤ y.lastNum → Completes e.2 s (refused e.1 3)) ∧
            (y.lastNum < num → y.second = c.time.mono / 2 ^ 32 → 2000 ≤ y.inSecond → Completes e.2 s (refused e.1 4)) ∧
            (y.lastNum < num → (y.second ≠ c.time.mono / 2 ^ 32 ∨ y.inSecond < 2000) → rdb c Reg.SEC_STATUS_RECOVERY = true →
              recoveryTypes.contains e.1 = false → Completes e.2 s (refused e.1 3)))))) ∧
    (∀ y, ready → findSession c sid = some y → y.keyed = true → y.opened = false → req.verified = true → y.highest < req.seq.toNat →
      (c.mgt.sessions.map (fun z => z.sid)).Nodup → sessions ≤ 4 → Completes (.inventoryGet req bs) s (fun t => rd t.c Reg.MGT_EVENTS_SESSION_OPENED = 1 ∧
        rd t.c Reg.MGT_STATUS_SESSIONS = Nat.min 4 (sessions + 1) ∧ (∃ z, findSession t.c sid = some z ∧ z.opened = true ∧ z.highest = req.seq.toNat) ∧
        (sessions = 4 → ∃ z, idlest c = some z ∧ findSession t.c z.sid = none)))

/-- R72, R562 to R565, R569, R571, R573 to R583: where time passes, no cue comes first; sessions begin, are keyed, end; the tray reads what the module is and senses, reads and writes registers, renews
the cap lease, assigns a slice; the lease lapses; the control token is renewed, expires, is claimed and taken back; powered hours are counted.
Log entries 6, 9, 16, 19, 20, 22, 40 and 65: where the statement rests on these, it is the model's choice. -/
def Obligations.TrayMessagesAndTokenAct : Prop :=
  ∀ (s : State) (req : Req) (bs : List Byte) (num sid : BitVec 32) (unit : Fin 2),
    let c := s.c
    let kept := fun (t : State) => t.mem = s.mem ∧ t.c.tiles = c.tiles ∧ t.c.ad = c.ad
    let reply := fun (i : Instr) (typ status : Nat) (pl : List Byte) (P : State → Prop) => servable typ req c = true →
      Completes i s (fun t => kept t ∧ answered typ req status pl t ∧ P t)
    let ready := portSilent c = false ∧ mustWait c = false
    let any := fun (_ : State) => True
    let word := fun (n a : Nat) => bs.length = n ∧ leAt bs 8 2 = 1 ∧ leAt bs 0 8 = a
    let nowhere := fieldsAt c (leAt bs 0 8) = []
    let slice := leAt bs 0 2
    let tol := leAt bs 2 1
    let sliceForm := bs.length = 3 ∧ slice < 4096 ∧ (tol = 0 ∨ 8 ≤ tol ∧ tol ≤ 23)
    let settled := c.quiet = true ∧ waiting c = [] ∧ c.gaf.shutdown = false
    let unheld := rdb c Reg.MGT_STATUS_UNHELD
    let holder := rd c Reg.MGT_STATUS_HOLDER
    let epochUp := fun (t : State) => rd t.c Reg.MGT_STATUS_EPOCH = (rd c Reg.MGT_STATUS_EPOCH + 1) % 2 ^ 16
    let lapse := Nat.max c.time.mono (c.mgt.renewedAt + 2 ^ 32 / 100)
    let recent := (Map.getD [] c.mgt.losses holder).filter (fun x => decide (lapse ≤ x + 3600 * 2 ^ 32))
    let out := fun (u : Nat) (t : State) => unitOk t.c u = false ∧ u ∈ t.c.flt.outUnits ∧ rd t.c Reg.MGT_EVENTS_UNIT_OUT = 1 ∧
      rd t.c Reg.MGT_ALERT_CAUSE_UNIT_OUT = 1
    let noUnit := fun (t : State) => rdb t.c Reg.MGT_ALERT_CAUSE_NO_UNIT = (rdb t.c Reg.MGT_STATUS_UNHELD && !unitOk t.c 0 && !unitOk t.c 1)
    let newer := unit.toNat ≠ holder ∧ rd c Reg.MGT_STATUS_EPOCH ≠ 0
    let begunNone := ∀ y ∈ c.mgt.sessions, y.begun = []
    let later := fun (d : Nat) => calmTo (now c + d) c = true
    let body := fun (nonce : List Byte) => quoteHead nonce c ++ dsa44Key c.sec.aliasSeed ++ aliasCert c
    let closes := fun (keyed : Bool) (d : Nat) (i : Instr) =>
      ((∀ y, findSession c sid.toNat = some y → y.keyed ≠ keyed) → later 0 → Completes i s (fun t => t = s)) ∧
      ∀ y, findSession c sid.toNat = some y → y.keyed = keyed → later (y.at_ + d * 2 ^ 32 - c.time.mono) → Completes i s (fun t => kept t ∧
        findSession t.c sid.toNat = none ∧ y.at_ + d * 2 ^ 32 ≤ t.c.time.mono ∧
        t.c.mgt = { c.mgt with sessions := c.mgt.sessions.filter (fun z => z.sid != y.sid) })
    let hello := fun (P : State → Prop) => Completes (.hello num bs) s P
    (portSilent c = true → hello (fun t => t = s) ∧ Completes (.key num bs) s (fun t => t = s)) ∧
    (portSilent c = false → mustWait c = true → sumNat (c.mgt.waiting.map (fun e => e.2)) + (bs.length + 20) ≤ 65536 →
      hello (fun t => t.c.mgt.waiting = c.mgt.waiting ++ [(.hello num bs, bs.length + 20)] ∧ t.c.mgt.sessions = c.mgt.sessions) ∧
      Completes (.key num bs) s (fun t => t.c.mgt.waiting = c.mgt.waiting ++ [(.key num bs, bs.length + 20)] ∧ t.c.mgt.sessions = c.mgt.sessions)) ∧
    (ready → bs.length ≠ 32 → hello (fun t => kept t ∧ t.c.mgt = c.mgt ∧ t.c.out = .mgmt 0 (leBytes 4 0 ++ mgmtHeader 0x01 num.toNat 0x0002 0 true) :: c.out)) ∧
    (ready → bs.length = 32 → (quoteFree c = false ∨ rdb c Reg.SEC_TRNG_HEALTHY = false) → hello (fun t => t = s)) ∧
    (ready → bs.length = 32 → quoteFree c = true → rdb c Reg.SEC_TRNG_HEALTHY = true → c.mgt.sessions.length < 2 ^ 32 - 1 → hello (fun t => kept t ∧
      bumped Reg.SEC_QUOTES_COUNT 1 s t ∧ ∃ y rnd, t.c.mgt.sessions = c.mgt.sessions ++ [y] ∧ y.sid ≠ 0 ∧ y.sid < 2 ^ 32 ∧ findSession c y.sid = none ∧
        y.keyed = false ∧ y.opened = false ∧ y.nonce = bs ∧ y.at_ = c.time.mono ∧ y.seed.length = 64 ∧ rnd.length = 32 ∧
        let b := body (sha3_256 (bs ++ kemKey y.seed))
        t.c.out = .mgmt 0 (leBytes 4 0 ++ (mgmtHeader 0x01 num.toNat 0 7692 true ++
          (leBytes 4 y.sid ++ kemKey y.seed ++ (b ++ dsa44Sign c.sec.aliasSeed b rnd)))) :: c.out)) ∧
    (ready → Completes (.key num bs) s (fun t => match findSession c (leAt bs 0 4) with
      | none => t = s
      | some y => if y.keyed = true ∨ bs.length ≠ 1092 ∨ y.at_ + 2 ^ 32 ≤ c.time.mono then t = s else kept t ∧ t.c.regs = c.regs ∧ t.c.out = c.out ∧
          ∃ k, findSession t.c (leAt bs 0 4) = some { y with keyed := true, at_ := c.time.mono, secret := k, keys := sessionKeys y (bs.drop 4) k } ∧
            (k = c.mgt.secret ∨ k = zeros32 ∧ rdb c Reg.SEC_STATUS_RECOVERY = true ∧ rdb c Reg.MGT_STRAPS_BOOT_HOLD = true))) ∧
    closes false 1 (.keyTimeout sid) ∧ closes true 60 (.sessionTimeout sid) ∧ Completes .reassemblyTimeout s (fun t => t = s) ∧
    (bs.length ≠ 0 → reply (.bye req bs) 0x03 2 [] (fun t => findSession t.c req.sid.toNat ≠ none)) ∧
    (∀ y, bs.length = 0 → servable 0x03 req c = true → findSession c req.sid.toNat = some y → Completes (.bye req bs) s (fun t => kept t ∧
      findSession t.c req.sid.toNat = none ∧ t.c.out = .mgmt req.sid.toNat (sealedMsg y (mgmtHeader 0x03 req.num.toNat 0 0 true)) :: c.out)) ∧
    (bs.length ≠ 32 → reply (.traySecret req bs) 0x04 2 [] (fun t => t.c.mgt.secret = c.mgt.secret)) ∧
    (bs.length = 32 → reply (.traySecret req bs) 0x04 0 [] (fun t => t.c.mgt.secret = bs ∧ rd t.c Reg.MGT_EVENTS_SECRET_CHANGED = 1)) ∧
    (bs.length ≠ 0 → reply (.inventoryGet req bs) 0x10 2 [] any ∧ reply (.sensorGet req bs) 0x11 2 [] any ∧ reply (.stateGet req bs) 0x12 2 [] any) ∧
    (bs.length = 0 → reply (.inventoryGet req bs) 0x10 0 (inventory c) any ∧ reply (.sensorGet req bs) 0x11 0 (sensors c) any ∧
      reply (.stateGet req bs) 0x12 0 (stateWords c) any) ∧
    ((bs.length ≠ 10 ∨ leAt bs 8 2 = 0 ∨ 64 < leAt bs 8 2) → reply (.regRead req bs) 0x13 2 [] any) ∧
    (∀ a, word 10 a → reply (.regRead req bs) 0x13 (if nowhere then 0x0501 else 0) (leBytes 4 (readReg a s).1) any) ∧
    ((leAt bs 8 2 = 0 ∨ 64 < leAt bs 8 2 ∨ bs.length ≠ 10 + 4 * leAt bs 8 2) → reply (.regWrite req bs) 0x14 2 [] any) ∧
    (∀ a, word 14 a → nowhere → reply (.regWrite req bs) 0x14 0x0501 (leBytes 2 0) (bumped (unmappedFld a) 1 s)) ∧
    (word 14 0xF000D00001C → reply (.regWrite req bs) 0x14 0 (leBytes 2 0xFFFF) (fun t =>
      rd t.c Reg.UPD_RATE_KBPS = clampVal Reg.UPD_RATE_KBPS.clamp (leAt bs 10 4 % 2 ^ 19) % 2 ^ 19 ∧
      regsKept [Reg.UPD_RATE_KBPS.key, Reg.MGT_REQUESTS_COUNT.key] s t)) ∧
    (settled → bs.length ≠ 0 → reply (.lease req bs) 0x23 2 [] (fun t => t.c.mgt.capAt = c.mgt.capAt)) ∧
    (settled → bs.length = 0 → servable 0x23 req c = true → Completes (.lease req bs) s (fun t => t.mem = s.mem ∧ t.c.tiles = c.tiles ∧
      answered 0x23 req 0 (leBytes 4 5000) t ∧ t.c.mgt.capAt = c.time.mono ∧ rd t.c Reg.MGT_CAP_LEASE_LAPSED = 0 ∧
      (rdb c Reg.MGT_CAP_LEASE_LAPSED = true → rd t.c Reg.MGT_EVENTS_CAP_LEASE_RESTORED = 1 ∧ rd t.c Reg.MGT_ALERT_CAUSE_CAP_LEASE_LAPSED = 0 ∧
        rd t.c Reg.GAF_LEVEL_E = effCap t.c % 2 ^ 16))) ∧
    (settled → rdb c Reg.MGT_CAP_LEASE_LAPSED = true → later 0 → Completes .capLeaseLapse s (fun t => t = s)) ∧
    (settled → rdb c Reg.MGT_CAP_LEASE_LAPSED = false → later (c.mgt.capAt + 5 * 2 ^ 32 - c.time.mono) → Completes .capLeaseLapse s (fun t => t.mem = s.mem ∧ t.c.tiles = c.tiles ∧
      c.mgt.capAt + 5 * 2 ^ 32 ≤ t.c.time.mono ∧
      rd t.c Reg.MGT_CAP_LEASE_LAPSED = 1 ∧ rd t.c Reg.MGT_EVENTS_CAP_LEASE_LAPSED = 1 ∧ rd t.c Reg.MGT_ALERT_CAUSE_CAP_LEASE_LAPSED = 1 ∧
      bumped Reg.MGT_CAP_LAPSES_COUNT 1 s t ∧ rd t.c Reg.GAF_LEVEL_E = effCap t.c % 2 ^ 16)) ∧
    (¬ sliceForm → reply (.sliceAssign req bs) 0x30 2 [] (fun t => sliceNow t.c = sliceNow c)) ∧
    (sliceForm → sliceFree c slice = false → reply (.sliceAssign req bs) 0x30 3 [] (fun t => sliceNow t.c = sliceNow c)) ∧
    (sliceForm → sliceFree c slice = true → reply (.sliceAssign req bs) 0x30 0 [] (fun t => rd t.c Reg.FAB_SLICE_SLICE = slice ∧
      t.c.mgt.tolerance = (if tol = 0 then defaultTolerance c else tol) ∧ t.c.gaf.eSliceOver = 0 ∧ t.c.gaf.eSliceTakes = 0 ∧
      t.c.memory.released = (c.memory.released && slice == 0) ∧ rd t.c Reg.FAB_STATUS_RT_HASH_VALID = 0)) ∧
    (unheld = true ∨ unitOk c holder = false → later 0 → Completes .leaseRenewal s (fun t => t = s)) ∧
    (unheld = false → unitOk c holder = true → later (c.mgt.renewedAt + 2 ^ 32 / 400 - c.time.mono) → Completes .leaseRenewal s (fun t => kept t ∧ t.c.regs = c.regs ∧ t.c.mgt.renewedAt = t.c.time.mono ∧
      t.c.time.mono = Nat.max c.time.mono (c.mgt.renewedAt + 2 ^ 32 / 400))) ∧
    (unheld = true → later 0 → Completes .unitLeaseExpiry s (fun t => t = s)) ∧
    (unheld = false → later (c.mgt.renewedAt + 2 ^ 32 / 100 - c.time.mono) → Completes .unitLeaseExpiry s (fun t => kept t ∧ rd t.c Reg.MGT_STATUS_UNHELD = 1 ∧ epochUp t ∧ t.c.time.mono = lapse ∧
      t.c.mgt.unheldAt = lapse ∧ Map.getD [] t.c.mgt.losses holder = lapse :: recent ∧ noUnit t ∧
      (2 ≤ recent.length → unitOk t.c holder = false) ∧ (2 ≤ recent.length → unitOk c holder = true → out holder t))) ∧
    Completes (.tokenClaim unit) s (fun t => if !unheld || !unitOk c unit || portSilent c then t = s else kept t ∧ rd t.c Reg.MGT_STATUS_UNHELD = 0 ∧
      rd t.c Reg.MGT_STATUS_HOLDER = unit.toNat ∧ t.c.mgt.renewedAt = c.time.mono ∧ noUnit t ∧ rd t.c Reg.MGT_STATUS_EPOCH = rd c Reg.MGT_STATUS_EPOCH ∧
      (newer → rd t.c Reg.MGT_EVENTS_TAKEOVER = 1 ∧ bumped Reg.MGT_TAKEOVERS_COUNT 1 s t) ∧
      (¬ newer → rd t.c Reg.MGT_TAKEOVERS_COUNT = rd c Reg.MGT_TAKEOVERS_COUNT) ∧
      (begunNone → t.c.out = c.out ∧ t.c.mgt.sessions = c.mgt.sessions) ∧
      ∀ y n, y ∈ c.mgt.sessions → (c.mgt.sessions.map (fun z => z.sid)).Nodup → (∀ z ∈ c.mgt.sessions, z ≠ y → z.begun = []) → y.begun = [n] →
        t.c.out = .mgmt y.sid (sealedMsg y (mgmtHeader 0 n 5 0 true)) :: c.out ∧ bumped Reg.MGT_INTERRUPTED_COUNT 1 s t) ∧
    Completes .takeback s (fun t => if unheld = true ∨ holder ≠ 1 ∨ unitOk c 0 = false ∨ ¬ begunNone then t = s else kept t ∧
      rd t.c Reg.MGT_STATUS_HOLDER = 0 ∧ epochUp t ∧ t.c.mgt.renewedAt = c.time.mono ∧ rd t.c Reg.MGT_EVENTS_TAKEBACK = 1 ∧
      bumped Reg.MGT_TAKEBACKS_COUNT 1 s t) ∧
    Completes .poweredHoursUpdate s (fun t => kept t ∧ bumped Reg.MGT_HOURS_TENTHS 1 s t ∧ regsKept [Reg.MGT_HOURS_TENTHS.key] s t ∧
      ∀ k j, k < 8 → j < 16 → Map.getD 0 t.c.mgt.thermal (16 * k + j) = Map.getD 0 c.mgt.thermal (16 * k + j) +
        if rd c (Reg.CLK_TH_STATE_TMAX k) ≠ 0xFFF ∧ thermalBin (rd c (Reg.CLK_TH_STATE_TMAX k)) = j then 1 else 0) ∧
    Completes (.unitOut unit) s (fun t => if unitOk c unit = false then t = s else kept t ∧ out unit t ∧ noUnit t ∧
      ∀ v : Fin 2, v ≠ unit → unitOk t.c v = unitOk c v)

/-! ### The whole block -/

/-- A step takes the command at the front of the queue and is exec of it with the queue's rest. On an empty queue the block idles as log entry 5 chooses
(DESIGN CHOICE: the model's): a management request that waited is handled once a unit holds the token (R575), else one tu passes (R49), the cues
that are due fire, and the tiles that run fetch (TileClearsAndHangsClearOnlyTheirTile says what a fetch can end). -/
def Obligations.StepRunsTheFrontCommand : Prop :=
  (∀ (s : State) (i : Instr) (rest : List Instr), s.pending = i :: rest → step s = exec i { s with pending := rest }) ∧
  ∀ s : State, s.pending = [] →
    ((s.c.mgt.waiting = [] ∨ rdb s.c Reg.MGT_STATUS_UNHELD = true) → step s = .next (fetchTiles (fireDue (onCtl (passTime 1) s))) ∧
      (calmTo (now s.c + 1) s.c = true → (∀ e ∈ s.c.tiles, fetchFault (onCtl (passTime 1) s) e.1 = none) → ∃ t, step s = .next t ∧ t.c.time.mono = s.c.time.mono + 1 ∧ now t.c = (now s.c + 1) % 2 ^ 64 ∧
        t.mem = s.mem ∧ t.c.regs = s.c.regs)) ∧
    ∀ i n rest, s.c.mgt.waiting = (i, n) :: rest → rdb s.c Reg.MGT_STATUS_UNHELD = false →
      ∀ t, exec i (onCtl (onMgt (fun m => { m with waiting := rest, serving := true })) s) = .next t →
        step s = .next (onCtl (onMgt (fun m => { m with serving := false })) t)

/-- The state after reset: memory in its canonical form with nothing listed, the journal in order, nothing running and nothing waiting; of the values the spec
gives (R78, R124, R175, R295, R332, R392, R437, R558, R585) the statement names these.
Log entries 12 and 14: where the statement rests on these, it is the model's choice. -/
def Obligations.ResetLeavesTheStatedValues : Prop :=
  let c := State.reset.c
  State.reset.sound = true ∧ journalOk c = true ∧ c.quiet = true ∧ noTraffic c = true ∧ State.reset.pending = [] ∧ c.out = [] ∧ c.tiles = [] ∧
  (∀ a, getByte State.reset.mem a = 0) ∧ now c = 0 ∧
  rd c Reg.TC_CTRL_REF_EN = 1 ∧ rd c Reg.TC_HOLD_HOLD_S = 10 ∧ rd c Reg.TC_SLEW_PPM_SLEW = 100 ∧ rd c Reg.AD_FLOOR_CLOCK_F = 600 ∧
  rd c Reg.AD_LIMIT_LIMIT = 65536 ∧ rd c Reg.CJ_CAPACITY_SLOTS = 65536 ∧ rd c Reg.DLY_PF_CTRL_DEPTH = 16 ∧ rd c Reg.FAB_REORDER_RETRY_LIMIT = 8 ∧
  rd c Reg.ETH_MACSEC_CTRL_REKEY_S = 3600 ∧ rd c Reg.GAF_LIMITS_FLOOR = 600 ∧ rd c Reg.GAF_SLOPE_UP = 64 ∧ rd c Reg.GAF_THROTTLE_ISSUE = 64 ∧
  rd c Reg.UPD_RATE_KBPS = 10000 ∧ rd c Reg.UPD_ETH_PORT = 6622 ∧ rd c Reg.MGT_STATUS_UNHELD = 1 ∧ rd c Reg.MGT_CAP_LEASE_LAPSED = 1 ∧
  (∀ i, i < 192 → rd c (Reg.TL_ID_TILE i) = i ∧ rd c (Reg.TL_ID_DIE i) = i / 24) ∧
  (∀ r, rd c (Reg.AD_REEL_NEXT_LO_NEXT r) = 1) ∧ ∀ q, rd c (Reg.FAB_PORT_WEIGHT_WEIGHT q) = 128

/-- Every command completes in every state, with every operand: exec answers a next state and leaves the queue of commands as it is.
Log entries 7 and 9: where the statement rests on these, it is the model's choice. -/
def Obligations.EveryCommandCompletes : Prop := ∀ (i : Instr) (s : State), Completes i s (fun t => t.pending = s.pending)

/-- Every step, a tick included, answers a next state, and keeps the memory's canonical form (addresses strictly rising, no entry that an unlisted address
reads as, in bytes, poison marks, encryption marks and standing errors) and the journal's (slots strictly rising, each once), whatever the command and its operands. -/
def Obligations.EveryStepKeepsMemoryAndJournalSound : Prop :=
  ∀ s : State, s.sound = true → journalOk s.c = true → ∃ t, step s = .next t ∧ t.sound = true ∧ journalOk t.c = true
end

