-- ==== Sys2Proof/Laws/Maps.lean ====
section
/-! SUPPORT. Laws of sparse data by key: reading after writing, and the canonical form. -/

namespace Sys2Proof.Machine

theorem Map.get?_put {α : Type} (m : List (Nat × α)) (x y : Nat) (v : α) :
    Map.get? (Map.put m x v) y = if y = x then some v else Map.get? m y := by
  induction m with
  | nil => simp only [Map.put, Map.get?]; grind
  | cons e m ih =>
    obtain ⟨k, w⟩ := e
    simp only [Map.put]
    split
    · simp only [Map.get?]; grind
    · split
      · simp only [Map.get?]; grind
      · simp only [Map.get?, ih]; grind

theorem Map.above_mono {α : Type} (m : List (Nat × α)) (a b : Nat) (h : a ≤ b) (hb : Map.above b m = true) :
    Map.above a m = true := by
  cases m with
  | nil => rfl
  | cons e m =>
    obtain ⟨k, w⟩ := e
    simp only [Map.above, Bool.and_eq_true, decide_eq_true_eq] at hb ⊢
    exact ⟨by omega, hb.2⟩

theorem Map.get?_above {α : Type} (m : List (Nat × α)) (b x : Nat) (h : Map.above b m = true) (hx : x < b) :
    Map.get? m x = none := by
  induction m generalizing b with
  | nil => rfl
  | cons e m ih =>
    obtain ⟨k, w⟩ := e
    simp only [Map.above, Bool.and_eq_true, decide_eq_true_eq] at h
    simp only [Map.get?]
    rw [if_neg (by omega)]
    exact ih (k + 1) h.2 (by omega)

theorem Map.get?_filter {α : Type} (p : Nat → Bool) (m : List (Nat × α)) (y : Nat) :
    Map.get? (m.filter (fun e => p e.1)) y = if p y then Map.get? m y else none := by
  induction m with
  | nil => simp [Map.get?]
  | cons e m ih =>
    obtain ⟨k, w⟩ := e
    simp only [List.filter_cons]
    split
    · simp only [Map.get?, ih]; grind
    · simp only [ih, Map.get?]; grind

theorem Map.get?_del {α : Type} (m : List (Nat × α)) (x y : Nat) :
    Map.get? (Map.del m x) y = if y = x then none else Map.get? m y := by
  unfold Map.del
  rw [Map.get?_filter (fun k => k != x)]
  grind

theorem Map.above_put {α : Type} (m : List (Nat × α)) (b x : Nat) (v : α) (h : Map.above b m = true) (hx : b ≤ x) :
    Map.above b (Map.put m x v) = true := by
  induction m generalizing b with
  | nil => simp [Map.put, Map.above, hx]
  | cons e m ih =>
    obtain ⟨k, w⟩ := e
    simp only [Map.above, Bool.and_eq_true, decide_eq_true_eq] at h
    simp only [Map.put]
    split
    · simp only [Map.above, Bool.and_eq_true, decide_eq_true_eq]
      exact ⟨hx, by omega, h.2⟩
    · split
      · rename_i heq
        simp only [Map.above, Bool.and_eq_true, decide_eq_true_eq]
        exact ⟨hx, heq ▸ h.2⟩
      · simp only [Map.above, Bool.and_eq_true, decide_eq_true_eq]
        exact ⟨h.1, ih (k + 1) h.2 (by omega)⟩

theorem Map.above_filter {α : Type} (p : Nat × α → Bool) (m : List (Nat × α)) (b : Nat) (h : Map.above b m = true) :
    Map.above b (m.filter p) = true := by
  induction m generalizing b with
  | nil => rfl
  | cons e m ih =>
    obtain ⟨k, w⟩ := e
    simp only [Map.above, Bool.and_eq_true, decide_eq_true_eq] at h
    simp only [List.filter_cons]
    split
    · simp only [Map.above, Bool.and_eq_true, decide_eq_true_eq]
      exact ⟨h.1, ih (k + 1) h.2⟩
    · exact Map.above_mono _ b (k + 1) (by omega) (ih (k + 1) h.2)

theorem Map.above_del {α : Type} (m : List (Nat × α)) (b x : Nat) (h : Map.above b m = true) :
    Map.above b (Map.del m x) = true := Map.above_filter _ m b h

theorem Map.mem_put {α : Type} (m : List (Nat × α)) (x : Nat) (v : α) (e : Nat × α) (h : e ∈ Map.put m x v) :
    e = (x, v) ∨ e ∈ m := by
  induction m with
  | nil => simpa [Map.put] using h
  | cons a m ih =>
    obtain ⟨k, w⟩ := a
    simp only [Map.put] at h
    split at h
    · simpa using h
    · split at h
      · simp only [List.mem_cons] at h ⊢; grind
      · simp only [List.mem_cons] at h ⊢; grind

theorem Map.put_put {α : Type} (m : List (Nat × α)) (x : Nat) (v w : α) : Map.put (Map.put m x v) x w = Map.put m x w := by
  induction m with
  | nil => simp [Map.put]
  | cons e m ih =>
    obtain ⟨k, u⟩ := e
    simp only [Map.put]
    by_cases h : x < k
    · simp [h, Map.put]
    · by_cases h2 : x = k
      · subst h2; simp [Map.put]
      · simp [h, h2, Map.put, ih]

theorem Map.del_put {α : Type} (m : List (Nat × α)) (x : Nat) (v : α) : Map.del (Map.put m x v) x = Map.del m x := by
  induction m with
  | nil => simp [Map.put, Map.del]
  | cons e m ih =>
    obtain ⟨k, u⟩ := e
    simp only [Map.put]
    by_cases h : x < k
    · simp [h, Map.del]
    · by_cases h2 : x = k
      · subst h2; simp [Map.del]
      · simp only [h, h2, if_false]
        simp only [Map.del, List.filter_cons] at ih ⊢
        rw [ih]

/-- Writing a key twice is writing it once, the later value. -/
theorem Map.setD_put {α : Type} [DecidableEq α] (d : α) (m : List (Nat × α)) (x : Nat) (v w : α) :
    Map.setD d (Map.put m x v) x w = Map.setD d m x w := by
  unfold Map.setD
  split
  · exact Map.del_put m x v
  · exact Map.put_put m x v w

theorem Map.wf_iff {α : Type} [DecidableEq α] (d : α) (m : List (Nat × α)) :
    Map.wf d m = true ↔ Map.above 0 m = true ∧ ∀ e ∈ m, e.2 ≠ d := by
  simp [Map.wf]

theorem Map.wf_nil {α : Type} [DecidableEq α] (d : α) : Map.wf d ([] : List (Nat × α)) = true := rfl

theorem Map.wf_put {α : Type} [DecidableEq α] (d : α) (m : List (Nat × α)) (x : Nat) (v : α) (h : Map.wf d m = true) (hv : v ≠ d) :
    Map.wf d (Map.put m x v) = true := by
  rw [Map.wf_iff] at h ⊢
  refine ⟨Map.above_put m 0 x v h.1 (Nat.zero_le x), fun e he => ?_⟩
  rcases Map.mem_put m x v e he with rfl | hm
  · exact hv
  · exact h.2 e hm

theorem Map.wf_del {α : Type} [DecidableEq α] (d : α) (m : List (Nat × α)) (x : Nat) (h : Map.wf d m = true) :
    Map.wf d (Map.del m x) = true := by
  rw [Map.wf_iff] at h ⊢
  exact ⟨Map.above_del m 0 x h.1, fun e he => h.2 e (List.mem_filter.mp he).1⟩

theorem Map.wf_setD {α : Type} [DecidableEq α] (d : α) (m : List (Nat × α)) (x : Nat) (v : α) (h : Map.wf d m = true) :
    Map.wf d (Map.setD d m x v) = true := by
  unfold Map.setD
  split
  · exact Map.wf_del d m x h
  · exact Map.wf_put d m x v h ‹_›

theorem Map.wf_filter {α : Type} [DecidableEq α] (d : α) (p : Nat × α → Bool) (m : List (Nat × α)) (h : Map.wf d m = true) :
    Map.wf d (m.filter p) = true := by
  rw [Map.wf_iff] at h ⊢
  exact ⟨Map.above_filter p m 0 h.1, fun e he => h.2 e (List.mem_filter.mp he).1⟩

/-- Reading after writing: the value written, and every other key as before. -/
theorem Map.getD_setD {α : Type} [DecidableEq α] (d : α) (m : List (Nat × α)) (x y : Nat) (v : α) :
    Map.getD d (Map.setD d m x v) y = if y = x then v else Map.getD d m y := by
  unfold Map.getD Map.setD
  split
  · rename_i hv
    rw [Map.get?_del]
    split <;> simp [hv]
  · rw [Map.get?_put]
    split <;> simp

theorem Map.above_setD {α : Type} [DecidableEq α] (d : α) (m : List (Nat × α)) (b x : Nat) (v : α) (h : Map.above b m = true)
    (hx : b ≤ x) : Map.above b (Map.setD d m x v) = true := by
  unfold Map.setD
  split
  · exact Map.above_del m b x h
  · exact Map.above_put m b x v h hx

end Sys2Proof.Machine
end

