-- ==== Sys2Proof/Laws/Ops.lean ====
section
/-! SUPPORT. Laws of the named operations: a register field reads what was written last, every other field reads as before, and
what an operation on the registers leaves alone. -/

namespace Sys2Proof.Machine

/-! ### Register fields -/

theorem rd_wr_self (f : Fld) (v : Nat) (c : Ctl) : rd (wr f v c) f = v % 2 ^ f.len := by
  simp [rd, wr, Map.getD_setD]

theorem rd_wr_ne (f g : Fld) (v : Nat) (c : Ctl) (h : g.key ≠ f.key) : rd (wr f v c) g = rd c g := by
  simp only [rd, wr, Map.getD, Map.setD]
  split
  · rw [Map.get?_del, if_neg h]
  · rw [Map.get?_put, if_neg h]

/-- Reading any field after a write: the written one has the value cut to its width. -/
theorem rd_wr (f g : Fld) (v : Nat) (c : Ctl) (h : g.key = f.key → g.reset = f.reset) :
    rd (wr f v c) g = if g.key = f.key then v % 2 ^ f.len else rd c g := by
  split
  · rename_i hk
    simp only [rd, wr]
    rw [h hk, Map.getD_setD, if_pos hk]
  · exact rd_wr_ne f g v c ‹_›

theorem rdb_wr_ne (f g : Fld) (v : Nat) (c : Ctl) (h : g.key ≠ f.key) : rdb (wr f v c) g = rdb c g := by
  simp [rdb, rd_wr_ne f g v c h]

theorem rdb_wr_self (f : Fld) (v : Nat) (c : Ctl) : rdb (wr f v c) f = (v % 2 ^ f.len != 0) := by
  simp [rdb, rd_wr_self]

theorem rdb_wrb_self (f : Fld) (b : Bool) (c : Ctl) (h : f.len ≠ 0) : rdb (wrb f b c) f = b := by
  have h2 : 1 < 2 ^ f.len := Nat.one_lt_two_pow h
  cases b
  · simp [wrb, rdb_wr_self, b2n]
  · simp [wrb, rdb_wr_self, b2n, Nat.mod_eq_of_lt h2]

theorem rd_bump_self (f : Fld) (k : Nat) (c : Ctl) : rd (bump f k c) f = Nat.min (rd c f + k) (2 ^ f.len - 1) := by
  rw [bump, rd_wr_self, Nat.mod_eq_of_lt]
  have := Nat.two_pow_pos f.len
  have h : Nat.min (rd c f + k) (2 ^ f.len - 1) ≤ 2 ^ f.len - 1 := Nat.min_le_right _ _
  omega

theorem rd_bump_ne (f g : Fld) (k : Nat) (c : Ctl) (h : g.key ≠ f.key) : rd (bump f k c) g = rd c g := rd_wr_ne _ _ _ _ h

theorem rd_raise_self (f : Fld) (c : Ctl) (h : f.len ≠ 0) : rd (raise f c) f = 1 := by
  rw [raise, rd_wr_self, Nat.mod_eq_of_lt (Nat.one_lt_two_pow h)]

theorem rd_raise_ne (f g : Fld) (c : Ctl) (h : g.key ≠ f.key) : rd (raise f c) g = rd c g := rd_wr_ne _ _ _ _ h

/-! ### What a write of a register leaves alone -/

@[simp] theorem wr_time (f : Fld) (v : Nat) (c : Ctl) : (wr f v c).time = c.time := rfl
@[simp] theorem wr_latched (f : Fld) (v : Nat) (c : Ctl) : (wr f v c).latched = c.latched := rfl
@[simp] theorem wr_freeCtr (f : Fld) (v : Nat) (c : Ctl) : (wr f v c).freeCtr = c.freeCtr := rfl
@[simp] theorem wr_ad (f : Fld) (v : Nat) (c : Ctl) : (wr f v c).ad = c.ad := rfl
@[simp] theorem wr_tiles (f : Fld) (v : Nat) (c : Ctl) : (wr f v c).tiles = c.tiles := rfl
@[simp] theorem wr_share (f : Fld) (v : Nat) (c : Ctl) : (wr f v c).share = c.share := rfl
@[simp] theorem wr_memory (f : Fld) (v : Nat) (c : Ctl) : (wr f v c).memory = c.memory := rfl
@[simp] theorem wr_fab (f : Fld) (v : Nat) (c : Ctl) : (wr f v c).fab = c.fab := rfl
@[simp] theorem wr_coll (f : Fld) (v : Nat) (c : Ctl) : (wr f v c).coll = c.coll := rfl
@[simp] theorem wr_flt (f : Fld) (v : Nat) (c : Ctl) : (wr f v c).flt = c.flt := rfl
@[simp] theorem wr_gaf (f : Fld) (v : Nat) (c : Ctl) : (wr f v c).gaf = c.gaf := rfl
@[simp] theorem wr_clk (f : Fld) (v : Nat) (c : Ctl) : (wr f v c).clk = c.clk := rfl
@[simp] theorem wr_sec (f : Fld) (v : Nat) (c : Ctl) : (wr f v c).sec = c.sec := rfl
@[simp] theorem wr_upd (f : Fld) (v : Nat) (c : Ctl) : (wr f v c).upd = c.upd := rfl
@[simp] theorem wr_mgt (f : Fld) (v : Nat) (c : Ctl) : (wr f v c).mgt = c.mgt := rfl
@[simp] theorem wr_pwr (f : Fld) (v : Nat) (c : Ctl) : (wr f v c).pwr = c.pwr := rfl
@[simp] theorem wr_eth (f : Fld) (v : Nat) (c : Ctl) : (wr f v c).eth = c.eth := rfl
@[simp] theorem wr_out (f : Fld) (v : Nat) (c : Ctl) : (wr f v c).out = c.out := rfl

/-- Two control states that differ at most in their registers. -/
def RegsOnly (c d : Ctl) : Prop := d = { c with regs := d.regs }

theorem RegsOnly.refl (c : Ctl) : RegsOnly c c := rfl

theorem RegsOnly.trans {a b c : Ctl} (h : RegsOnly a b) (h' : RegsOnly b c) : RegsOnly a c := by
  unfold RegsOnly at *
  rw [h', h]

theorem regsOnly_wr (f : Fld) (v : Nat) (c : Ctl) : RegsOnly c (wr f v c) := rfl
theorem regsOnly_wrb (f : Fld) (b : Bool) (c : Ctl) : RegsOnly c (wrb f b c) := rfl
theorem regsOnly_raise (f : Fld) (c : Ctl) : RegsOnly c (raise f c) := rfl
theorem regsOnly_bump (f : Fld) (k : Nat) (c : Ctl) : RegsOnly c (bump f k c) := rfl

theorem regsOnly_when (b : Bool) (f : Ctl → Ctl) (c : Ctl) (h : RegsOnly c (f c)) : RegsOnly c (when b f c) := by
  cases b
  · exact RegsOnly.refl c
  · exact h

theorem regsOnly_forEach {α : Type} (l : List α) (f : α → Ctl → Ctl) (c : Ctl) (h : ∀ a c, RegsOnly c (f a c)) :
    RegsOnly c (forEach l f c) := by
  unfold forEach
  induction l generalizing c with
  | nil => exact RegsOnly.refl c
  | cons a l ih => exact RegsOnly.trans (h a c) (ih (f a c))

theorem regsOnly_addCounter (cnt chain ovf : Nat → Fld) (fuel n k : Nat) (c : Ctl) :
    RegsOnly c (addCounter cnt chain ovf fuel n k c) := by
  induction fuel generalizing n k c with
  | zero => exact RegsOnly.refl c
  | succ fuel ih =>
    simp only [addCounter]
    split
    · exact regsOnly_wr _ _ _
    · split
      · exact RegsOnly.trans (regsOnly_wr _ _ _) (ih _ _ _)
      · exact RegsOnly.trans (regsOnly_wr _ _ _) (regsOnly_raise _ _)

theorem regsOnly_modCount (n k : Nat) (c : Ctl) : RegsOnly c (modCount n k c) := by
  unfold modCount
  split
  · exact RegsOnly.refl c
  · split
    · exact RegsOnly.refl c
    · exact regsOnly_addCounter _ _ _ _ _ _ _

theorem regsOnly_tileCount (i n k : Nat) (c : Ctl) : RegsOnly c (tileCount i n k c) := by
  unfold tileCount
  split
  · exact RegsOnly.refl c
  · split
    · exact RegsOnly.refl c
    · exact RegsOnly.trans (regsOnly_addCounter _ _ _ _ _ _ _) (regsOnly_modCount _ _ _)

theorem RegsOnly.time {c d : Ctl} (h : RegsOnly c d) : d.time = c.time := by rw [h]
theorem RegsOnly.ad {c d : Ctl} (h : RegsOnly c d) : d.ad = c.ad := by rw [h]
theorem RegsOnly.tiles {c d : Ctl} (h : RegsOnly c d) : d.tiles = c.tiles := by rw [h]
theorem RegsOnly.fab {c d : Ctl} (h : RegsOnly c d) : d.fab = c.fab := by rw [h]
theorem RegsOnly.share {c d : Ctl} (h : RegsOnly c d) : d.share = c.share := by rw [h]
theorem RegsOnly.memory {c d : Ctl} (h : RegsOnly c d) : d.memory = c.memory := by rw [h]
theorem RegsOnly.out {c d : Ctl} (h : RegsOnly c d) : d.out = c.out := by rw [h]

/-! ### Counters -/

/-- Fields that a run of a counter chain writes: the counts and overflow marks from its index on. -/
theorem rd_addCounter_ne (cnt chain ovf : Nat → Fld) (g : Fld) (fuel n k : Nat) (c : Ctl)
    (hc : ∀ m, n ≤ m → m < n + fuel → g.key ≠ (cnt m).key) (ho : ∀ m, n ≤ m → m < n + fuel → g.key ≠ (ovf m).key) :
    rd (addCounter cnt chain ovf fuel n k c) g = rd c g := by
  induction fuel generalizing n k c with
  | zero => rfl
  | succ fuel ih =>
    simp only [addCounter]
    have h1 := hc n (Nat.le_refl n) (by omega)
    split
    · exact rd_wr_ne _ _ _ _ h1
    · split
      · rw [ih (n + 1) _ _ (fun m h h' => hc m (by omega) (by omega)) (fun m h h' => ho m (by omega) (by omega))]
        exact rd_wr_ne _ _ _ _ h1
      · rw [rd_raise_ne _ _ _ (ho n (Nat.le_refl n) (by omega))]
        exact rd_wr_ne _ _ _ _ h1

/-- Counting a module event leaves every register alone but the module counters. -/
theorem rd_modCount (g : Fld) (n k : Nat) (c : Ctl) (h : countKey g.key = false) : rd (modCount n k c) g = rd c g := by
  simp only [countKey, decide_eq_false_iff_not, not_and, Nat.not_lt] at h
  unfold modCount
  split
  · rfl
  · split
    · rfl
    · rename_i h1 _
      refine rd_addCounter_ne _ _ _ _ _ _ _ _ (fun m _ hm hk => ?_) (fun m _ hm hk => ?_)
      · simp only [Reg.CNT_COUNT] at hk; omega
      · simp only [Reg.CNT_CFG_OVF] at hk; omega

theorem rdb_modCount (g : Fld) (n k : Nat) (c : Ctl) (h : countKey g.key = false) : rdb (modCount n k c) g = rdb c g := by
  simp [rdb, rd_modCount g n k c h]

/-- No register of a block is a counter of a tile. -/
theorem tileCountKey_block (i k : Nat) (h : k < 32 * 0xF0010000000) : tileCountKey i k = false := by
  rw [tileCountKey, decide_eq_false_iff_not]
  omega

/-- Counting a tile event leaves every register alone but the counters of the tile and of the module. -/
theorem rd_tileCount (g : Fld) (i n k : Nat) (c : Ctl) (h : countKey g.key = false) (ht : tileCountKey i g.key = false) :
    rd (tileCount i n k c) g = rd c g := by
  simp only [tileCountKey, decide_eq_false_iff_not, not_and, Nat.not_lt] at ht
  unfold tileCount
  split
  · rfl
  · split
    · rfl
    · rw [rd_modCount g _ _ _ h]
      by_cases hn : n < 96
      · refine rd_addCounter_ne _ _ _ _ _ _ _ _ (fun m _ hm hk => ?_) (fun m _ hm hk => ?_)
        · simp only [Reg.TL_CNT_COUNT] at hk; omega
        · simp only [Reg.TL_CNT_CFG_OVF] at hk; omega
      · have : 96 - n = 0 := by omega
        rw [this]; rfl

@[simp] theorem modCount_time (n k : Nat) (c : Ctl) : (modCount n k c).time = c.time := (regsOnly_modCount n k c).time
@[simp] theorem modCount_ad (n k : Nat) (c : Ctl) : (modCount n k c).ad = c.ad := (regsOnly_modCount n k c).ad
@[simp] theorem modCount_tiles (n k : Nat) (c : Ctl) : (modCount n k c).tiles = c.tiles := (regsOnly_modCount n k c).tiles
@[simp] theorem modCount_share (n k : Nat) (c : Ctl) : (modCount n k c).share = c.share := (regsOnly_modCount n k c).share
@[simp] theorem modCount_out (n k : Nat) (c : Ctl) : (modCount n k c).out = c.out := (regsOnly_modCount n k c).out
@[simp] theorem tileCount_time (i n k : Nat) (c : Ctl) : (tileCount i n k c).time = c.time := (regsOnly_tileCount i n k c).time
@[simp] theorem tileCount_ad (i n k : Nat) (c : Ctl) : (tileCount i n k c).ad = c.ad := (regsOnly_tileCount i n k c).ad
@[simp] theorem tileCount_tiles (i n k : Nat) (c : Ctl) : (tileCount i n k c).tiles = c.tiles := (regsOnly_tileCount i n k c).tiles
@[simp] theorem tileCount_share (i n k : Nat) (c : Ctl) : (tileCount i n k c).share = c.share := (regsOnly_tileCount i n k c).share
@[simp] theorem tileCount_out (i n k : Nat) (c : Ctl) : (tileCount i n k c).out = c.out := (regsOnly_tileCount i n k c).out

end Sys2Proof.Machine
end

