-- ==== Sys2Proof/Laws/Memory.lean ====
section
/-! SUPPORT. Laws of memory: a byte reads as it was written last, every other byte as before, and every operation on memory keeps
its canonical form. -/

namespace Sys2Proof.Machine

/-! ### Reading after writing -/

theorem getByte_putByte (a x : Nat) (b : Byte) (m : Memory) : getByte (putByte a b m) x = if x = a then b else getByte m x :=
  Map.getD_setD _ _ _ _ _

theorem getByte_putBytes (a x : Nat) (bs : List Byte) (m : Memory) :
    getByte (putBytes a bs m) x = if a ≤ x ∧ x < a + bs.length then bs.getD (x - a) 0 else getByte m x := by
  induction bs generalizing a m with
  | nil => simp only [putBytes, List.length_nil]; rw [if_neg (by omega)]
  | cons b bs ih =>
    simp only [putBytes, ih, getByte_putByte, List.length_cons]
    by_cases h : x = a
    · subst h
      rw [if_neg (by omega), if_pos rfl, if_pos (by omega)]
      simp
    · by_cases h2 : a + 1 ≤ x ∧ x < a + 1 + bs.length
      · rw [if_pos h2, if_pos (by omega)]
        have : x - a = (x - (a + 1)) + 1 := by omega
        rw [this, List.getD_cons_succ]
      · rw [if_neg h2, if_neg h, if_neg (by omega)]

theorem getByte_zeroRange (a n x : Nat) (m : Memory) : getByte (zeroRange a n m) x = if a ≤ x ∧ x < a + n then 0 else getByte m x := by
  unfold getByte zeroRange Map.getD
  simp only
  rw [Map.get?_filter (fun k => decide (k < a) || decide (a + n ≤ k))]
  by_cases h : a ≤ x ∧ x < a + n
  · rw [if_pos h, if_neg (by simp; omega)]; rfl
  · rw [if_neg h, if_pos (by simp; omega)]

theorem getByte_setPoison (a x : Nat) (m : Memory) : getByte (setPoison a m) x = getByte m x := rfl
theorem getByte_clearPoison (a x : Nat) (m : Memory) : getByte (clearPoison a m) x = getByte m x := rfl

theorem getByte_foldl_clearPoison (l : List Nat) (a x : Nat) (m : Memory) :
    getByte (l.foldl (fun m k => clearPoison (a + k) m) m) x = getByte m x := by
  induction l generalizing m with
  | nil => rfl
  | cons k l ih => rw [List.foldl_cons, ih]; rfl

theorem getBytes_length (m : Memory) (a n : Nat) : (getBytes m a n).length = n := by simp [getBytes]

theorem getBytes_congr (m m' : Memory) (a n : Nat) (h : ∀ x, a ≤ x → x < a + n → getByte m x = getByte m' x) :
    getBytes m a n = getBytes m' a n := by
  unfold getBytes
  apply List.map_congr_left
  intro k hk
  have := List.mem_range.mp hk
  exact h (a + k) (by omega) (by omega)

/-- Bytes just stored read back. -/
theorem getBytes_putBytes (a : Nat) (bs : List Byte) (m : Memory) : getBytes (putBytes a bs m) a bs.length = bs := by
  apply List.ext_getElem
  · simp [getBytes]
  · intro k h1 h2
    simp only [getBytes, List.getElem_map, List.getElem_range, getByte_putBytes]
    rw [if_pos (by omega)]
    simp [List.getD_eq_getElem?_getD, h2]

/-! ### The canonical form -/

theorem memory_wf_iff (m : Memory) : m.wf = true ↔ Map.wf 0 m.bytes = true ∧ Map.wf 0 m.poison = true ∧ Map.wf 0 m.encrypted = true ∧ Map.wf 0 m.flaws = true := by
  simp [Memory.wf, and_assoc]

theorem empty_wf : Memory.empty.wf = true := rfl

theorem reset_wf : State.reset.mem.wf = true := rfl

theorem putByte_wf (a : Nat) (b : Byte) (m : Memory) (h : m.wf = true) : (putByte a b m).wf = true := by
  rw [memory_wf_iff] at h ⊢
  exact ⟨Map.wf_setD 0 m.bytes a b h.1, h.2⟩

theorem putBytes_wf (a : Nat) (bs : List Byte) (m : Memory) (h : m.wf = true) : (putBytes a bs m).wf = true := by
  induction bs generalizing a m with
  | nil => exact h
  | cons b bs ih => exact ih (a + 1) _ (putByte_wf a b m h)

theorem zeroRange_wf (a n : Nat) (m : Memory) (h : m.wf = true) : (zeroRange a n m).wf = true := by
  rw [memory_wf_iff] at h ⊢
  exact ⟨Map.wf_filter 0 _ _ h.1, Map.wf_filter 0 _ _ h.2.1, Map.wf_filter 0 _ _ h.2.2.1, Map.wf_filter 0 _ _ h.2.2.2⟩

theorem setPoison_wf (a : Nat) (m : Memory) (h : m.wf = true) : (setPoison a m).wf = true := by
  rw [memory_wf_iff] at h ⊢
  exact ⟨h.1, Map.wf_put 0 _ _ _ h.2.1 (by decide), h.2.2⟩

theorem clearPoison_wf (a : Nat) (m : Memory) (h : m.wf = true) : (clearPoison a m).wf = true := by
  rw [memory_wf_iff] at h ⊢
  exact ⟨h.1, Map.wf_del 0 _ _ h.2.1, h.2.2⟩

/-- Marking a line encrypted, or taking the mark away. -/
theorem encrypted_wf (b : Bool) (a v : Nat) (m : Memory) (h : m.wf = true) (hv : v ≠ 0) :
    ({ m with encrypted := if b then Map.put m.encrypted a v else Map.del m.encrypted a } : Memory).wf = true := by
  rw [memory_wf_iff] at h ⊢
  refine ⟨h.1, h.2.1, ?_, h.2.2.2⟩
  cases b
  · exact Map.wf_del 0 _ _ h.2.2.1
  · exact Map.wf_put 0 _ _ _ h.2.2.1 hv

theorem zeroAll_wf (m : Memory) (h : m.wf = true) : (zeroAll m).wf = true := by
  rw [memory_wf_iff] at h ⊢
  exact ⟨Map.wf_filter 0 _ _ h.1, Map.wf_filter 0 _ _ h.2.1, Map.wf_filter 0 _ _ h.2.2.1, Map.wf_filter 0 _ _ h.2.2.2⟩

theorem foldl_clearPoison_wf (l : List Nat) (a : Nat) (m : Memory) (h : m.wf = true) :
    (l.foldl (fun m k => clearPoison (a + k) m) m).wf = true := by
  induction l generalizing m with
  | nil => exact h
  | cons k l ih => exact ih _ (clearPoison_wf _ m h)

/-! ### Whole blocks, lines and runs -/

theorem getByte_overwrite (a n x : Nat) (m : Memory) : getByte (overwrite a n m) x = getByte m x := by
  unfold overwrite; split <;> rfl

theorem overwrite_wf (a n : Nat) (m : Memory) (h : m.wf = true) : (overwrite a n m).wf = true := by
  unfold overwrite
  split
  · exact h
  · rw [memory_wf_iff] at h ⊢
    exact ⟨h.1, h.2.1, h.2.2.1, Map.wf_filter 0 _ _ h.2.2.2⟩

theorem keyNow_pos (c : Ctl) : keyNow c ≠ 0 := by unfold keyNow; split <;> simp

theorem getByte_markLine (c : Ctl) (a x : Nat) (m : Memory) : getByte (markLine c a m) x = getByte m x := rfl

theorem markLine_wf (c : Ctl) (a : Nat) (m : Memory) (h : m.wf = true) : (markLine c a m).wf = true :=
  encrypted_wf _ _ _ _ h (keyNow_pos c)

theorem storeLine_wf (c : Ctl) (a : Nat) (bs : List Byte) (m : Memory) (h : m.wf = true) : (storeLine c a bs m).wf = true := by
  unfold storeLine
  apply markLine_wf
  split <;> split
  · exact clearPoison_wf _ _ (overwrite_wf _ _ _ (putBytes_wf _ _ _ h))
  · exact clearPoison_wf _ _ (overwrite_wf _ _ _ (putBytes_wf _ _ _ (putBytes_wf _ _ _ h)))
  · exact putBytes_wf _ _ _ h
  · exact putBytes_wf _ _ _ (putBytes_wf _ _ _ h)

/-- A store to a line that was written under no other key than the one in force puts its bytes and leaves every other one. -/
theorem getByte_storeLine (c : Ctl) (a x : Nat) (bs : List Byte) (m : Memory) (hk : cellKey m a = 0 ∨ cellKey m a = keyNow c) :
    getByte (storeLine c a bs m) x = if a ≤ x ∧ x < a + bs.length then bs.getD (x - a) 0 else getByte m x := by
  unfold storeLine
  simp only [getByte_markLine]
  rw [if_pos (hk.elim Or.inl (fun h => Or.inr (Or.inl h)))]
  split
  · rw [getByte_clearPoison, getByte_overwrite, getByte_putBytes]
  · rw [getByte_putBytes]

/-- The entries that a run of bytes lists: none for a zero. -/
theorem mem_run (a s : Nat) (bs : List Byte) (e : Nat × Byte)
    (h : e ∈ ((List.range' s bs.length).zip bs).filterMap (fun e => if e.2 = 0 then none else some (a + e.1, e.2))) :
    a + s ≤ e.1 ∧ e.1 < a + s + bs.length ∧ e.2 ≠ 0 := by
  induction bs generalizing s with
  | nil => simp at h
  | cons b bs ih =>
    simp only [List.length_cons, List.range'_succ, List.zip_cons_cons, List.filterMap_cons] at h ⊢
    split at h
    · have := ih (s + 1) h; exact ⟨by omega, by omega, this.2.2⟩
    · rename_i e' he
      split at he
      · cases he
      · cases he
        rcases List.mem_cons.mp h with rfl | h
        · exact ⟨by simp, by simp, by assumption⟩
        · have := ih (s + 1) h; exact ⟨by omega, by omega, this.2.2⟩

theorem above_run (a s : Nat) (bs : List Byte) :
    Map.above (a + s) (((List.range' s bs.length).zip bs).filterMap (fun e => if e.2 = 0 then none else some (a + e.1, e.2))) = true := by
  induction bs generalizing s with
  | nil => simp [Map.above]
  | cons b bs ih =>
    simp only [List.length_cons, List.range'_succ, List.zip_cons_cons, List.filterMap_cons]
    split
    · exact Map.above_mono _ _ _ (by omega) (ih (s + 1))
    · rename_i e' he
      split at he
      · cases he
      · cases he
        simp only [Map.above, Bool.and_eq_true, decide_eq_true_eq]
        exact ⟨by omega, by have := ih (s + 1); rwa [show a + s + 1 = a + (s + 1) by omega]⟩

theorem Map.above_append {α : Type} (l k : List (Nat × α)) (b d : Nat) (hl : Map.above b l = true) (hb : ∀ e ∈ l, e.1 < d)
    (hk : Map.above d k = true) (hbd : b ≤ d) : Map.above b (l ++ k) = true := by
  induction l generalizing b with
  | nil => exact Map.above_mono _ _ _ hbd hk
  | cons e l ih =>
    obtain ⟨x, v⟩ := e
    simp only [Map.above, List.cons_append, Bool.and_eq_true, decide_eq_true_eq] at hl ⊢
    exact ⟨hl.1, ih (x + 1) hl.2 (fun e he => hb e (List.mem_cons_of_mem _ he)) (hb (x, v) (by simp))⟩

theorem Map.above_of_keys {α : Type} (l : List (Nat × α)) (b d : Nat) (hl : Map.above b l = true) (hd : ∀ e ∈ l, d ≤ e.1) :
    Map.above d l = true := by
  cases l with
  | nil => rfl
  | cons e l =>
    obtain ⟨x, v⟩ := e
    simp only [Map.above, Bool.and_eq_true, decide_eq_true_eq] at hl ⊢
    exact ⟨hd (x, v) (by simp), hl.2⟩

theorem putRange_wf (a : Nat) (bs : List Byte) (m : Memory) (h : m.wf = true) : (putRange a bs m).wf = true := by
  rw [memory_wf_iff] at h ⊢
  refine ⟨?_, h.2⟩
  have hb := h.1
  simp only [Map.wf, Bool.and_eq_true, List.all_eq_true, decide_eq_true_eq] at hb ⊢
  have hrun := mem_run a 0 bs
  have habove := above_run a 0 bs
  simp only [← List.range_eq_range', Nat.add_zero] at hrun habove
  have hhi : Map.above (a + bs.length) (m.bytes.filter (fun e => decide (a + bs.length ≤ e.1))) = true :=
    Map.above_of_keys _ 0 _ (Map.above_filter _ _ _ hb.1) (fun e he => by have := (List.mem_filter.mp he).2; simpa using this)
  have hnew : Map.above a (((List.range bs.length).zip bs).filterMap (fun e => if e.2 = 0 then none else some (a + e.1, e.2)) ++
      m.bytes.filter (fun e => decide (a + bs.length ≤ e.1))) = true :=
    Map.above_append _ _ _ _ habove (fun e he => (hrun e he).2.1) hhi (by omega)
  refine ⟨?_, ?_⟩
  · simp only [putRange, List.append_assoc]
    exact Map.above_append _ _ _ _ (Map.above_filter _ _ _ hb.1) (fun e he => by have := (List.mem_filter.mp he).2; simpa using this) hnew (by omega)
  · intro e he
    simp only [putRange, List.append_assoc, List.mem_append] at he
    rcases he with he | he | he
    · exact hb.2 e (List.mem_filter.mp he).1
    · exact (hrun e he).2.2
    · exact hb.2 e (List.mem_filter.mp he).1

end Sys2Proof.Machine
end

