-- ==== Sys2Proof/Laws/Quiet.lean ====
section
/-! SUPPORT. A quiet state has nothing to run and nothing to settle: draining and settling leave it as it is. -/

namespace Sys2Proof.Machine

theorem Ctl.quiet_iff (c : Ctl) : c.quiet = true ↔
    c.ad.replanDue = false ∧ c.ad.ctlDue = [] ∧ c.fab.ready = [] ∧ ∀ e ∈ c.tiles, e.2.quiet = true := by
  simp [Ctl.quiet, and_assoc]

theorem Ctl.quiet_replan {c : Ctl} (h : c.quiet = true) : c.ad.replanDue = false := (c.quiet_iff.mp h).1

theorem Ctl.quiet_tile {c : Ctl} (h : c.quiet = true) (e : Nat × Tile) (he : e ∈ c.tiles) : e.2.quiet = true :=
  (c.quiet_iff.mp h).2.2.2 e he

/-- With nothing ready for the fabric, giving it what is ready gives nothing. -/
theorem flush_idle (s : State) (hc : s.c.ad.ctlDue = []) (hf : s.c.fab.ready = []) : flushCtl (flushColl s) = s := by
  simp [flushColl, flushLoop, flushCtl, hc, hf]

theorem settleAll_quiet (s : State) (h : s.c.quiet = true) : settleAll s = s := by
  obtain ⟨hr, hc, hf, _⟩ := s.c.quiet_iff.mp h
  simp [settleAll, settleRounds, hr, flush_idle s hc hf]

theorem Map.getD_mem {α : Type} (d : α) (m : List (Nat × α)) (x : Nat) : Map.getD d m x = d ∨ (x, Map.getD d m x) ∈ m := by
  induction m with
  | nil => left; rfl
  | cons e m ih =>
    obtain ⟨k, w⟩ := e
    simp only [Map.getD, Map.get?] at ih ⊢
    split
    · rename_i hk
      subst hk
      right; simp
    · rcases ih with h | h
      · left; exact h
      · right; exact List.mem_cons_of_mem _ h

/-- Any tile of a quiet state is quiet, the idle tile included. -/
theorem Ctl.quiet_tileAt {c : Ctl} (h : c.quiet = true) (i : Nat) : (tileAt c i).quiet = true := by
  rcases Map.getD_mem Tile.idle c.tiles i with hd | hm
  · rw [tileAt, hd]; rfl
  · exact Ctl.quiet_tile h _ hm

theorem Tile.quiet_queue {t : Tile} (h : t.quiet = true) (u : Nat) : queueOf t u = [] := by
  simp only [Tile.quiet, Bool.and_eq_true, List.all_eq_true, List.isEmpty_iff] at h
  rcases Map.getD_mem [] t.queues u with hd | hm
  · exact hd
  · exact h.1 _ hm

theorem Tile.quiet_clap {t : Tile} (h : t.quiet = true) : t.clap = none := by
  simp only [Tile.quiet, Bool.and_eq_true, Option.isNone_iff_eq_none] at h
  exact h.2

theorem headOf_quiet {c : Ctl} (h : c.quiet = true) (i u : Nat) : headOf c i u = none := by
  rw [headOf, Tile.quiet_queue (Ctl.quiet_tileAt h i)]
  rfl

theorem drainOne_quiet (s : State) (h : s.c.quiet = true) : drainOne s = none := by
  simp [drainOne, headOf_quiet h]

theorem arrivals_quiet (s : State) (h : s.c.quiet = true) : arrivals s = s := by
  unfold arrivals
  have : (s.c.tiles.filter fun e => e.2.clap.isSome && !e.2.arrived && clapDone s.c e.1) = [] := by
    rw [List.filter_eq_nil_iff]
    intro e he
    simp [Tile.quiet_clap (Ctl.quiet_tile h e he)]
  rw [this]
  rfl

theorem drain_quiet (s : State) (h : s.c.quiet = true) : drain s = s := by
  unfold drain
  have : drainLoop (2 * queued s + 1) s = s := by
    simp [drainLoop, drainOne_quiet s h]
  rw [this, arrivals_quiet s h]

theorem settle_drain_quiet (s : State) (h : s.c.quiet = true) : settleAll (drain s) = s := by
  rw [drain_quiet s h, settleAll_quiet s h]

theorem drain_settle_quiet (s : State) (h : s.c.quiet = true) : drain (settleAll s) = s := by
  rw [settleAll_quiet s h, drain_quiet s h]

/-- Quietness depends on the tiles and on what is left to settle and to send alone. -/
theorem Ctl.quiet_congr {c d : Ctl} (ht : d.tiles = c.tiles) (ha : d.ad.replanDue = c.ad.replanDue) (hc : d.ad.ctlDue = c.ad.ctlDue)
    (hf : d.fab.ready = c.fab.ready) : d.quiet = c.quiet := by
  simp [Ctl.quiet, ht, ha, hc, hf]

theorem RegsOnly.quiet {c d : Ctl} (h : RegsOnly c d) : d.quiet = c.quiet :=
  Ctl.quiet_congr h.tiles (by rw [h.ad]) (by rw [h.ad]) (by rw [h.fab])

theorem Map.mem_setD {α : Type} [DecidableEq α] (d : α) (m : List (Nat × α)) (x : Nat) (v : α) (e : Nat × α)
    (h : e ∈ Map.setD d m x v) : e = (x, v) ∨ e ∈ m := by
  unfold Map.setD at h
  split at h
  · right; exact (List.mem_filter.mp h).1
  · exact Map.mem_put m x v e h

/-- A quiet tile put into a quiet state leaves it quiet. -/
theorem Ctl.quiet_setTile {c : Ctl} (h : c.quiet = true) (i : Nat) (t : Tile) (ht : t.quiet = true) : (setTile i t c).quiet = true := by
  rw [Ctl.quiet_iff] at h ⊢
  refine ⟨h.1, h.2.1, h.2.2.1, fun e he => ?_⟩
  rcases Map.mem_setD _ _ _ _ e he with rfl | hm
  · exact ht
  · exact h.2.2.2 e hm

theorem onTile_quiet {s : State} (h : s.c.quiet = true) (i : Nat) (f : Tile → Tile) (hf : ∀ t : Tile, t.quiet = true → (f t).quiet = true) :
    (onTile i f s).c.quiet = true := Ctl.quiet_setTile h i _ (hf _ (Ctl.quiet_tileAt h i))

theorem tileAt_setTile (i j : Nat) (t : Tile) (c : Ctl) : tileAt (setTile i t c) j = if j = i then t else tileAt c j :=
  Map.getD_setD _ _ _ _ _

end Sys2Proof.Machine
end

