-- ==== Sys2Proof/Laws/State.lean ====
section
/-! SUPPORT. What each update of the state leaves as it was, and what it puts: one lemma a field. Those of the register
store stand in Laws/Ops.lean. -/

namespace Sys2Proof.Machine

@[simp] theorem onCtl_c (f : Ctl → Ctl) (s : State) : (onCtl f s).c = f s.c := rfl
@[simp] theorem onCtl_mem (f : Ctl → Ctl) (s : State) : (onCtl f s).mem = s.mem := rfl
@[simp] theorem onCtl_pending (f : Ctl → Ctl) (s : State) : (onCtl f s).pending = s.pending := rfl
@[simp] theorem setMem_c (f : Memory → Memory) (s : State) : (setMem f s).c = s.c := rfl
@[simp] theorem setMem_mem (f : Memory → Memory) (s : State) : (setMem f s).mem = f s.mem := rfl
@[simp] theorem setMem_pending (f : Memory → Memory) (s : State) : (setMem f s).pending = s.pending := rfl
@[simp] theorem setCache_mem (l : List CacheLine) (s : State) : (setCache l s).mem = s.mem := rfl
@[simp] theorem setCache_pending (l : List CacheLine) (s : State) : (setCache l s).pending = s.pending := rfl
@[simp] theorem setCache_cache (l : List CacheLine) (s : State) : (setCache l s).c.memory.cache = l := rfl
@[simp] theorem onTile_mem (i : Nat) (f : Tile → Tile) (s : State) : (onTile i f s).mem = s.mem := rfl
@[simp] theorem onTile_pending (i : Nat) (f : Tile → Tile) (s : State) : (onTile i f s).pending = s.pending := rfl
@[simp] theorem onTile_regs (i : Nat) (f : Tile → Tile) (s : State) : (onTile i f s).c.regs = s.c.regs := rfl

/-! ### emit -/

@[simp] theorem emit_regs (o : Out) (c : Ctl) : (emit o c).regs = c.regs := rfl
@[simp] theorem emit_latched (o : Out) (c : Ctl) : (emit o c).latched = c.latched := rfl
@[simp] theorem emit_freeCtr (o : Out) (c : Ctl) : (emit o c).freeCtr = c.freeCtr := rfl
@[simp] theorem emit_time (o : Out) (c : Ctl) : (emit o c).time = c.time := rfl
@[simp] theorem emit_ad (o : Out) (c : Ctl) : (emit o c).ad = c.ad := rfl
@[simp] theorem emit_tiles (o : Out) (c : Ctl) : (emit o c).tiles = c.tiles := rfl
@[simp] theorem emit_share (o : Out) (c : Ctl) : (emit o c).share = c.share := rfl
@[simp] theorem emit_memory (o : Out) (c : Ctl) : (emit o c).memory = c.memory := rfl
@[simp] theorem emit_fab (o : Out) (c : Ctl) : (emit o c).fab = c.fab := rfl
@[simp] theorem emit_coll (o : Out) (c : Ctl) : (emit o c).coll = c.coll := rfl
@[simp] theorem emit_flt (o : Out) (c : Ctl) : (emit o c).flt = c.flt := rfl
@[simp] theorem emit_gaf (o : Out) (c : Ctl) : (emit o c).gaf = c.gaf := rfl
@[simp] theorem emit_clk (o : Out) (c : Ctl) : (emit o c).clk = c.clk := rfl
@[simp] theorem emit_sec (o : Out) (c : Ctl) : (emit o c).sec = c.sec := rfl
@[simp] theorem emit_upd (o : Out) (c : Ctl) : (emit o c).upd = c.upd := rfl
@[simp] theorem emit_mgt (o : Out) (c : Ctl) : (emit o c).mgt = c.mgt := rfl
@[simp] theorem emit_pwr (o : Out) (c : Ctl) : (emit o c).pwr = c.pwr := rfl
@[simp] theorem emit_eth (o : Out) (c : Ctl) : (emit o c).eth = c.eth := rfl
@[simp] theorem rd_emit (fd : Fld) (o : Out) (c : Ctl) : rd (emit o c) fd = rd c fd := rfl

/-! ### setTc -/

@[simp] theorem setTc_regs (t : Nat) (c : Ctl) : (setTc t c).regs = c.regs := rfl
@[simp] theorem setTc_latched (t : Nat) (c : Ctl) : (setTc t c).latched = c.latched := rfl
@[simp] theorem setTc_freeCtr (t : Nat) (c : Ctl) : (setTc t c).freeCtr = c.freeCtr := rfl
@[simp] theorem setTc_ad (t : Nat) (c : Ctl) : (setTc t c).ad = c.ad := rfl
@[simp] theorem setTc_tiles (t : Nat) (c : Ctl) : (setTc t c).tiles = c.tiles := rfl
@[simp] theorem setTc_share (t : Nat) (c : Ctl) : (setTc t c).share = c.share := rfl
@[simp] theorem setTc_memory (t : Nat) (c : Ctl) : (setTc t c).memory = c.memory := rfl
@[simp] theorem setTc_fab (t : Nat) (c : Ctl) : (setTc t c).fab = c.fab := rfl
@[simp] theorem setTc_coll (t : Nat) (c : Ctl) : (setTc t c).coll = c.coll := rfl
@[simp] theorem setTc_flt (t : Nat) (c : Ctl) : (setTc t c).flt = c.flt := rfl
@[simp] theorem setTc_gaf (t : Nat) (c : Ctl) : (setTc t c).gaf = c.gaf := rfl
@[simp] theorem setTc_clk (t : Nat) (c : Ctl) : (setTc t c).clk = c.clk := rfl
@[simp] theorem setTc_sec (t : Nat) (c : Ctl) : (setTc t c).sec = c.sec := rfl
@[simp] theorem setTc_upd (t : Nat) (c : Ctl) : (setTc t c).upd = c.upd := rfl
@[simp] theorem setTc_mgt (t : Nat) (c : Ctl) : (setTc t c).mgt = c.mgt := rfl
@[simp] theorem setTc_pwr (t : Nat) (c : Ctl) : (setTc t c).pwr = c.pwr := rfl
@[simp] theorem setTc_eth (t : Nat) (c : Ctl) : (setTc t c).eth = c.eth := rfl
@[simp] theorem setTc_out (t : Nat) (c : Ctl) : (setTc t c).out = c.out := rfl
@[simp] theorem rd_setTc (fd : Fld) (t : Nat) (c : Ctl) : rd (setTc t c) fd = rd c fd := rfl

/-! ### passTime -/

@[simp] theorem passTime_regs (d : Nat) (c : Ctl) : (passTime d c).regs = c.regs := rfl
@[simp] theorem passTime_latched (d : Nat) (c : Ctl) : (passTime d c).latched = c.latched := rfl
@[simp] theorem passTime_freeCtr (d : Nat) (c : Ctl) : (passTime d c).freeCtr = c.freeCtr := rfl
@[simp] theorem passTime_ad (d : Nat) (c : Ctl) : (passTime d c).ad = c.ad := rfl
@[simp] theorem passTime_tiles (d : Nat) (c : Ctl) : (passTime d c).tiles = c.tiles := rfl
@[simp] theorem passTime_share (d : Nat) (c : Ctl) : (passTime d c).share = c.share := rfl
@[simp] theorem passTime_memory (d : Nat) (c : Ctl) : (passTime d c).memory = c.memory := rfl
@[simp] theorem passTime_fab (d : Nat) (c : Ctl) : (passTime d c).fab = c.fab := rfl
@[simp] theorem passTime_coll (d : Nat) (c : Ctl) : (passTime d c).coll = c.coll := rfl
@[simp] theorem passTime_flt (d : Nat) (c : Ctl) : (passTime d c).flt = c.flt := rfl
@[simp] theorem passTime_gaf (d : Nat) (c : Ctl) : (passTime d c).gaf = c.gaf := rfl
@[simp] theorem passTime_clk (d : Nat) (c : Ctl) : (passTime d c).clk = c.clk := rfl
@[simp] theorem passTime_sec (d : Nat) (c : Ctl) : (passTime d c).sec = c.sec := rfl
@[simp] theorem passTime_upd (d : Nat) (c : Ctl) : (passTime d c).upd = c.upd := rfl
@[simp] theorem passTime_mgt (d : Nat) (c : Ctl) : (passTime d c).mgt = c.mgt := rfl
@[simp] theorem passTime_pwr (d : Nat) (c : Ctl) : (passTime d c).pwr = c.pwr := rfl
@[simp] theorem passTime_eth (d : Nat) (c : Ctl) : (passTime d c).eth = c.eth := rfl
@[simp] theorem passTime_out (d : Nat) (c : Ctl) : (passTime d c).out = c.out := rfl
@[simp] theorem rd_passTime (fd : Fld) (d : Nat) (c : Ctl) : rd (passTime d c) fd = rd c fd := rfl

/-! ### setTile -/

@[simp] theorem setTile_regs (i : Nat) (t : Tile) (c : Ctl) : (setTile i t c).regs = c.regs := rfl
@[simp] theorem setTile_latched (i : Nat) (t : Tile) (c : Ctl) : (setTile i t c).latched = c.latched := rfl
@[simp] theorem setTile_freeCtr (i : Nat) (t : Tile) (c : Ctl) : (setTile i t c).freeCtr = c.freeCtr := rfl
@[simp] theorem setTile_time (i : Nat) (t : Tile) (c : Ctl) : (setTile i t c).time = c.time := rfl
@[simp] theorem setTile_ad (i : Nat) (t : Tile) (c : Ctl) : (setTile i t c).ad = c.ad := rfl
@[simp] theorem setTile_share (i : Nat) (t : Tile) (c : Ctl) : (setTile i t c).share = c.share := rfl
@[simp] theorem setTile_memory (i : Nat) (t : Tile) (c : Ctl) : (setTile i t c).memory = c.memory := rfl
@[simp] theorem setTile_fab (i : Nat) (t : Tile) (c : Ctl) : (setTile i t c).fab = c.fab := rfl
@[simp] theorem setTile_coll (i : Nat) (t : Tile) (c : Ctl) : (setTile i t c).coll = c.coll := rfl
@[simp] theorem setTile_flt (i : Nat) (t : Tile) (c : Ctl) : (setTile i t c).flt = c.flt := rfl
@[simp] theorem setTile_gaf (i : Nat) (t : Tile) (c : Ctl) : (setTile i t c).gaf = c.gaf := rfl
@[simp] theorem setTile_clk (i : Nat) (t : Tile) (c : Ctl) : (setTile i t c).clk = c.clk := rfl
@[simp] theorem setTile_sec (i : Nat) (t : Tile) (c : Ctl) : (setTile i t c).sec = c.sec := rfl
@[simp] theorem setTile_upd (i : Nat) (t : Tile) (c : Ctl) : (setTile i t c).upd = c.upd := rfl
@[simp] theorem setTile_mgt (i : Nat) (t : Tile) (c : Ctl) : (setTile i t c).mgt = c.mgt := rfl
@[simp] theorem setTile_pwr (i : Nat) (t : Tile) (c : Ctl) : (setTile i t c).pwr = c.pwr := rfl
@[simp] theorem setTile_eth (i : Nat) (t : Tile) (c : Ctl) : (setTile i t c).eth = c.eth := rfl
@[simp] theorem setTile_out (i : Nat) (t : Tile) (c : Ctl) : (setTile i t c).out = c.out := rfl
@[simp] theorem rd_setTile (fd : Fld) (i : Nat) (t : Tile) (c : Ctl) : rd (setTile i t c) fd = rd c fd := rfl

/-! ### setTake -/

@[simp] theorem setTake_regs (k : Nat) (t : Take) (c : Ctl) : (setTake k t c).regs = c.regs := rfl
@[simp] theorem setTake_latched (k : Nat) (t : Take) (c : Ctl) : (setTake k t c).latched = c.latched := rfl
@[simp] theorem setTake_freeCtr (k : Nat) (t : Take) (c : Ctl) : (setTake k t c).freeCtr = c.freeCtr := rfl
@[simp] theorem setTake_time (k : Nat) (t : Take) (c : Ctl) : (setTake k t c).time = c.time := rfl
@[simp] theorem setTake_tiles (k : Nat) (t : Take) (c : Ctl) : (setTake k t c).tiles = c.tiles := rfl
@[simp] theorem setTake_share (k : Nat) (t : Take) (c : Ctl) : (setTake k t c).share = c.share := rfl
@[simp] theorem setTake_memory (k : Nat) (t : Take) (c : Ctl) : (setTake k t c).memory = c.memory := rfl
@[simp] theorem setTake_fab (k : Nat) (t : Take) (c : Ctl) : (setTake k t c).fab = c.fab := rfl
@[simp] theorem setTake_coll (k : Nat) (t : Take) (c : Ctl) : (setTake k t c).coll = c.coll := rfl
@[simp] theorem setTake_flt (k : Nat) (t : Take) (c : Ctl) : (setTake k t c).flt = c.flt := rfl
@[simp] theorem setTake_gaf (k : Nat) (t : Take) (c : Ctl) : (setTake k t c).gaf = c.gaf := rfl
@[simp] theorem setTake_clk (k : Nat) (t : Take) (c : Ctl) : (setTake k t c).clk = c.clk := rfl
@[simp] theorem setTake_sec (k : Nat) (t : Take) (c : Ctl) : (setTake k t c).sec = c.sec := rfl
@[simp] theorem setTake_upd (k : Nat) (t : Take) (c : Ctl) : (setTake k t c).upd = c.upd := rfl
@[simp] theorem setTake_mgt (k : Nat) (t : Take) (c : Ctl) : (setTake k t c).mgt = c.mgt := rfl
@[simp] theorem setTake_pwr (k : Nat) (t : Take) (c : Ctl) : (setTake k t c).pwr = c.pwr := rfl
@[simp] theorem setTake_eth (k : Nat) (t : Take) (c : Ctl) : (setTake k t c).eth = c.eth := rfl
@[simp] theorem setTake_out (k : Nat) (t : Take) (c : Ctl) : (setTake k t c).out = c.out := rfl
@[simp] theorem rd_setTake (fd : Fld) (k : Nat) (t : Take) (c : Ctl) : rd (setTake k t c) fd = rd c fd := rfl

/-! ### dropTake -/

@[simp] theorem dropTake_regs (k : Nat) (c : Ctl) : (dropTake k c).regs = c.regs := rfl
@[simp] theorem dropTake_latched (k : Nat) (c : Ctl) : (dropTake k c).latched = c.latched := rfl
@[simp] theorem dropTake_freeCtr (k : Nat) (c : Ctl) : (dropTake k c).freeCtr = c.freeCtr := rfl
@[simp] theorem dropTake_time (k : Nat) (c : Ctl) : (dropTake k c).time = c.time := rfl
@[simp] theorem dropTake_tiles (k : Nat) (c : Ctl) : (dropTake k c).tiles = c.tiles := rfl
@[simp] theorem dropTake_share (k : Nat) (c : Ctl) : (dropTake k c).share = c.share := rfl
@[simp] theorem dropTake_memory (k : Nat) (c : Ctl) : (dropTake k c).memory = c.memory := rfl
@[simp] theorem dropTake_fab (k : Nat) (c : Ctl) : (dropTake k c).fab = c.fab := rfl
@[simp] theorem dropTake_coll (k : Nat) (c : Ctl) : (dropTake k c).coll = c.coll := rfl
@[simp] theorem dropTake_flt (k : Nat) (c : Ctl) : (dropTake k c).flt = c.flt := rfl
@[simp] theorem dropTake_gaf (k : Nat) (c : Ctl) : (dropTake k c).gaf = c.gaf := rfl
@[simp] theorem dropTake_clk (k : Nat) (c : Ctl) : (dropTake k c).clk = c.clk := rfl
@[simp] theorem dropTake_sec (k : Nat) (c : Ctl) : (dropTake k c).sec = c.sec := rfl
@[simp] theorem dropTake_upd (k : Nat) (c : Ctl) : (dropTake k c).upd = c.upd := rfl
@[simp] theorem dropTake_mgt (k : Nat) (c : Ctl) : (dropTake k c).mgt = c.mgt := rfl
@[simp] theorem dropTake_pwr (k : Nat) (c : Ctl) : (dropTake k c).pwr = c.pwr := rfl
@[simp] theorem dropTake_eth (k : Nat) (c : Ctl) : (dropTake k c).eth = c.eth := rfl
@[simp] theorem dropTake_out (k : Nat) (c : Ctl) : (dropTake k c).out = c.out := rfl
@[simp] theorem rd_dropTake (fd : Fld) (k : Nat) (c : Ctl) : rd (dropTake k c) fd = rd c fd := rfl

/-! ### setReel -/

@[simp] theorem setReel_regs (r : Nat) (x : Reel) (c : Ctl) : (setReel r x c).regs = c.regs := rfl
@[simp] theorem setReel_latched (r : Nat) (x : Reel) (c : Ctl) : (setReel r x c).latched = c.latched := rfl
@[simp] theorem setReel_freeCtr (r : Nat) (x : Reel) (c : Ctl) : (setReel r x c).freeCtr = c.freeCtr := rfl
@[simp] theorem setReel_time (r : Nat) (x : Reel) (c : Ctl) : (setReel r x c).time = c.time := rfl
@[simp] theorem setReel_tiles (r : Nat) (x : Reel) (c : Ctl) : (setReel r x c).tiles = c.tiles := rfl
@[simp] theorem setReel_share (r : Nat) (x : Reel) (c : Ctl) : (setReel r x c).share = c.share := rfl
@[simp] theorem setReel_memory (r : Nat) (x : Reel) (c : Ctl) : (setReel r x c).memory = c.memory := rfl
@[simp] theorem setReel_fab (r : Nat) (x : Reel) (c : Ctl) : (setReel r x c).fab = c.fab := rfl
@[simp] theorem setReel_coll (r : Nat) (x : Reel) (c : Ctl) : (setReel r x c).coll = c.coll := rfl
@[simp] theorem setReel_flt (r : Nat) (x : Reel) (c : Ctl) : (setReel r x c).flt = c.flt := rfl
@[simp] theorem setReel_gaf (r : Nat) (x : Reel) (c : Ctl) : (setReel r x c).gaf = c.gaf := rfl
@[simp] theorem setReel_clk (r : Nat) (x : Reel) (c : Ctl) : (setReel r x c).clk = c.clk := rfl
@[simp] theorem setReel_sec (r : Nat) (x : Reel) (c : Ctl) : (setReel r x c).sec = c.sec := rfl
@[simp] theorem setReel_upd (r : Nat) (x : Reel) (c : Ctl) : (setReel r x c).upd = c.upd := rfl
@[simp] theorem setReel_mgt (r : Nat) (x : Reel) (c : Ctl) : (setReel r x c).mgt = c.mgt := rfl
@[simp] theorem setReel_pwr (r : Nat) (x : Reel) (c : Ctl) : (setReel r x c).pwr = c.pwr := rfl
@[simp] theorem setReel_eth (r : Nat) (x : Reel) (c : Ctl) : (setReel r x c).eth = c.eth := rfl
@[simp] theorem setReel_out (r : Nat) (x : Reel) (c : Ctl) : (setReel r x c).out = c.out := rfl
@[simp] theorem rd_setReel (fd : Fld) (r : Nat) (x : Reel) (c : Ctl) : rd (setReel r x c) fd = rd c fd := rfl

/-! ### setCell -/

@[simp] theorem setCell_regs (i : Nat) (e : CellEntry) (c : Ctl) : (setCell i e c).regs = c.regs := rfl
@[simp] theorem setCell_latched (i : Nat) (e : CellEntry) (c : Ctl) : (setCell i e c).latched = c.latched := rfl
@[simp] theorem setCell_freeCtr (i : Nat) (e : CellEntry) (c : Ctl) : (setCell i e c).freeCtr = c.freeCtr := rfl
@[simp] theorem setCell_time (i : Nat) (e : CellEntry) (c : Ctl) : (setCell i e c).time = c.time := rfl
@[simp] theorem setCell_tiles (i : Nat) (e : CellEntry) (c : Ctl) : (setCell i e c).tiles = c.tiles := rfl
@[simp] theorem setCell_share (i : Nat) (e : CellEntry) (c : Ctl) : (setCell i e c).share = c.share := rfl
@[simp] theorem setCell_memory (i : Nat) (e : CellEntry) (c : Ctl) : (setCell i e c).memory = c.memory := rfl
@[simp] theorem setCell_fab (i : Nat) (e : CellEntry) (c : Ctl) : (setCell i e c).fab = c.fab := rfl
@[simp] theorem setCell_coll (i : Nat) (e : CellEntry) (c : Ctl) : (setCell i e c).coll = c.coll := rfl
@[simp] theorem setCell_flt (i : Nat) (e : CellEntry) (c : Ctl) : (setCell i e c).flt = c.flt := rfl
@[simp] theorem setCell_gaf (i : Nat) (e : CellEntry) (c : Ctl) : (setCell i e c).gaf = c.gaf := rfl
@[simp] theorem setCell_clk (i : Nat) (e : CellEntry) (c : Ctl) : (setCell i e c).clk = c.clk := rfl
@[simp] theorem setCell_sec (i : Nat) (e : CellEntry) (c : Ctl) : (setCell i e c).sec = c.sec := rfl
@[simp] theorem setCell_upd (i : Nat) (e : CellEntry) (c : Ctl) : (setCell i e c).upd = c.upd := rfl
@[simp] theorem setCell_mgt (i : Nat) (e : CellEntry) (c : Ctl) : (setCell i e c).mgt = c.mgt := rfl
@[simp] theorem setCell_pwr (i : Nat) (e : CellEntry) (c : Ctl) : (setCell i e c).pwr = c.pwr := rfl
@[simp] theorem setCell_eth (i : Nat) (e : CellEntry) (c : Ctl) : (setCell i e c).eth = c.eth := rfl
@[simp] theorem setCell_out (i : Nat) (e : CellEntry) (c : Ctl) : (setCell i e c).out = c.out := rfl
@[simp] theorem rd_setCell (fd : Fld) (i : Nat) (e : CellEntry) (c : Ctl) : rd (setCell i e c) fd = rd c fd := rfl

/-! ### setGroup -/

@[simp] theorem setGroup_regs (k : Nat) (g : Group) (c : Ctl) : (setGroup k g c).regs = c.regs := rfl
@[simp] theorem setGroup_latched (k : Nat) (g : Group) (c : Ctl) : (setGroup k g c).latched = c.latched := rfl
@[simp] theorem setGroup_freeCtr (k : Nat) (g : Group) (c : Ctl) : (setGroup k g c).freeCtr = c.freeCtr := rfl
@[simp] theorem setGroup_time (k : Nat) (g : Group) (c : Ctl) : (setGroup k g c).time = c.time := rfl
@[simp] theorem setGroup_ad (k : Nat) (g : Group) (c : Ctl) : (setGroup k g c).ad = c.ad := rfl
@[simp] theorem setGroup_tiles (k : Nat) (g : Group) (c : Ctl) : (setGroup k g c).tiles = c.tiles := rfl
@[simp] theorem setGroup_share (k : Nat) (g : Group) (c : Ctl) : (setGroup k g c).share = c.share := rfl
@[simp] theorem setGroup_memory (k : Nat) (g : Group) (c : Ctl) : (setGroup k g c).memory = c.memory := rfl
@[simp] theorem setGroup_fab (k : Nat) (g : Group) (c : Ctl) : (setGroup k g c).fab = c.fab := rfl
@[simp] theorem setGroup_flt (k : Nat) (g : Group) (c : Ctl) : (setGroup k g c).flt = c.flt := rfl
@[simp] theorem setGroup_gaf (k : Nat) (g : Group) (c : Ctl) : (setGroup k g c).gaf = c.gaf := rfl
@[simp] theorem setGroup_clk (k : Nat) (g : Group) (c : Ctl) : (setGroup k g c).clk = c.clk := rfl
@[simp] theorem setGroup_sec (k : Nat) (g : Group) (c : Ctl) : (setGroup k g c).sec = c.sec := rfl
@[simp] theorem setGroup_upd (k : Nat) (g : Group) (c : Ctl) : (setGroup k g c).upd = c.upd := rfl
@[simp] theorem setGroup_mgt (k : Nat) (g : Group) (c : Ctl) : (setGroup k g c).mgt = c.mgt := rfl
@[simp] theorem setGroup_pwr (k : Nat) (g : Group) (c : Ctl) : (setGroup k g c).pwr = c.pwr := rfl
@[simp] theorem setGroup_eth (k : Nat) (g : Group) (c : Ctl) : (setGroup k g c).eth = c.eth := rfl
@[simp] theorem setGroup_out (k : Nat) (g : Group) (c : Ctl) : (setGroup k g c).out = c.out := rfl
@[simp] theorem rd_setGroup (fd : Fld) (k : Nat) (g : Group) (c : Ctl) : rd (setGroup k g c) fd = rd c fd := rfl

/-! ### setFabSrc -/

@[simp] theorem setFabSrc_regs (l : List SrcCtx) (c : Ctl) : (setFabSrc l c).regs = c.regs := rfl
@[simp] theorem setFabSrc_latched (l : List SrcCtx) (c : Ctl) : (setFabSrc l c).latched = c.latched := rfl
@[simp] theorem setFabSrc_freeCtr (l : List SrcCtx) (c : Ctl) : (setFabSrc l c).freeCtr = c.freeCtr := rfl
@[simp] theorem setFabSrc_time (l : List SrcCtx) (c : Ctl) : (setFabSrc l c).time = c.time := rfl
@[simp] theorem setFabSrc_ad (l : List SrcCtx) (c : Ctl) : (setFabSrc l c).ad = c.ad := rfl
@[simp] theorem setFabSrc_tiles (l : List SrcCtx) (c : Ctl) : (setFabSrc l c).tiles = c.tiles := rfl
@[simp] theorem setFabSrc_share (l : List SrcCtx) (c : Ctl) : (setFabSrc l c).share = c.share := rfl
@[simp] theorem setFabSrc_memory (l : List SrcCtx) (c : Ctl) : (setFabSrc l c).memory = c.memory := rfl
@[simp] theorem setFabSrc_coll (l : List SrcCtx) (c : Ctl) : (setFabSrc l c).coll = c.coll := rfl
@[simp] theorem setFabSrc_flt (l : List SrcCtx) (c : Ctl) : (setFabSrc l c).flt = c.flt := rfl
@[simp] theorem setFabSrc_gaf (l : List SrcCtx) (c : Ctl) : (setFabSrc l c).gaf = c.gaf := rfl
@[simp] theorem setFabSrc_clk (l : List SrcCtx) (c : Ctl) : (setFabSrc l c).clk = c.clk := rfl
@[simp] theorem setFabSrc_sec (l : List SrcCtx) (c : Ctl) : (setFabSrc l c).sec = c.sec := rfl
@[simp] theorem setFabSrc_upd (l : List SrcCtx) (c : Ctl) : (setFabSrc l c).upd = c.upd := rfl
@[simp] theorem setFabSrc_mgt (l : List SrcCtx) (c : Ctl) : (setFabSrc l c).mgt = c.mgt := rfl
@[simp] theorem setFabSrc_pwr (l : List SrcCtx) (c : Ctl) : (setFabSrc l c).pwr = c.pwr := rfl
@[simp] theorem setFabSrc_eth (l : List SrcCtx) (c : Ctl) : (setFabSrc l c).eth = c.eth := rfl
@[simp] theorem setFabSrc_out (l : List SrcCtx) (c : Ctl) : (setFabSrc l c).out = c.out := rfl
@[simp] theorem rd_setFabSrc (fd : Fld) (l : List SrcCtx) (c : Ctl) : rd (setFabSrc l c) fd = rd c fd := rfl

/-! ### setFabDst -/

@[simp] theorem setFabDst_regs (l : List DstCtx) (c : Ctl) : (setFabDst l c).regs = c.regs := rfl
@[simp] theorem setFabDst_latched (l : List DstCtx) (c : Ctl) : (setFabDst l c).latched = c.latched := rfl
@[simp] theorem setFabDst_freeCtr (l : List DstCtx) (c : Ctl) : (setFabDst l c).freeCtr = c.freeCtr := rfl
@[simp] theorem setFabDst_time (l : List DstCtx) (c : Ctl) : (setFabDst l c).time = c.time := rfl
@[simp] theorem setFabDst_ad (l : List DstCtx) (c : Ctl) : (setFabDst l c).ad = c.ad := rfl
@[simp] theorem setFabDst_tiles (l : List DstCtx) (c : Ctl) : (setFabDst l c).tiles = c.tiles := rfl
@[simp] theorem setFabDst_share (l : List DstCtx) (c : Ctl) : (setFabDst l c).share = c.share := rfl
@[simp] theorem setFabDst_memory (l : List DstCtx) (c : Ctl) : (setFabDst l c).memory = c.memory := rfl
@[simp] theorem setFabDst_coll (l : List DstCtx) (c : Ctl) : (setFabDst l c).coll = c.coll := rfl
@[simp] theorem setFabDst_flt (l : List DstCtx) (c : Ctl) : (setFabDst l c).flt = c.flt := rfl
@[simp] theorem setFabDst_gaf (l : List DstCtx) (c : Ctl) : (setFabDst l c).gaf = c.gaf := rfl
@[simp] theorem setFabDst_clk (l : List DstCtx) (c : Ctl) : (setFabDst l c).clk = c.clk := rfl
@[simp] theorem setFabDst_sec (l : List DstCtx) (c : Ctl) : (setFabDst l c).sec = c.sec := rfl
@[simp] theorem setFabDst_upd (l : List DstCtx) (c : Ctl) : (setFabDst l c).upd = c.upd := rfl
@[simp] theorem setFabDst_mgt (l : List DstCtx) (c : Ctl) : (setFabDst l c).mgt = c.mgt := rfl
@[simp] theorem setFabDst_pwr (l : List DstCtx) (c : Ctl) : (setFabDst l c).pwr = c.pwr := rfl
@[simp] theorem setFabDst_eth (l : List DstCtx) (c : Ctl) : (setFabDst l c).eth = c.eth := rfl
@[simp] theorem setFabDst_out (l : List DstCtx) (c : Ctl) : (setFabDst l c).out = c.out := rfl
@[simp] theorem rd_setFabDst (fd : Fld) (l : List DstCtx) (c : Ctl) : rd (setFabDst l c) fd = rd c fd := rfl

/-! ### setReady -/

@[simp] theorem setReady_regs (l : List (Nat × Nat × Nat × SrcPkt)) (c : Ctl) : (setReady l c).regs = c.regs := rfl
@[simp] theorem setReady_latched (l : List (Nat × Nat × Nat × SrcPkt)) (c : Ctl) : (setReady l c).latched = c.latched := rfl
@[simp] theorem setReady_freeCtr (l : List (Nat × Nat × Nat × SrcPkt)) (c : Ctl) : (setReady l c).freeCtr = c.freeCtr := rfl
@[simp] theorem setReady_time (l : List (Nat × Nat × Nat × SrcPkt)) (c : Ctl) : (setReady l c).time = c.time := rfl
@[simp] theorem setReady_ad (l : List (Nat × Nat × Nat × SrcPkt)) (c : Ctl) : (setReady l c).ad = c.ad := rfl
@[simp] theorem setReady_tiles (l : List (Nat × Nat × Nat × SrcPkt)) (c : Ctl) : (setReady l c).tiles = c.tiles := rfl
@[simp] theorem setReady_share (l : List (Nat × Nat × Nat × SrcPkt)) (c : Ctl) : (setReady l c).share = c.share := rfl
@[simp] theorem setReady_memory (l : List (Nat × Nat × Nat × SrcPkt)) (c : Ctl) : (setReady l c).memory = c.memory := rfl
@[simp] theorem setReady_coll (l : List (Nat × Nat × Nat × SrcPkt)) (c : Ctl) : (setReady l c).coll = c.coll := rfl
@[simp] theorem setReady_flt (l : List (Nat × Nat × Nat × SrcPkt)) (c : Ctl) : (setReady l c).flt = c.flt := rfl
@[simp] theorem setReady_gaf (l : List (Nat × Nat × Nat × SrcPkt)) (c : Ctl) : (setReady l c).gaf = c.gaf := rfl
@[simp] theorem setReady_clk (l : List (Nat × Nat × Nat × SrcPkt)) (c : Ctl) : (setReady l c).clk = c.clk := rfl
@[simp] theorem setReady_sec (l : List (Nat × Nat × Nat × SrcPkt)) (c : Ctl) : (setReady l c).sec = c.sec := rfl
@[simp] theorem setReady_upd (l : List (Nat × Nat × Nat × SrcPkt)) (c : Ctl) : (setReady l c).upd = c.upd := rfl
@[simp] theorem setReady_mgt (l : List (Nat × Nat × Nat × SrcPkt)) (c : Ctl) : (setReady l c).mgt = c.mgt := rfl
@[simp] theorem setReady_pwr (l : List (Nat × Nat × Nat × SrcPkt)) (c : Ctl) : (setReady l c).pwr = c.pwr := rfl
@[simp] theorem setReady_eth (l : List (Nat × Nat × Nat × SrcPkt)) (c : Ctl) : (setReady l c).eth = c.eth := rfl
@[simp] theorem setReady_out (l : List (Nat × Nat × Nat × SrcPkt)) (c : Ctl) : (setReady l c).out = c.out := rfl
@[simp] theorem rd_setReady (fd : Fld) (l : List (Nat × Nat × Nat × SrcPkt)) (c : Ctl) : rd (setReady l c) fd = rd c fd := rfl

/-! ### onTime -/

@[simp] theorem onTime_regs (f : TimeSt → TimeSt) (c : Ctl) : (onTime f c).regs = c.regs := rfl
@[simp] theorem onTime_latched (f : TimeSt → TimeSt) (c : Ctl) : (onTime f c).latched = c.latched := rfl
@[simp] theorem onTime_freeCtr (f : TimeSt → TimeSt) (c : Ctl) : (onTime f c).freeCtr = c.freeCtr := rfl
@[simp] theorem onTime_ad (f : TimeSt → TimeSt) (c : Ctl) : (onTime f c).ad = c.ad := rfl
@[simp] theorem onTime_tiles (f : TimeSt → TimeSt) (c : Ctl) : (onTime f c).tiles = c.tiles := rfl
@[simp] theorem onTime_share (f : TimeSt → TimeSt) (c : Ctl) : (onTime f c).share = c.share := rfl
@[simp] theorem onTime_memory (f : TimeSt → TimeSt) (c : Ctl) : (onTime f c).memory = c.memory := rfl
@[simp] theorem onTime_fab (f : TimeSt → TimeSt) (c : Ctl) : (onTime f c).fab = c.fab := rfl
@[simp] theorem onTime_coll (f : TimeSt → TimeSt) (c : Ctl) : (onTime f c).coll = c.coll := rfl
@[simp] theorem onTime_flt (f : TimeSt → TimeSt) (c : Ctl) : (onTime f c).flt = c.flt := rfl
@[simp] theorem onTime_gaf (f : TimeSt → TimeSt) (c : Ctl) : (onTime f c).gaf = c.gaf := rfl
@[simp] theorem onTime_clk (f : TimeSt → TimeSt) (c : Ctl) : (onTime f c).clk = c.clk := rfl
@[simp] theorem onTime_sec (f : TimeSt → TimeSt) (c : Ctl) : (onTime f c).sec = c.sec := rfl
@[simp] theorem onTime_upd (f : TimeSt → TimeSt) (c : Ctl) : (onTime f c).upd = c.upd := rfl
@[simp] theorem onTime_mgt (f : TimeSt → TimeSt) (c : Ctl) : (onTime f c).mgt = c.mgt := rfl
@[simp] theorem onTime_pwr (f : TimeSt → TimeSt) (c : Ctl) : (onTime f c).pwr = c.pwr := rfl
@[simp] theorem onTime_eth (f : TimeSt → TimeSt) (c : Ctl) : (onTime f c).eth = c.eth := rfl
@[simp] theorem onTime_out (f : TimeSt → TimeSt) (c : Ctl) : (onTime f c).out = c.out := rfl
@[simp] theorem onTime_time (f : TimeSt → TimeSt) (c : Ctl) : (onTime f c).time = f c.time := rfl
@[simp] theorem rd_onTime (fd : Fld) (f : TimeSt → TimeSt) (c : Ctl) : rd (onTime f c) fd = rd c fd := rfl

/-! ### onAd -/

@[simp] theorem onAd_regs (f : AdSt → AdSt) (c : Ctl) : (onAd f c).regs = c.regs := rfl
@[simp] theorem onAd_latched (f : AdSt → AdSt) (c : Ctl) : (onAd f c).latched = c.latched := rfl
@[simp] theorem onAd_freeCtr (f : AdSt → AdSt) (c : Ctl) : (onAd f c).freeCtr = c.freeCtr := rfl
@[simp] theorem onAd_time (f : AdSt → AdSt) (c : Ctl) : (onAd f c).time = c.time := rfl
@[simp] theorem onAd_tiles (f : AdSt → AdSt) (c : Ctl) : (onAd f c).tiles = c.tiles := rfl
@[simp] theorem onAd_share (f : AdSt → AdSt) (c : Ctl) : (onAd f c).share = c.share := rfl
@[simp] theorem onAd_memory (f : AdSt → AdSt) (c : Ctl) : (onAd f c).memory = c.memory := rfl
@[simp] theorem onAd_fab (f : AdSt → AdSt) (c : Ctl) : (onAd f c).fab = c.fab := rfl
@[simp] theorem onAd_coll (f : AdSt → AdSt) (c : Ctl) : (onAd f c).coll = c.coll := rfl
@[simp] theorem onAd_flt (f : AdSt → AdSt) (c : Ctl) : (onAd f c).flt = c.flt := rfl
@[simp] theorem onAd_gaf (f : AdSt → AdSt) (c : Ctl) : (onAd f c).gaf = c.gaf := rfl
@[simp] theorem onAd_clk (f : AdSt → AdSt) (c : Ctl) : (onAd f c).clk = c.clk := rfl
@[simp] theorem onAd_sec (f : AdSt → AdSt) (c : Ctl) : (onAd f c).sec = c.sec := rfl
@[simp] theorem onAd_upd (f : AdSt → AdSt) (c : Ctl) : (onAd f c).upd = c.upd := rfl
@[simp] theorem onAd_mgt (f : AdSt → AdSt) (c : Ctl) : (onAd f c).mgt = c.mgt := rfl
@[simp] theorem onAd_pwr (f : AdSt → AdSt) (c : Ctl) : (onAd f c).pwr = c.pwr := rfl
@[simp] theorem onAd_eth (f : AdSt → AdSt) (c : Ctl) : (onAd f c).eth = c.eth := rfl
@[simp] theorem onAd_out (f : AdSt → AdSt) (c : Ctl) : (onAd f c).out = c.out := rfl
@[simp] theorem onAd_ad (f : AdSt → AdSt) (c : Ctl) : (onAd f c).ad = f c.ad := rfl
@[simp] theorem rd_onAd (fd : Fld) (f : AdSt → AdSt) (c : Ctl) : rd (onAd f c) fd = rd c fd := rfl

/-! ### onMem -/

@[simp] theorem onMem_regs (f : MemSt → MemSt) (c : Ctl) : (onMem f c).regs = c.regs := rfl
@[simp] theorem onMem_latched (f : MemSt → MemSt) (c : Ctl) : (onMem f c).latched = c.latched := rfl
@[simp] theorem onMem_freeCtr (f : MemSt → MemSt) (c : Ctl) : (onMem f c).freeCtr = c.freeCtr := rfl
@[simp] theorem onMem_time (f : MemSt → MemSt) (c : Ctl) : (onMem f c).time = c.time := rfl
@[simp] theorem onMem_ad (f : MemSt → MemSt) (c : Ctl) : (onMem f c).ad = c.ad := rfl
@[simp] theorem onMem_tiles (f : MemSt → MemSt) (c : Ctl) : (onMem f c).tiles = c.tiles := rfl
@[simp] theorem onMem_share (f : MemSt → MemSt) (c : Ctl) : (onMem f c).share = c.share := rfl
@[simp] theorem onMem_fab (f : MemSt → MemSt) (c : Ctl) : (onMem f c).fab = c.fab := rfl
@[simp] theorem onMem_coll (f : MemSt → MemSt) (c : Ctl) : (onMem f c).coll = c.coll := rfl
@[simp] theorem onMem_flt (f : MemSt → MemSt) (c : Ctl) : (onMem f c).flt = c.flt := rfl
@[simp] theorem onMem_gaf (f : MemSt → MemSt) (c : Ctl) : (onMem f c).gaf = c.gaf := rfl
@[simp] theorem onMem_clk (f : MemSt → MemSt) (c : Ctl) : (onMem f c).clk = c.clk := rfl
@[simp] theorem onMem_sec (f : MemSt → MemSt) (c : Ctl) : (onMem f c).sec = c.sec := rfl
@[simp] theorem onMem_upd (f : MemSt → MemSt) (c : Ctl) : (onMem f c).upd = c.upd := rfl
@[simp] theorem onMem_mgt (f : MemSt → MemSt) (c : Ctl) : (onMem f c).mgt = c.mgt := rfl
@[simp] theorem onMem_pwr (f : MemSt → MemSt) (c : Ctl) : (onMem f c).pwr = c.pwr := rfl
@[simp] theorem onMem_eth (f : MemSt → MemSt) (c : Ctl) : (onMem f c).eth = c.eth := rfl
@[simp] theorem onMem_out (f : MemSt → MemSt) (c : Ctl) : (onMem f c).out = c.out := rfl
@[simp] theorem onMem_memory (f : MemSt → MemSt) (c : Ctl) : (onMem f c).memory = f c.memory := rfl
@[simp] theorem rd_onMem (fd : Fld) (f : MemSt → MemSt) (c : Ctl) : rd (onMem f c) fd = rd c fd := rfl

/-! ### onFlt -/

@[simp] theorem onFlt_regs (f : FltSt → FltSt) (c : Ctl) : (onFlt f c).regs = c.regs := rfl
@[simp] theorem onFlt_latched (f : FltSt → FltSt) (c : Ctl) : (onFlt f c).latched = c.latched := rfl
@[simp] theorem onFlt_freeCtr (f : FltSt → FltSt) (c : Ctl) : (onFlt f c).freeCtr = c.freeCtr := rfl
@[simp] theorem onFlt_time (f : FltSt → FltSt) (c : Ctl) : (onFlt f c).time = c.time := rfl
@[simp] theorem onFlt_ad (f : FltSt → FltSt) (c : Ctl) : (onFlt f c).ad = c.ad := rfl
@[simp] theorem onFlt_tiles (f : FltSt → FltSt) (c : Ctl) : (onFlt f c).tiles = c.tiles := rfl
@[simp] theorem onFlt_share (f : FltSt → FltSt) (c : Ctl) : (onFlt f c).share = c.share := rfl
@[simp] theorem onFlt_memory (f : FltSt → FltSt) (c : Ctl) : (onFlt f c).memory = c.memory := rfl
@[simp] theorem onFlt_fab (f : FltSt → FltSt) (c : Ctl) : (onFlt f c).fab = c.fab := rfl
@[simp] theorem onFlt_coll (f : FltSt → FltSt) (c : Ctl) : (onFlt f c).coll = c.coll := rfl
@[simp] theorem onFlt_gaf (f : FltSt → FltSt) (c : Ctl) : (onFlt f c).gaf = c.gaf := rfl
@[simp] theorem onFlt_clk (f : FltSt → FltSt) (c : Ctl) : (onFlt f c).clk = c.clk := rfl
@[simp] theorem onFlt_sec (f : FltSt → FltSt) (c : Ctl) : (onFlt f c).sec = c.sec := rfl
@[simp] theorem onFlt_upd (f : FltSt → FltSt) (c : Ctl) : (onFlt f c).upd = c.upd := rfl
@[simp] theorem onFlt_mgt (f : FltSt → FltSt) (c : Ctl) : (onFlt f c).mgt = c.mgt := rfl
@[simp] theorem onFlt_pwr (f : FltSt → FltSt) (c : Ctl) : (onFlt f c).pwr = c.pwr := rfl
@[simp] theorem onFlt_eth (f : FltSt → FltSt) (c : Ctl) : (onFlt f c).eth = c.eth := rfl
@[simp] theorem onFlt_out (f : FltSt → FltSt) (c : Ctl) : (onFlt f c).out = c.out := rfl
@[simp] theorem onFlt_flt (f : FltSt → FltSt) (c : Ctl) : (onFlt f c).flt = f c.flt := rfl
@[simp] theorem rd_onFlt (fd : Fld) (f : FltSt → FltSt) (c : Ctl) : rd (onFlt f c) fd = rd c fd := rfl

/-! ### onGaf -/

@[simp] theorem onGaf_regs (f : GafSt → GafSt) (c : Ctl) : (onGaf f c).regs = c.regs := rfl
@[simp] theorem onGaf_latched (f : GafSt → GafSt) (c : Ctl) : (onGaf f c).latched = c.latched := rfl
@[simp] theorem onGaf_freeCtr (f : GafSt → GafSt) (c : Ctl) : (onGaf f c).freeCtr = c.freeCtr := rfl
@[simp] theorem onGaf_time (f : GafSt → GafSt) (c : Ctl) : (onGaf f c).time = c.time := rfl
@[simp] theorem onGaf_ad (f : GafSt → GafSt) (c : Ctl) : (onGaf f c).ad = c.ad := rfl
@[simp] theorem onGaf_tiles (f : GafSt → GafSt) (c : Ctl) : (onGaf f c).tiles = c.tiles := rfl
@[simp] theorem onGaf_share (f : GafSt → GafSt) (c : Ctl) : (onGaf f c).share = c.share := rfl
@[simp] theorem onGaf_memory (f : GafSt → GafSt) (c : Ctl) : (onGaf f c).memory = c.memory := rfl
@[simp] theorem onGaf_fab (f : GafSt → GafSt) (c : Ctl) : (onGaf f c).fab = c.fab := rfl
@[simp] theorem onGaf_coll (f : GafSt → GafSt) (c : Ctl) : (onGaf f c).coll = c.coll := rfl
@[simp] theorem onGaf_flt (f : GafSt → GafSt) (c : Ctl) : (onGaf f c).flt = c.flt := rfl
@[simp] theorem onGaf_clk (f : GafSt → GafSt) (c : Ctl) : (onGaf f c).clk = c.clk := rfl
@[simp] theorem onGaf_sec (f : GafSt → GafSt) (c : Ctl) : (onGaf f c).sec = c.sec := rfl
@[simp] theorem onGaf_upd (f : GafSt → GafSt) (c : Ctl) : (onGaf f c).upd = c.upd := rfl
@[simp] theorem onGaf_mgt (f : GafSt → GafSt) (c : Ctl) : (onGaf f c).mgt = c.mgt := rfl
@[simp] theorem onGaf_pwr (f : GafSt → GafSt) (c : Ctl) : (onGaf f c).pwr = c.pwr := rfl
@[simp] theorem onGaf_eth (f : GafSt → GafSt) (c : Ctl) : (onGaf f c).eth = c.eth := rfl
@[simp] theorem onGaf_out (f : GafSt → GafSt) (c : Ctl) : (onGaf f c).out = c.out := rfl
@[simp] theorem onGaf_gaf (f : GafSt → GafSt) (c : Ctl) : (onGaf f c).gaf = f c.gaf := rfl
@[simp] theorem rd_onGaf (fd : Fld) (f : GafSt → GafSt) (c : Ctl) : rd (onGaf f c) fd = rd c fd := rfl

/-! ### onClk -/

@[simp] theorem onClk_regs (f : ClkSt → ClkSt) (c : Ctl) : (onClk f c).regs = c.regs := rfl
@[simp] theorem onClk_latched (f : ClkSt → ClkSt) (c : Ctl) : (onClk f c).latched = c.latched := rfl
@[simp] theorem onClk_freeCtr (f : ClkSt → ClkSt) (c : Ctl) : (onClk f c).freeCtr = c.freeCtr := rfl
@[simp] theorem onClk_time (f : ClkSt → ClkSt) (c : Ctl) : (onClk f c).time = c.time := rfl
@[simp] theorem onClk_ad (f : ClkSt → ClkSt) (c : Ctl) : (onClk f c).ad = c.ad := rfl
@[simp] theorem onClk_tiles (f : ClkSt → ClkSt) (c : Ctl) : (onClk f c).tiles = c.tiles := rfl
@[simp] theorem onClk_share (f : ClkSt → ClkSt) (c : Ctl) : (onClk f c).share = c.share := rfl
@[simp] theorem onClk_memory (f : ClkSt → ClkSt) (c : Ctl) : (onClk f c).memory = c.memory := rfl
@[simp] theorem onClk_fab (f : ClkSt → ClkSt) (c : Ctl) : (onClk f c).fab = c.fab := rfl
@[simp] theorem onClk_coll (f : ClkSt → ClkSt) (c : Ctl) : (onClk f c).coll = c.coll := rfl
@[simp] theorem onClk_flt (f : ClkSt → ClkSt) (c : Ctl) : (onClk f c).flt = c.flt := rfl
@[simp] theorem onClk_gaf (f : ClkSt → ClkSt) (c : Ctl) : (onClk f c).gaf = c.gaf := rfl
@[simp] theorem onClk_sec (f : ClkSt → ClkSt) (c : Ctl) : (onClk f c).sec = c.sec := rfl
@[simp] theorem onClk_upd (f : ClkSt → ClkSt) (c : Ctl) : (onClk f c).upd = c.upd := rfl
@[simp] theorem onClk_mgt (f : ClkSt → ClkSt) (c : Ctl) : (onClk f c).mgt = c.mgt := rfl
@[simp] theorem onClk_pwr (f : ClkSt → ClkSt) (c : Ctl) : (onClk f c).pwr = c.pwr := rfl
@[simp] theorem onClk_eth (f : ClkSt → ClkSt) (c : Ctl) : (onClk f c).eth = c.eth := rfl
@[simp] theorem onClk_out (f : ClkSt → ClkSt) (c : Ctl) : (onClk f c).out = c.out := rfl
@[simp] theorem onClk_clk (f : ClkSt → ClkSt) (c : Ctl) : (onClk f c).clk = f c.clk := rfl
@[simp] theorem rd_onClk (fd : Fld) (f : ClkSt → ClkSt) (c : Ctl) : rd (onClk f c) fd = rd c fd := rfl

/-! ### onSec -/

@[simp] theorem onSec_regs (f : SecSt → SecSt) (c : Ctl) : (onSec f c).regs = c.regs := rfl
@[simp] theorem onSec_latched (f : SecSt → SecSt) (c : Ctl) : (onSec f c).latched = c.latched := rfl
@[simp] theorem onSec_freeCtr (f : SecSt → SecSt) (c : Ctl) : (onSec f c).freeCtr = c.freeCtr := rfl
@[simp] theorem onSec_time (f : SecSt → SecSt) (c : Ctl) : (onSec f c).time = c.time := rfl
@[simp] theorem onSec_ad (f : SecSt → SecSt) (c : Ctl) : (onSec f c).ad = c.ad := rfl
@[simp] theorem onSec_tiles (f : SecSt → SecSt) (c : Ctl) : (onSec f c).tiles = c.tiles := rfl
@[simp] theorem onSec_share (f : SecSt → SecSt) (c : Ctl) : (onSec f c).share = c.share := rfl
@[simp] theorem onSec_memory (f : SecSt → SecSt) (c : Ctl) : (onSec f c).memory = c.memory := rfl
@[simp] theorem onSec_fab (f : SecSt → SecSt) (c : Ctl) : (onSec f c).fab = c.fab := rfl
@[simp] theorem onSec_coll (f : SecSt → SecSt) (c : Ctl) : (onSec f c).coll = c.coll := rfl
@[simp] theorem onSec_flt (f : SecSt → SecSt) (c : Ctl) : (onSec f c).flt = c.flt := rfl
@[simp] theorem onSec_gaf (f : SecSt → SecSt) (c : Ctl) : (onSec f c).gaf = c.gaf := rfl
@[simp] theorem onSec_clk (f : SecSt → SecSt) (c : Ctl) : (onSec f c).clk = c.clk := rfl
@[simp] theorem onSec_upd (f : SecSt → SecSt) (c : Ctl) : (onSec f c).upd = c.upd := rfl
@[simp] theorem onSec_mgt (f : SecSt → SecSt) (c : Ctl) : (onSec f c).mgt = c.mgt := rfl
@[simp] theorem onSec_pwr (f : SecSt → SecSt) (c : Ctl) : (onSec f c).pwr = c.pwr := rfl
@[simp] theorem onSec_eth (f : SecSt → SecSt) (c : Ctl) : (onSec f c).eth = c.eth := rfl
@[simp] theorem onSec_out (f : SecSt → SecSt) (c : Ctl) : (onSec f c).out = c.out := rfl
@[simp] theorem onSec_sec (f : SecSt → SecSt) (c : Ctl) : (onSec f c).sec = f c.sec := rfl
@[simp] theorem rd_onSec (fd : Fld) (f : SecSt → SecSt) (c : Ctl) : rd (onSec f c) fd = rd c fd := rfl

/-! ### onUpd -/

@[simp] theorem onUpd_regs (f : UpdSt → UpdSt) (c : Ctl) : (onUpd f c).regs = c.regs := rfl
@[simp] theorem onUpd_latched (f : UpdSt → UpdSt) (c : Ctl) : (onUpd f c).latched = c.latched := rfl
@[simp] theorem onUpd_freeCtr (f : UpdSt → UpdSt) (c : Ctl) : (onUpd f c).freeCtr = c.freeCtr := rfl
@[simp] theorem onUpd_time (f : UpdSt → UpdSt) (c : Ctl) : (onUpd f c).time = c.time := rfl
@[simp] theorem onUpd_ad (f : UpdSt → UpdSt) (c : Ctl) : (onUpd f c).ad = c.ad := rfl
@[simp] theorem onUpd_tiles (f : UpdSt → UpdSt) (c : Ctl) : (onUpd f c).tiles = c.tiles := rfl
@[simp] theorem onUpd_share (f : UpdSt → UpdSt) (c : Ctl) : (onUpd f c).share = c.share := rfl
@[simp] theorem onUpd_memory (f : UpdSt → UpdSt) (c : Ctl) : (onUpd f c).memory = c.memory := rfl
@[simp] theorem onUpd_fab (f : UpdSt → UpdSt) (c : Ctl) : (onUpd f c).fab = c.fab := rfl
@[simp] theorem onUpd_coll (f : UpdSt → UpdSt) (c : Ctl) : (onUpd f c).coll = c.coll := rfl
@[simp] theorem onUpd_flt (f : UpdSt → UpdSt) (c : Ctl) : (onUpd f c).flt = c.flt := rfl
@[simp] theorem onUpd_gaf (f : UpdSt → UpdSt) (c : Ctl) : (onUpd f c).gaf = c.gaf := rfl
@[simp] theorem onUpd_clk (f : UpdSt → UpdSt) (c : Ctl) : (onUpd f c).clk = c.clk := rfl
@[simp] theorem onUpd_sec (f : UpdSt → UpdSt) (c : Ctl) : (onUpd f c).sec = c.sec := rfl
@[simp] theorem onUpd_mgt (f : UpdSt → UpdSt) (c : Ctl) : (onUpd f c).mgt = c.mgt := rfl
@[simp] theorem onUpd_pwr (f : UpdSt → UpdSt) (c : Ctl) : (onUpd f c).pwr = c.pwr := rfl
@[simp] theorem onUpd_eth (f : UpdSt → UpdSt) (c : Ctl) : (onUpd f c).eth = c.eth := rfl
@[simp] theorem onUpd_out (f : UpdSt → UpdSt) (c : Ctl) : (onUpd f c).out = c.out := rfl
@[simp] theorem onUpd_upd (f : UpdSt → UpdSt) (c : Ctl) : (onUpd f c).upd = f c.upd := rfl
@[simp] theorem rd_onUpd (fd : Fld) (f : UpdSt → UpdSt) (c : Ctl) : rd (onUpd f c) fd = rd c fd := rfl

/-! ### onMgt -/

@[simp] theorem onMgt_regs (f : MgtSt → MgtSt) (c : Ctl) : (onMgt f c).regs = c.regs := rfl
@[simp] theorem onMgt_latched (f : MgtSt → MgtSt) (c : Ctl) : (onMgt f c).latched = c.latched := rfl
@[simp] theorem onMgt_freeCtr (f : MgtSt → MgtSt) (c : Ctl) : (onMgt f c).freeCtr = c.freeCtr := rfl
@[simp] theorem onMgt_time (f : MgtSt → MgtSt) (c : Ctl) : (onMgt f c).time = c.time := rfl
@[simp] theorem onMgt_ad (f : MgtSt → MgtSt) (c : Ctl) : (onMgt f c).ad = c.ad := rfl
@[simp] theorem onMgt_tiles (f : MgtSt → MgtSt) (c : Ctl) : (onMgt f c).tiles = c.tiles := rfl
@[simp] theorem onMgt_share (f : MgtSt → MgtSt) (c : Ctl) : (onMgt f c).share = c.share := rfl
@[simp] theorem onMgt_memory (f : MgtSt → MgtSt) (c : Ctl) : (onMgt f c).memory = c.memory := rfl
@[simp] theorem onMgt_fab (f : MgtSt → MgtSt) (c : Ctl) : (onMgt f c).fab = c.fab := rfl
@[simp] theorem onMgt_coll (f : MgtSt → MgtSt) (c : Ctl) : (onMgt f c).coll = c.coll := rfl
@[simp] theorem onMgt_flt (f : MgtSt → MgtSt) (c : Ctl) : (onMgt f c).flt = c.flt := rfl
@[simp] theorem onMgt_gaf (f : MgtSt → MgtSt) (c : Ctl) : (onMgt f c).gaf = c.gaf := rfl
@[simp] theorem onMgt_clk (f : MgtSt → MgtSt) (c : Ctl) : (onMgt f c).clk = c.clk := rfl
@[simp] theorem onMgt_sec (f : MgtSt → MgtSt) (c : Ctl) : (onMgt f c).sec = c.sec := rfl
@[simp] theorem onMgt_upd (f : MgtSt → MgtSt) (c : Ctl) : (onMgt f c).upd = c.upd := rfl
@[simp] theorem onMgt_pwr (f : MgtSt → MgtSt) (c : Ctl) : (onMgt f c).pwr = c.pwr := rfl
@[simp] theorem onMgt_eth (f : MgtSt → MgtSt) (c : Ctl) : (onMgt f c).eth = c.eth := rfl
@[simp] theorem onMgt_out (f : MgtSt → MgtSt) (c : Ctl) : (onMgt f c).out = c.out := rfl
@[simp] theorem onMgt_mgt (f : MgtSt → MgtSt) (c : Ctl) : (onMgt f c).mgt = f c.mgt := rfl
@[simp] theorem rd_onMgt (fd : Fld) (f : MgtSt → MgtSt) (c : Ctl) : rd (onMgt f c) fd = rd c fd := rfl

/-! ### onPwr -/

@[simp] theorem onPwr_regs (f : PwrSt → PwrSt) (c : Ctl) : (onPwr f c).regs = c.regs := rfl
@[simp] theorem onPwr_latched (f : PwrSt → PwrSt) (c : Ctl) : (onPwr f c).latched = c.latched := rfl
@[simp] theorem onPwr_freeCtr (f : PwrSt → PwrSt) (c : Ctl) : (onPwr f c).freeCtr = c.freeCtr := rfl
@[simp] theorem onPwr_time (f : PwrSt → PwrSt) (c : Ctl) : (onPwr f c).time = c.time := rfl
@[simp] theorem onPwr_ad (f : PwrSt → PwrSt) (c : Ctl) : (onPwr f c).ad = c.ad := rfl
@[simp] theorem onPwr_tiles (f : PwrSt → PwrSt) (c : Ctl) : (onPwr f c).tiles = c.tiles := rfl
@[simp] theorem onPwr_share (f : PwrSt → PwrSt) (c : Ctl) : (onPwr f c).share = c.share := rfl
@[simp] theorem onPwr_memory (f : PwrSt → PwrSt) (c : Ctl) : (onPwr f c).memory = c.memory := rfl
@[simp] theorem onPwr_fab (f : PwrSt → PwrSt) (c : Ctl) : (onPwr f c).fab = c.fab := rfl
@[simp] theorem onPwr_coll (f : PwrSt → PwrSt) (c : Ctl) : (onPwr f c).coll = c.coll := rfl
@[simp] theorem onPwr_flt (f : PwrSt → PwrSt) (c : Ctl) : (onPwr f c).flt = c.flt := rfl
@[simp] theorem onPwr_gaf (f : PwrSt → PwrSt) (c : Ctl) : (onPwr f c).gaf = c.gaf := rfl
@[simp] theorem onPwr_clk (f : PwrSt → PwrSt) (c : Ctl) : (onPwr f c).clk = c.clk := rfl
@[simp] theorem onPwr_sec (f : PwrSt → PwrSt) (c : Ctl) : (onPwr f c).sec = c.sec := rfl
@[simp] theorem onPwr_upd (f : PwrSt → PwrSt) (c : Ctl) : (onPwr f c).upd = c.upd := rfl
@[simp] theorem onPwr_mgt (f : PwrSt → PwrSt) (c : Ctl) : (onPwr f c).mgt = c.mgt := rfl
@[simp] theorem onPwr_eth (f : PwrSt → PwrSt) (c : Ctl) : (onPwr f c).eth = c.eth := rfl
@[simp] theorem onPwr_out (f : PwrSt → PwrSt) (c : Ctl) : (onPwr f c).out = c.out := rfl
@[simp] theorem onPwr_pwr (f : PwrSt → PwrSt) (c : Ctl) : (onPwr f c).pwr = f c.pwr := rfl
@[simp] theorem rd_onPwr (fd : Fld) (f : PwrSt → PwrSt) (c : Ctl) : rd (onPwr f c) fd = rd c fd := rfl

/-! ### onEth -/

@[simp] theorem onEth_regs (f : EthSt → EthSt) (c : Ctl) : (onEth f c).regs = c.regs := rfl
@[simp] theorem onEth_latched (f : EthSt → EthSt) (c : Ctl) : (onEth f c).latched = c.latched := rfl
@[simp] theorem onEth_freeCtr (f : EthSt → EthSt) (c : Ctl) : (onEth f c).freeCtr = c.freeCtr := rfl
@[simp] theorem onEth_time (f : EthSt → EthSt) (c : Ctl) : (onEth f c).time = c.time := rfl
@[simp] theorem onEth_ad (f : EthSt → EthSt) (c : Ctl) : (onEth f c).ad = c.ad := rfl
@[simp] theorem onEth_tiles (f : EthSt → EthSt) (c : Ctl) : (onEth f c).tiles = c.tiles := rfl
@[simp] theorem onEth_share (f : EthSt → EthSt) (c : Ctl) : (onEth f c).share = c.share := rfl
@[simp] theorem onEth_memory (f : EthSt → EthSt) (c : Ctl) : (onEth f c).memory = c.memory := rfl
@[simp] theorem onEth_fab (f : EthSt → EthSt) (c : Ctl) : (onEth f c).fab = c.fab := rfl
@[simp] theorem onEth_coll (f : EthSt → EthSt) (c : Ctl) : (onEth f c).coll = c.coll := rfl
@[simp] theorem onEth_flt (f : EthSt → EthSt) (c : Ctl) : (onEth f c).flt = c.flt := rfl
@[simp] theorem onEth_gaf (f : EthSt → EthSt) (c : Ctl) : (onEth f c).gaf = c.gaf := rfl
@[simp] theorem onEth_clk (f : EthSt → EthSt) (c : Ctl) : (onEth f c).clk = c.clk := rfl
@[simp] theorem onEth_sec (f : EthSt → EthSt) (c : Ctl) : (onEth f c).sec = c.sec := rfl
@[simp] theorem onEth_upd (f : EthSt → EthSt) (c : Ctl) : (onEth f c).upd = c.upd := rfl
@[simp] theorem onEth_mgt (f : EthSt → EthSt) (c : Ctl) : (onEth f c).mgt = c.mgt := rfl
@[simp] theorem onEth_pwr (f : EthSt → EthSt) (c : Ctl) : (onEth f c).pwr = c.pwr := rfl
@[simp] theorem onEth_out (f : EthSt → EthSt) (c : Ctl) : (onEth f c).out = c.out := rfl
@[simp] theorem onEth_eth (f : EthSt → EthSt) (c : Ctl) : (onEth f c).eth = f c.eth := rfl
@[simp] theorem rd_onEth (fd : Fld) (f : EthSt → EthSt) (c : Ctl) : rd (onEth f c) fd = rd c fd := rfl

/-! ### What a component update puts -/

@[simp] theorem setTc_now (t : Nat) (c : Ctl) : now (setTc t c) = t % 2 ^ 64 := by simp [now, setTc]
@[simp] theorem passTime_mono (d : Nat) (c : Ctl) : (passTime d c).time.mono = c.time.mono + d := rfl
@[simp] theorem setFabSrc_src (l : List SrcCtx) (c : Ctl) : (setFabSrc l c).fab.src = l := rfl
@[simp] theorem setFabSrc_ready (l : List SrcCtx) (c : Ctl) : (setFabSrc l c).fab.ready = c.fab.ready := rfl
@[simp] theorem setFabDst_dst (l : List DstCtx) (c : Ctl) : (setFabDst l c).fab.dst = l := rfl
@[simp] theorem setFabDst_ready (l : List DstCtx) (c : Ctl) : (setFabDst l c).fab.ready = c.fab.ready := rfl
@[simp] theorem setReady_ready (l : List (Nat × Nat × Nat × SrcPkt)) (c : Ctl) : (setReady l c).fab.ready = l := rfl
@[simp] theorem setReady_src (l : List (Nat × Nat × Nat × SrcPkt)) (c : Ctl) : (setReady l c).fab.src = c.fab.src := rfl
@[simp] theorem setTake_ctlDue (k : Nat) (t : Take) (c : Ctl) : (setTake k t c).ad.ctlDue = c.ad.ctlDue := rfl
@[simp] theorem setReel_ctlDue (r : Nat) (x : Reel) (c : Ctl) : (setReel r x c).ad.ctlDue = c.ad.ctlDue := rfl
@[simp] theorem advance_take (t : Tile) : (advance t).take = t.take := rfl
@[simp] theorem advance_pc (t : Tile) : (advance t).pc = (t.pc + 8) % 2 ^ 32 := rfl
@[simp] theorem advance_lastPc (t : Tile) : (advance t).lastPc = t.pc := rfl
@[simp] theorem advance_queues (t : Tile) : (advance t).queues = t.queues := rfl
@[simp] theorem emit_out (o : Out) (c : Ctl) : (emit o c).out = o :: c.out := rfl

end Sys2Proof.Machine
end

