-- ==== Sys2Proof/Laws/Tile.lean ====
section
/-! SUPPORT. Issue on a quiet state: the checks pass, the instruction takes effect, and an instruction for a unit's queue runs at
once. -/

namespace Sys2Proof.Machine

/-- What issue does before the effect: the program counter moves on, the instruction is counted. -/
def stepped (i : Nat) (s : State) : State :=
  onTile i advance
    (onCtl (fun c => tileCount i 95 (b2n (!(tileAt s.c i).take.isSome)) (tileCount i 4 1 c)) s)

theorem not_issueHeld {c : Ctl} (h : c.quiet = true) (i : Nat) : issueHeld c i = false := by
  simp [issueHeld, Tile.quiet_clap (Ctl.quiet_tileAt h i), fun j u => Tile.quiet_queue (Ctl.quiet_tileAt h j) u]

theorem not_dscPending {t : Tile} (h : t.quiet = true) (n : Nat) : dscPending t n = false := by
  simp [dscPending, Tile.quiet_queue h]

theorem not_waitWrites {c : Ctl} (h : c.quiet = true) (i n : Nat) : waitWrites c i n = false := by
  simp [waitWrites, fun j u => Tile.quiet_queue (Ctl.quiet_tileAt h j) u]

/-- In a quiet state only a limit of its own stalls an instruction. -/
theorem stalled_quiet {c : Ctl} (h : c.quiet = true) (i : Nat) (f : OpForm) : stalled c i f = f.hold := by
  have h1 : f.descs.any (dscPending (tileAt c i)) = false := by simp [not_dscPending (Ctl.quiet_tileAt h i)]
  have h2 : f.srcs.any (waitWrites c i) = false := by simp [not_waitWrites h]
  simp [stalled, h1, h2]

/-- Issue where every check passes. -/
theorem issue_runs (i : Nat) (w : BitVec 64) (unit : Nat) (f : OpForm) (run : State → State) (s : State) (hq : s.c.quiet = true)
    (hi : canIssue s.c i w = true) (hr : f.rsvOk = true) (hc : f.crewOnly = false ∨ (tileAt s.c i).take = none) (hv : f.valid = true)
    (hh : f.hold = false) : issue i w unit f run s = run (stepped i s) := by
  simp only [canIssue, Bool.and_eq_true, Bool.not_eq_true', Bool.or_eq_true, beq_iff_eq] at hi
  obtain ⟨⟨⟨⟨h1, h2⟩, h3⟩, h4⟩, h5⟩ := hi
  have hg : ((tileAt s.c i).width != 0 && (tileAt s.c i).leader != i) = false := by
    rcases h3 with h | h <;> simp [h]
  have hcc : (f.crewOnly && (tileAt s.c i).take.isSome) = false := by
    rcases hc with h | h <;> simp [h]
  have hqd : (unit != 0 && (gangOf s.c i).any fun j => decide ((queueOf (tileAt s.c j) unit).length ≥ queueDepth unit)) = false := by
    by_cases hu : unit = 0
    · simp [hu]
    · have hp : 0 < queueDepth unit := by unfold queueDepth; repeat' split
                                          all_goals omega
      rw [Bool.and_eq_false_iff]
      right
      rw [List.any_eq_false]
      intro j _
      rw [Tile.quiet_queue (Ctl.quiet_tileAt hq j)]
      simp; omega
  unfold issue
  simp only [h1, h2, not_issueHeld hq, stalled_quiet hq, hh, hg, h4, hr, hcc, hv, h5, hqd, Bool.or_false, Bool.false_eq_true, if_false, Bool.not_true]
  rfl

theorem stepped_tile (i : Nat) (s : State) :
    tileAt (stepped i s).c i = advance (tileAt s.c i) := by
  simp [stepped, onTile, onCtl, tileAt_setTile]
  simp [tileAt]

theorem stepped_other (i j : Nat) (s : State) (h : j ≠ i) : tileAt (stepped i s).c j = tileAt s.c j := by
  simp [stepped, onTile, onCtl, tileAt_setTile, h]
  simp [tileAt]

theorem stepped_mem (i : Nat) (s : State) : (stepped i s).mem = s.mem := rfl
theorem stepped_pending (i : Nat) (s : State) : (stepped i s).pending = s.pending := rfl
theorem stepped_ad (i : Nat) (s : State) : (stepped i s).c.ad = s.c.ad := by simp [stepped, onTile, onCtl, setTile]
theorem stepped_time (i : Nat) (s : State) : (stepped i s).c.time = s.c.time := by simp [stepped, onTile, onCtl, setTile]
theorem stepped_share (i : Nat) (s : State) : (stepped i s).c.share = s.c.share := by simp [stepped, onTile, onCtl, setTile]

theorem stepped_rd (i : Nat) (s : State) (g : Fld) (h : countKey g.key = false) (ht : tileCountKey i g.key = false) :
    rd (stepped i s).c g = rd s.c g := by
  simp only [stepped, onTile, onCtl]
  rw [rd_setTile, rd_tileCount g _ _ _ _ h ht, rd_tileCount g _ _ _ _ h ht]

theorem stepped_quiet (i : Nat) (s : State) (h : s.c.quiet = true) : (stepped i s).c.quiet = true := by
  unfold stepped
  refine onTile_quiet ?_ i _ (fun t ht => ht)
  simp only [onCtl]
  rw [(regsOnly_tileCount _ _ _ _).quiet, (regsOnly_tileCount _ _ _ _).quiet]
  exact h

theorem gangOf_solo (c : Ctl) (i : Nat) (h : soloTile c i = true) : gangOf c i = [i] := by
  simp only [soloTile, beq_iff_eq] at h
  simp [gangOf, h]

/-! ### The effect of an instruction of the sequencer -/

theorem tileStep_next (i : Nat) (w : BitVec 64) (unit : Nat) (f : OpForm) (run : State → State) (s : State) (hq : s.c.quiet = true)
    (hi : canIssue s.c i w = true) (hr : f.rsvOk = true) (hc : f.crewOnly = false ∨ (tileAt s.c i).take = none) (hv : f.valid = true) (hh : f.hold = false)
    (h2 : (run (stepped i s)).c.quiet = true) : tileStep i w unit f run s = .next (run (stepped i s)) := by
  rw [tileStep, issue_runs i w unit f run s hq hi hr hc hv hh, settle_drain_quiet _ h2]

theorem sReg_setS (t : Tile) (n m : Nat) (v : DWord) : sReg (setS n v t) m = if m = n then (if n = 0 then 0 else v) else sReg t m := by
  unfold sReg setS
  by_cases hm : m = 0
  · subst hm; by_cases hn : n = 0
    · simp [hn]
    · simp [Ne.symm hn]
  · by_cases hn : n = 0
    · subst hn; simp [hm]
    · simp only [hm, hn, if_false]
      rw [Map.getD_setD]

theorem pReg_setP (t : Tile) (n m : Nat) (v : BitVec 128) :
    pReg (setP n v t) m = if m = n then (if n = 0 then BitVec.allOnes 128 else v) else pReg t m := by
  unfold pReg setP
  by_cases hm : m = 0
  · subst hm; by_cases hn : n = 0
    · simp [hn]
    · simp [Ne.symm hn]
  · by_cases hn : n = 0
    · subst hn; simp [hm]
    · simp only [hm, hn, if_false]
      rw [Map.getD_setD]

theorem setS_quiet (n : Nat) (v : DWord) (t : Tile) (h : t.quiet = true) : (setS n v t).quiet = true := by
  unfold setS; split
  · exact h
  · exact h

theorem setP_quiet (n : Nat) (v : BitVec 128) (t : Tile) (h : t.quiet = true) : (setP n v t).quiet = true := by
  unfold setP; split
  · exact h
  · exact h

/-- A change of one tile after the step of its program counter: the tile, and the frame. -/
theorem onTile_stepped_frame (i : Nat) (f : Tile → Tile) (s : State) : tileFrame i s (onTile i f (stepped i s)) := by
  refine ⟨fun j hj => ?_, fun a => rfl, rfl, stepped_ad i s, stepped_time i s, fun g h ht => stepped_rd i s g h ht⟩
  simp only [onTile, onCtl, tileAt_setTile, if_neg hj]
  exact stepped_other i j s hj

theorem onTile_stepped_tile (i : Nat) (f : Tile → Tile) (s : State) :
    tileAt (onTile i f (stepped i s)).c i = f (advance (tileAt s.c i)) := by
  simp only [onTile, onCtl, tileAt_setTile, if_true, stepped_tile]

/-- A state in which the program counter of a tile has moved on and nothing else but counters has changed. -/
def SteppedTo (i : Nat) (s x : State) : Prop :=
  tileAt x.c i = advance (tileAt s.c i) ∧
  tileFrame i s x ∧ x.c.quiet = true ∧ x.c.share = s.c.share ∧ x.c.memory = s.c.memory

theorem stepped_memory (i : Nat) (s : State) : (stepped i s).c.memory = s.c.memory := by
  simp [stepped, onTile, onCtl, setTile, (regsOnly_tileCount _ _ _ _).memory]

theorem stepped_frame (i : Nat) (s : State) : tileFrame i s (stepped i s) :=
  ⟨fun j hj => stepped_other i j s hj, fun _ => rfl, rfl, stepped_ad i s, stepped_time i s, fun g h ht => stepped_rd i s g h ht⟩

theorem steppedTo_stepped (i : Nat) (s : State) (h : s.c.quiet = true) : SteppedTo i s (stepped i s) :=
  ⟨stepped_tile i s, stepped_frame i s, stepped_quiet i s h, stepped_share i s, stepped_memory i s⟩

theorem steppedTo_tileCount (i n k : Nat) (s x : State) (h : SteppedTo i s x) : SteppedTo i s (onCtl (tileCount i n k) x) := by
  obtain ⟨h1, ⟨h2, h3, h4, h5, h6, h7⟩, h8, h9, h10⟩ := h
  have ht : (onCtl (tileCount i n k) x).c.tiles = x.c.tiles := tileCount_tiles i n k x.c
  refine ⟨?_, ⟨fun j hj => ?_, h3, h4, ?_, ?_, fun g hg hgt => ?_⟩, ?_, ?_, ?_⟩
  · rw [tileAt, ht]; exact h1
  · rw [tileAt, ht]; exact h2 j hj
  · rw [← h5]; exact tileCount_ad i n k x.c
  · rw [← h6]; exact tileCount_time i n k x.c
  · rw [← h7 g hg hgt]; exact rd_tileCount g i n k x.c hg hgt
  · rw [← h8]; exact (regsOnly_tileCount i n k x.c).quiet
  · rw [← h9]; exact tileCount_share i n k x.c
  · rw [← h10]; exact (regsOnly_tileCount i n k x.c).memory

/-- A scratchpad is reached alike before and after the step of the program counter. -/
theorem spadReach_congr (c d : Ctl) (i : Nat) (write : Bool) (a n : Nat) (ht : (tileAt d i).take = (tileAt c i).take)
    (hk : ∀ k, takeAt d k = takeAt c k) (hr : ∀ t, reachFault d t write a n = reachFault c t write a n) :
    spadReach d i write a n = spadReach c i write a n := by
  simp only [spadReach, ht, hk, hr]

theorem regionOf_congr (c d : Ctl) (a : Nat) (h : rd d Reg.MEM_SIZE_GIB = rd c Reg.MEM_SIZE_GIB) : regionOf d a = regionOf c a := by
  have hb : lpddrBytes d = lpddrBytes c := by rw [lpddrBytes, lpddrBytes, h]
  unfold regionOf
  rw [hb]

theorem hole_congr (c d : Ctl) (a : Nat) (h : rd d Reg.MEM_SIZE_GIB = rd c Reg.MEM_SIZE_GIB) (hm : d.memory = c.memory) :
    hole d a = hole c a := by
  unfold hole
  rw [regionOf_congr c d a h, hm]

theorem castReaches_congr (c d : Ctl) (t : Take) (write : Bool) (a : Nat) (h : rd d Reg.MEM_SIZE_GIB = rd c Reg.MEM_SIZE_GIB)
    (ha : d.ad = c.ad) (hs : d.share = c.share) (hm : d.memory = c.memory) : castReaches d t write a = castReaches c t write a := by
  have hp : plainTiles d t.cell = plainTiles c t.cell := by simp only [plainTiles, groupExists, ha]
  have hi : inImage d a = inImage c a := by simp only [inImage, hs]
  have hal : inAllotment d a = inAllotment c a := by simp only [inAllotment, regionOf_congr c d a h, hm]
  simp only [castReaches, regionOf_congr c d a h, hole_congr c d a h hm, hp, hi, hal]

theorem reachFault_congr (c d : Ctl) (t : Take) (write : Bool) (a n : Nat) (h : rd d Reg.MEM_SIZE_GIB = rd c Reg.MEM_SIZE_GIB)
    (ha : d.ad = c.ad) (hs : d.share = c.share) (hm : d.memory = c.memory) : reachFault d t write a n = reachFault c t write a n := by
  have hc : ∀ x, castReaches d t write x = castReaches c t write x := fun x => castReaches_congr c d t write x h ha hs hm
  simp only [reachFault, hc, fun x => regionOf_congr c d x h]

/-- The whole effect of writing a scalar register after the step of the program counter. -/
theorem setS_steppedTo (i n : Nat) (v : DWord) (s x : State) (h : SteppedTo i s x) :
    scalarWritten i n v s (onTile i (setS n v) x) ∧ (onTile i (setS n v) x).c.quiet = true := by
  obtain ⟨h1, ⟨h2, h3, h4, h5, h6, h7⟩, h8, _, _⟩ := h
  have hx : tileAt (onTile i (setS n v) x).c i = setS n v (tileAt x.c i) := by
    simp only [onTile, onCtl, tileAt_setTile, if_true]
  refine ⟨⟨fun m => ?_, ?_, ⟨fun j hj => ?_, h3, h4, h5, h6, fun g hg hgt => h7 g hg hgt⟩⟩, ?_⟩
  · rw [hx, sReg_setS, h1]; rfl
  · rw [hx, h1]; unfold setS; split <;> rfl
  · simp only [onTile, onCtl, tileAt_setTile, if_neg hj]; exact h2 j hj
  · exact onTile_quiet h8 i _ (fun t ht => setS_quiet n v t ht)

/-- A change of the tile keeps the frame; one that keeps it quiet keeps the state quiet. -/
theorem onTile_frame (i : Nat) (f : Tile → Tile) (s x : State) (h : tileFrame i s x) (hq : x.c.quiet = true)
    (hf : ∀ t : Tile, t.quiet = true → (f t).quiet = true) :
    tileFrame i s (onTile i f x) ∧ (onTile i f x).c.quiet = true ∧ tileAt (onTile i f x).c i = f (tileAt x.c i) := by
  obtain ⟨h2, h3, h4, h5, h6, h7⟩ := h
  refine ⟨⟨fun j hj => ?_, h3, h4, h5, h6, fun g hg hgt => h7 g hg hgt⟩, onTile_quiet hq i f hf, ?_⟩
  · simp only [onTile, onCtl, tileAt_setTile, if_neg hj]; exact h2 j hj
  · simp only [onTile, onCtl, tileAt_setTile, if_true]

/-- Counting after a change of the tile. -/
theorem tileCount_frame (i n k : Nat) (s x : State) (h : tileFrame i s x) : tileFrame i s (onCtl (tileCount i n k) x) := by
  obtain ⟨h2, h3, h4, h5, h6, h7⟩ := h
  have ht : (onCtl (tileCount i n k) x).c.tiles = x.c.tiles := tileCount_tiles i n k x.c
  refine ⟨fun j hj => ?_, h3, h4, ?_, ?_, fun g hg hgt => ?_⟩
  · rw [tileAt, ht]; exact h2 j hj
  · rw [← h5]; exact tileCount_ad i n k x.c
  · rw [← h6]; exact tileCount_time i n k x.c
  · rw [← h7 g hg hgt]; exact rd_tileCount g i n k x.c hg hgt

theorem tileCount_tileAt (i n k j : Nat) (x : State) : tileAt (onCtl (tileCount i n k) x).c j = tileAt x.c j := by
  have ht : (onCtl (tileCount i n k) x).c.tiles = x.c.tiles := tileCount_tiles i n k x.c
  rw [tileAt, ht]; rfl

theorem tileCount_quiet (i n k : Nat) (x : State) : (onCtl (tileCount i n k) x).c.quiet = x.c.quiet := (regsOnly_tileCount i n k x.c).quiet

theorem sVal_steppedTo {i : Nat} {s x : State} (h : SteppedTo i s x) (n : Nat) : sVal x i n = sReg (tileAt s.c i) n := by
  simp [sVal, h.1, sReg, advance]

theorem sVal_stepped (i : Nat) (s : State) (n : Nat) : sVal (stepped i s) i n = sReg (tileAt s.c i) n := by
  simp [sVal, stepped_tile, sReg, advance]

theorem pcOf_stepped (i : Nat) (s : State) : pcOf (stepped i s) i = (tileAt s.c i).pc := by
  simp [pcOf, stepped_tile, advance]

/-- An instruction of the sequencer whose effect is to write one scalar register. -/
theorem tileStep_setS (i n : Nat) (v : DWord) (w : BitVec 64) (unit : Nat) (f : OpForm) (run : State → State) (s : State)
    (hq : s.c.quiet = true) (hi : canIssue s.c i w = true) (hr : f.rsvOk = true)
    (hc : f.crewOnly = false ∨ (tileAt s.c i).take = none) (hv : f.valid = true)
    (hh : f.hold = false) (h : run (stepped i s) = onTile i (setS n v) (stepped i s)) :
    ∃ t, tileStep i w unit f run s = .next t ∧ scalarWritten i n v s t := by
  have hs := setS_steppedTo i n v s _ (steppedTo_stepped i s hq)
  exact ⟨_, tileStep_next i w unit f run s hq hi hr hc hv hh (by rw [h]; exact hs.2), by rw [h]; exact hs.1⟩

/-! ### Scratchpads -/

theorem spadReach_steppedTo (i : Nat) (s x : State) (h : SteppedTo i s x) (write : Bool) (a n : Nat) :
    spadReach x.c i write a n = spadReach s.c i write a n := by
  obtain ⟨h1, ⟨_, _, _, h5, _, h7⟩, _, h9, h10⟩ := h
  refine spadReach_congr s.c x.c i write a n (by rw [h1, advance]) (fun k => by simp only [takeAt, h5]) (fun t => ?_)
  refine reachFault_congr s.c x.c t write a n (h7 _ (by decide) (tileCountKey_block i _ (by decide))) h5 h9 h10

theorem regionOf_spad (c : Ctl) (a : Nat) (h : a < 0x18000000) : regionOf c a = .spad (a / 0x200000) := by
  simp [regionOf, h]

/-- A block in which no error stands is met as it is. -/
theorem meetFlaw_none (b : Nat) (s : State) (h : errorAt s b = false) : meetFlaw b s = s := by
  simp only [errorAt, Bool.or_eq_false_iff, Option.isSome_eq_false_iff, Option.isNone_iff_eq_none] at h
  simp [meetFlaw, meetLink, h.1, h.2]

theorem meetFlaws_none (a n : Nat) (s : State) (h : ∀ k, k < n → errorAt s (poisonBase (a + k)) = false) : meetFlaws a n s = s := by
  unfold meetFlaws
  split
  · rfl
  · have key : ∀ l : List Nat, (∀ b ∈ l, errorAt s b = false) → l.foldl (fun s b => meetFlaw b s) s = s := by
      intro l
      induction l with
      | nil => intro _; rfl
      | cons b l ih =>
        intro hl
        rw [List.foldl_cons, meetFlaw_none b s (hl b (by simp))]
        exact ih (fun x hx => hl x (List.mem_cons_of_mem _ hx))
    refine key _ (fun b hb => ?_)
    rw [List.mem_eraseDups, List.mem_map] at hb
    obtain ⟨k, hk, rfl⟩ := hb
    exact h k (List.mem_range.mp hk)

theorem hole_spad (c : Ctl) (a : Nat) (h : a < 0x18000000) : hole c a = false := by simp [hole, regionOf_spad c a h]

theorem stray_spad (i a n : Nat) (c : Ctl) (h : a + n ≤ 0x18000000) : stray i a n c = c := by
  have hr : ∀ r : Region, (∀ j, r ≠ .spad j) → (List.range n).any (fun k => regionOf c (a + k) == r) = false := by
    intro r hne
    rw [List.any_eq_false]
    intro k hk
    have := List.mem_range.mp hk
    rw [regionOf_spad c (a + k) (by omega)]
    simpa using (hne _).symm
  have h1 := hr .control (fun j => by simp)
  have h2 := hr .unmapped (fun j => by simp)
  simp [stray, h1, h2, when]

/-- What an access of a tile to a scratchpad counts. -/
def counted (write : Bool) (i a n : Nat) (s : State) : State := onCtl (fun c => countSpad write i a n (countPackage write i a n c)) s

theorem keyGone_spad (c : Ctl) (a n : Nat) (h : a + n ≤ 0x18000000) (hn : 0 < n) : keyGone c a n = false := by
  simp [keyGone, keyMissing, regionOf_spad c a (by omega), regionOf_spad c (a + n - 1) (by omega)]

theorem regsOnly_countSpad (write : Bool) (i a n : Nat) (c : Ctl) : RegsOnly c (countSpad write i a n c) := by
  unfold countSpad
  split
  · exact RegsOnly.refl c
  · simp only
    split
    · exact regsOnly_tileCount _ _ _ _
    · exact (regsOnly_tileCount _ _ _ _).trans (regsOnly_tileCount _ _ _ _)

theorem regsOnly_packageFlow (x y n : Nat) (c : Ctl) : RegsOnly c (packageFlow x y n c) := by
  unfold packageFlow
  simp only
  split
  · exact (((regsOnly_modCount _ _ _).trans (regsOnly_modCount _ _ _)).trans (regsOnly_modCount _ _ _)).trans (regsOnly_modCount _ _ _)
  · exact (regsOnly_modCount _ _ _).trans (regsOnly_modCount _ _ _)

theorem regsOnly_countPackage (write : Bool) (i a n : Nat) (c : Ctl) (h : a < 0x18000000) : RegsOnly c (countPackage write i a n c) := by
  unfold countPackage
  rw [regionOf_spad c a h]
  simp only
  split
  · exact RegsOnly.refl c
  · cases write
    · exact RegsOnly.trans (regsOnly_packageFlow _ _ _ _) (regsOnly_tileCount i 85 1 _)
    · exact regsOnly_packageFlow _ _ _ _

theorem regsOnly_counted (write : Bool) (i a n : Nat) (s : State) (h : a < 0x18000000) : RegsOnly s.c (counted write i a n s).c :=
  (regsOnly_countPackage write i a n s.c h).trans (regsOnly_countSpad write i a n _)

theorem counted_mem (write : Bool) (i a n : Nat) (s : State) : (counted write i a n s).mem = s.mem := rfl

theorem tileRead_spad (i a n : Nat) (s : State) (h : spadReach s.c i false a n = true) (hn : 0 < n)
    (hp : ∀ k, k < n → isPoisoned s.mem (a + k) = false) (he : ∀ k, k < n → errorAt s (poisonBase (a + k)) = false) :
    tileRead i a n s = (.ok (getBytes s.mem a n), counted false i a n s) := by
  simp only [spadReach, Bool.and_eq_true, decide_eq_true_eq] at h
  obtain ⟨ha, hr⟩ := h
  have hlt : ∀ k, k < n → a + k < lpddrBase := fun k hk => by simp only [lpddrBase]; omega
  have hpo : (List.range n).findSome? (fun k => tilePoison (counted false i a n s) i (a + k)) = none := by
    rw [List.findSome?_eq_none_iff]
    intro k hk
    have hk := List.mem_range.mp hk
    have := hlt k hk
    simp only [tilePoison, counted_mem, hp k hk, Bool.false_or]
    rw [if_neg (by omega)]
    simp; intro; omega
  have hb : (List.range n).map (fun k => if (takeOf s.c i).isNone && hole (counted false i a n s).c (a + k) then (0 : Byte)
      else tileByte (counted false i a n s) i (a + k)) = getBytes s.mem a n := by
    unfold getBytes
    apply List.map_congr_left
    intro k hk
    have hk := List.mem_range.mp hk
    have := hlt k hk
    rw [hole_spad _ _ (by omega), Bool.and_false, if_neg (by simp), tileByte, if_neg (by omega), plainByte]
    simp only [show ¬ lpddrBase ≤ a + k by omega, if_false, counted_mem]
    simp
  have hreach : (takeOf s.c i).bind (fun t => reachFault s.c t false a n) = none := by
    unfold takeOf
    cases ht : (tileAt s.c i).take with
    | none => rfl
    | some k =>
      cases hk : takeAt s.c k with
      | none => simp [hk]
      | some t => simpa [ht, hk] using hr
  have hstray : (if (takeOf s.c i).isNone then onCtl (stray i a n) s else s) = s := by
    split
    · simp only [onCtl, stray_spad i a n s.c ha]
    · rfl
  unfold tileRead
  simp only [hreach, keyGone_spad s.c a n ha hn, Bool.false_eq_true, if_false, hstray]
  rw [if_pos (by have := hlt 0 hn; omega)]
  have hm := meetFlaws_none a n (counted false i a n s) (fun k hk => by
    have := he k hk
    simpa only [errorAt, counted_mem, (regsOnly_counted false i a n s (by omega)).memory] using this)
  simp only [counted] at hm hpo hb ⊢
  rw [hm]
  simp only [hpo]
  exact Prod.ext (congrArg Except.ok hb) rfl

theorem tileWrite_spad (i a : Nat) (bs : List Byte) (s : State) (h : spadReach s.c i true a bs.length = true) (hn : 0 < bs.length) :
    tileWrite i a bs s = (.ok (), tileStore i a bs (counted true i a bs.length s)) := by
  simp only [spadReach, Bool.and_eq_true, decide_eq_true_eq] at h
  obtain ⟨ha, hr⟩ := h
  have hlt : a < lpddrBase := by simp only [lpddrBase]; omega
  have hreach : (takeOf s.c i).bind (fun t => reachFault s.c t true a bs.length) = none := by
    unfold takeOf
    cases ht : (tileAt s.c i).take with
    | none => rfl
    | some k =>
      cases hk : takeAt s.c k with
      | none => simp [hk]
      | some t => simpa [ht, hk] using hr
  have hstray : (if (takeOf s.c i).isNone then onCtl (stray i a bs.length) s else s) = s := by
    split
    · simp only [onCtl, stray_spad i a bs.length s.c ha]
    · rfl
  have hh : (List.range bs.length).any (fun k => hole s.c (a + k)) = false := by
    rw [List.any_eq_false]
    intro k hk
    have := List.mem_range.mp hk
    simp [hole_spad s.c (a + k) (by omega)]
  unfold tileWrite
  simp only [hreach, keyGone_spad s.c a _ ha hn, Bool.false_eq_true, if_false, hstray, hh, Bool.and_false, if_pos hlt, counted]

/-- A store to a scratchpad puts the bytes; a whole word it covers loses its poison, and no other byte changes. -/
theorem getByte_tileStore_spad (i a : Nat) (bs : List Byte) (s : State) (h : a < lpddrBase) (x : Nat) :
    getByte (tileStore i a bs s).mem x = if a ≤ x ∧ x < a + bs.length then bs.getD (x - a) 0 else getByte s.mem x := by
  unfold tileStore
  rw [if_neg (by omega), if_neg (by omega)]
  simp only [setMem_mem, getByte_foldl_clearPoison, getByte_overwrite, getByte_putBytes]

theorem tileStore_spad_wf (i a : Nat) (bs : List Byte) (s : State) (h : a < lpddrBase) (hw : s.mem.wf = true) :
    (tileStore i a bs s).mem.wf = true := by
  unfold tileStore
  rw [if_neg (by omega), if_neg (by omega)]
  exact foldl_clearPoison_wf _ _ _ (overwrite_wf _ _ _ (putBytes_wf _ _ _ hw))

/-- Where the take of a tile reaches the scratchpad bytes, no reach fault is found. -/
theorem castFault_spad (c : Ctl) (i : Nat) (write : Bool) (a n : Nat) (h : spadReach c i write a n = true) : castFault c i write a n = none := by
  simp only [spadReach, Bool.and_eq_true] at h
  unfold castFault
  cases ht : (tileAt c i).take with
  | none => rfl
  | some k => cases hk : takeAt c k with
    | none => simp [hk]
    | some t => simpa [ht, hk] using h.2

/-- Where an address is aligned and the tile reaches the bytes, an access has no operand fault. -/
theorem addrFault_none (c : Ctl) (i : Nat) (write : Bool) (a b n : Nat) (h : a < 2 ^ 48) (hr : castFault c i write b n = none)
    (ha : a % n = 0) : addrFault c i write a b n = none := by
  simp only [addrFault, hr, Option.filter_none, Option.isSome_none, Bool.false_eq_true, if_false]
  rw [if_neg (by omega), if_neg (by omega)]

/-! ### One queued instruction -/

theorem drainLoop_quiet (n : Nat) (s : State) (h : s.c.quiet = true) : drainLoop n s = s := by
  cases n with
  | zero => rfl
  | succ n => simp [drainLoop, drainOne_quiet s h]

/-- Where one queue holds one instruction and every other queue is empty, draining runs it. -/
theorem drain_one (i u : Nat) (q : QItem) (s s2 : State) (hh : ∀ j v, headOf s.c j v = if j = i ∧ v = u then some q else none)
    (hm : (i, u) ∈ s.c.tiles.flatMap (fun e => e.2.queues.map (fun x => (e.1, x.1)))) (hr : runHead i u q s = some s2)
    (h2 : s2.c.quiet = true) : drain s = s2 := by
  have key : ∀ l : List (Nat × Nat), (i, u) ∈ l →
      l.findSome? (fun h => (headOf s.c h.1 h.2).bind (fun q => runHead h.1 h.2 q s)) = some s2 := by
    intro l
    induction l with
    | nil => intro h; simp at h
    | cons a l ih =>
      intro h
      rw [List.findSome?_cons]
      by_cases ha : a = (i, u)
      · subst ha
        simp [hh, hr]
      · have hn : ¬(a.1 = i ∧ a.2 = u) := fun hc => ha (Prod.ext hc.1 hc.2)
        rw [hh, if_neg hn, Option.bind_none]
        refine ih ?_
        rcases List.mem_cons.mp h with h | h
        · exact absurd h.symm ha
        · exact h
  have hround : drainOne s = some s2 := key _ hm
  unfold drain
  simp only [drainLoop, hround, drainLoop_quiet _ s2 h2]
  exact arrivals_quiet s2 h2

theorem queueOf_setQueue (t : Tile) (u v : Nat) (l : List QItem) : queueOf (setQueue u l t) v = if v = u then l else queueOf t v :=
  Map.getD_setD _ _ _ _ _

/-- An instruction put into the queue of a tile that runs alone, in a quiet state. -/
def queuedOne (i u : Nat) (q : QItem) (s : State) : State := onTile i (fun t => setQueue u [q] t) s

theorem headOf_queuedOne (i u : Nat) (q : QItem) (s : State) (h : s.c.quiet = true) (j v : Nat) :
    headOf (queuedOne i u q s).c j v = if j = i ∧ v = u then some q else none := by
  simp only [headOf, queuedOne, onTile, onCtl, tileAt_setTile]
  by_cases hj : j = i
  · subst hj
    simp only [if_true, queueOf_setQueue, true_and]
    by_cases hv : v = u
    · simp [hv]
    · simp [hv, Tile.quiet_queue (Ctl.quiet_tileAt h j)]
  · simp [hj, Tile.quiet_queue (Ctl.quiet_tileAt h j)]

theorem Map.put_mem {α : Type} (m : List (Nat × α)) (x : Nat) (v : α) : (x, v) ∈ Map.put m x v := by
  induction m with
  | nil => simp [Map.put]
  | cons e m ih =>
    obtain ⟨k, w⟩ := e
    simp only [Map.put]
    split
    · simp
    · split
      · simp
      · exact List.mem_cons_of_mem _ ih

theorem Map.setD_mem {α : Type} [DecidableEq α] (d : α) (m : List (Nat × α)) (x : Nat) (v : α) (h : v ≠ d) : (x, v) ∈ Map.setD d m x v := by
  rw [Map.setD, if_neg h]
  exact Map.put_mem m x v

theorem mem_queuedOne (i u : Nat) (q : QItem) (s : State) :
    (i, u) ∈ (queuedOne i u q s).c.tiles.flatMap (fun e => e.2.queues.map (fun x => (e.1, x.1))) := by
  have hq : (u, [q]) ∈ (setQueue u [q] (tileAt s.c i)).queues := Map.setD_mem [] (tileAt s.c i).queues u [q] (by simp)
  have hne : setQueue u [q] (tileAt s.c i) ≠ Tile.idle := by
    intro he
    rw [he] at hq
    simp [Tile.idle] at hq
  rw [List.mem_flatMap]
  refine ⟨(i, setQueue u [q] (tileAt s.c i)), Map.setD_mem _ _ _ _ hne, ?_⟩
  rw [List.mem_map]
  exact ⟨(u, [q]), hq, rfl⟩

/-- In a quiet state, an instruction queued on a tile that runs alone runs at once. -/
theorem drain_queuedOne (i u : Nat) (q : QItem) (s s2 : State) (h : s.c.quiet = true) (hr : runHead i u q (queuedOne i u q s) = some s2)
    (h2 : s2.c.quiet = true) : drain (queuedOne i u q s) = s2 :=
  drain_one i u q _ s2 (headOf_queuedOne i u q s h) (mem_queuedOne i u q s) hr h2

/-- What an instruction captures when it is issued (R130, R182). -/
def captured (t : Tile) (w : BitVec 64) (sa sb sc da db : Nat) : QItem :=
  ⟨w, t.lastPc, sReg t sa, sReg t sb, sReg t sc, dReg t da, dReg t db⟩

theorem enqueue_solo (i unit : Nat) (w : BitVec 64) (sa sb sc da db : Nat) (s : State) (h : s.c.quiet = true) (hs : soloTile s.c i = true) :
    enqueue i unit w sa sb sc da db s = queuedOne i unit (captured (tileAt s.c i) w sa sb sc da db) s := by
  simp only [captured, enqueue, gangOf_solo s.c i hs, List.foldl_cons, List.foldl_nil, queuedOne, onTile, onCtl,
    Tile.quiet_queue (Ctl.quiet_tileAt h i), List.nil_append]

/-- Taking the one instruction from the queue gives the tile back as it was, but for the entry of its empty queue. -/
theorem popQueue_queuedOne_tile (i u : Nat) (q : QItem) (s : State) :
    tileAt (popQueue i u (queuedOne i u q s)).c i = setQueue u [] (setQueue u [q] (tileAt s.c i)) := by
  simp [popQueue, queuedOne, onTile, onCtl, tileAt_setTile, queueOf_setQueue]

/-! ### The effect of an instruction of a unit's queue -/

theorem opOf_opWord (op : Nat) (body : BitVec 56) (h : op < 256) : (opWord op body).toNat / 2 ^ 56 = op := by
  have hb := body.isLt
  simp only [opWord, BitVec.toNat_ofNat]
  rw [Nat.mod_eq_of_lt (by omega)]
  omega

theorem opWord_toNat (op : Nat) (body : BitVec 56) (h : op < 256) : (opWord op body).toNat = op * 2 ^ 56 + body.toNat := by
  have hb := body.isLt
  simp only [opWord, BitVec.toNat_ofNat]
  rw [Nat.mod_eq_of_lt (by omega)]
theorem opOf_fnWord48 (op count fn : Nat) (body : BitVec 56) (h : op < 256) : (fnWord op 48 4 count fn body).toNat / 2 ^ 56 = op := by
  have hb := body.isLt
  have hw := opWord_toNat op body h
  unfold fnWord
  simp only
  split
  · simp only [withBits, hw, bits, BitVec.toNat_ofNat]
    rw [Nat.mod_eq_of_lt (by omega)]
    omega
  · exact opOf_opWord op body h
theorem opOf_fnWord27 (op count fn : Nat) (body : BitVec 56) (h : op < 256) : (fnWord op 27 4 count fn body).toNat / 2 ^ 56 = op := by
  have hb := body.isLt
  have hw := opWord_toNat op body h
  unfold fnWord
  simp only
  split
  · simp only [withBits, hw, bits, BitVec.toNat_ofNat]
    rw [Nat.mod_eq_of_lt (by omega)]
    omega
  · exact opOf_opWord op body h

/-- The item that is captured when an instruction of the tile issues. -/
def issued (i : Nat) (s : State) (w : BitVec 64) (sa sb sc da db : Nat) : QItem := captured (tileAt (stepped i s).c i) w sa sb sc da db

/-- The state in which a queued instruction takes its effect: it is issued, queued, and taken from the queue again. -/
def atHead (i u : Nat) (q : QItem) (s : State) : State := popQueue i u (queuedOne i u q (stepped i s))

/-- A state that has come to that point: the program counter has moved on, and the tile's queues are empty. -/
def RanTo (i : Nat) (s x : State) : Prop :=
  tileAt x.c i = retired (tileAt s.c i) (tileAt x.c i) ∧
  tileFrame i s x ∧ x.c.quiet = true ∧ x.c.share = s.c.share ∧ x.c.memory = s.c.memory

/-- A tile whose one queued instruction is taken again is quiet. -/
theorem quiet_popped (u : Nat) (q : QItem) (t : Tile) (h : t.quiet = true) : (setQueue u [] (setQueue u [q] t)).quiet = true := by
  simp only [Tile.quiet, Bool.and_eq_true, List.all_eq_true, List.isEmpty_iff] at h ⊢
  refine ⟨fun e he => ?_, h.2⟩
  have he : e ∈ Map.setD [] (Map.setD [] t.queues u [q]) u [] := he
  rw [Map.setD, if_pos rfl] at he
  have h1 := List.mem_filter.mp he
  rcases Map.mem_setD _ _ _ _ e h1.1 with rfl | hm
  · simp at h1
  · exact h.1 e hm

theorem setQueue_ne_idle (u : Nat) (q : QItem) (t : Tile) : setQueue u [q] t ≠ Tile.idle := by
  intro he
  have hq : (u, [q]) ∈ (setQueue u [q] t).queues := Map.setD_mem [] t.queues u [q] (by simp)
  rw [he] at hq
  simp [Tile.idle] at hq

/-- Queueing an instruction and taking it again is one change of the tile. -/
theorem popQueue_queuedOne (i u : Nat) (q : QItem) (s : State) :
    popQueue i u (queuedOne i u q s) = onTile i (fun t => setQueue u [] (setQueue u [q] t)) s := by
  have hs : ∀ v : Tile, setTile i v (setTile i (setQueue u [q] (tileAt s.c i)) s.c) = setTile i v s.c := by
    intro v
    have hp : Map.setD Tile.idle s.c.tiles i (setQueue u [q] (tileAt s.c i)) = Map.put s.c.tiles i (setQueue u [q] (tileAt s.c i)) :=
      if_neg (setQueue_ne_idle u q _)
    simp only [setTile, hp, Map.setD_put]
  unfold popQueue onTile onCtl
  simp only [queuedOne, onTile, onCtl, tileAt_setTile, if_true, queueOf_setQueue, List.tail_cons, hs]

theorem ranTo_atHead (i u : Nat) (q : QItem) (s : State) (h : s.c.quiet = true) : RanTo i s (atHead i u q s) := by
  have hst := steppedTo_stepped i s h
  have hf := onTile_frame i (fun t => setQueue u [] (setQueue u [q] t)) s _ hst.2.1 hst.2.2.1 (fun t ht => quiet_popped u q t ht)
  unfold atHead
  rw [popQueue_queuedOne]
  refine ⟨?_, hf.1, hf.2.1, hst.2.2.2.1, hst.2.2.2.2⟩
  rw [hf.2.2, hst.1]
  rfl

/-- An instruction of a unit's queue, on a tile that runs alone in a quiet state: it takes its effect at once. -/
theorem queueStep_next (i u : Nat) (w : BitVec 64) (f : OpForm) (sa sb sc da db : Nat) (s s2 : State) (hq : s.c.quiet = true)
    (hs : soloTile s.c i = true) (hi : canIssue s.c i w = true) (hr : f.rsvOk = true)
    (hc : f.crewOnly = false ∨ (tileAt s.c i).take = none) (hv : f.valid = true) (hh : f.hold = false)
    (hrun : runHead i u (issued i s w sa sb sc da db) (queuedOne i u (issued i s w sa sb sc da db) (stepped i s)) = some s2)
    (h2 : s2.c.quiet = true) : queueStep i w u f sa sb sc da db s = .next s2 := by
  have hst := steppedTo_stepped i s hq
  have hs' : soloTile (stepped i s).c i = true := by simp only [soloTile, hst.1]; exact hs
  rw [queueStep, tileStep, issue_runs i w u { f with srcs := [sa, sb, sc] } _ s hq hi hr hc hv hh, enqueue_solo i u w sa sb sc da db _ hst.2.2.1 hs']
  have := drain_queuedOne i u (issued i s w sa sb sc da db) (stepped i s) s2 hst.2.2.1 hrun h2
  unfold issued at this
  rw [this, settleAll_quiet s2 h2]

end Sys2Proof.Machine
end

