-- ==== Sys2Proof/Laws/Vector.lean ====
section
/-! SUPPORT. Instructions of a unit's queue on a tile that runs alone: what they see of the tile, and the write of a vector register. -/

namespace Sys2Proof.Machine

theorem opOf_issued (op i : Nat) (body : BitVec 56) (s : State) (a b c d e : Nat) (h : op < 256) : opOf (issued i s (opWord op body) a b c d e) = op :=
  opOf_opWord op body h

/-- An instruction of a queue whose effect is one function of the item and the state. -/
theorem queueRun (i u : Nat) (w : BitVec 64) (f : OpForm) (sa sb sc da db : Nat) (s : State) (run : Nat → QItem → State → State) (hq : s.c.quiet = true)
    (hs : soloTile s.c i = true) (hi : canIssue s.c i w = true) (hr : f.rsvOk = true)
    (hc : f.crewOnly = false ∨ (tileAt s.c i).take = none) (hv : f.valid = true) (hh : f.hold = false)
    (hgo : runHead i u (issued i s w sa sb sc da db) (queuedOne i u (issued i s w sa sb sc da db) (stepped i s)) = some (run i (issued i s w sa sb sc da db) (atHead i u (issued i s w sa sb sc da db) s)))
    (h2 : (run i (issued i s w sa sb sc da db) (atHead i u (issued i s w sa sb sc da db) s)).c.quiet = true) :
    queueStep i w u f sa sb sc da db s = .next (run i (issued i s w sa sb sc da db) (atHead i u (issued i s w sa sb sc da db) s)) :=
  queueStep_next i u w f sa sb sc da db s _ hq hs hi hr hc hv hh hgo h2

theorem vReg_setV (t : Tile) (n m : Nat) (l : List Word) : vReg (setV n l t) m = if m = n then l else vReg t m := by
  unfold vReg setV; rw [Map.getD_setD]

theorem setV_ran (i n : Nat) (l : List Word) (s x : State) (h : RanTo i s x) :
    vectorWritten i n l s (onTile i (setV n l) x) ∧ (onTile i (setV n l) x).c.quiet = true := by
  obtain ⟨h1, h2, h3, _⟩ := h
  have hf := onTile_frame i (setV n l) s x h2 h3 (fun t ht => ht)
  refine ⟨⟨fun m => ?_, ?_, hf.1⟩, hf.2.1⟩
  · rw [hf.2.2, vReg_setV, h1]; rfl
  · rw [hf.2.2, h1]; rfl

theorem ranTo_count (i n k : Nat) (s x : State) (h : RanTo i s x) : RanTo i s (onCtl (tileCount i n k) x) := by
  obtain ⟨h1, h2, h3, h4, h5⟩ := h
  refine ⟨?_, tileCount_frame i n k s x h2, ?_, ?_, ?_⟩
  · rw [tileCount_tileAt]; exact h1
  · rw [tileCount_quiet]; exact h3
  · rw [← h4]; exact tileCount_share i n k x.c
  · rw [← h5]; exact (regsOnly_tileCount i n k x.c).memory

theorem vReg_ran {i : Nat} {s x : State} (h : RanTo i s x) (n : Nat) : vReg (tileAt x.c i) n = vReg (tileAt s.c i) n := by rw [h.1]; rfl
theorem pReg_ran {i : Nat} {s x : State} (h : RanTo i s x) (n : Nat) : pReg (tileAt x.c i) n = pReg (tileAt s.c i) n := by rw [h.1]; rfl
theorem gen_ran {i : Nat} {s x : State} (h : RanTo i s x) (n : Nat) : genOf (tileAt x.c i) n = genOf (tileAt s.c i) n := by rw [h.1]; rfl

theorem writeMasked_ran (i vd pm : Nat) (f : Nat → Word) (s x : State) (h : RanTo i s x) :
    vectorWritten i vd (masked (tileAt s.c i) vd pm f) s (writeMasked i vd pm f x) ∧ (writeMasked i vd pm f x).c.quiet = true := by
  have : writeMasked i vd pm f x = onTile i (setV vd (masked (tileAt s.c i) vd pm f)) x := by
    unfold writeMasked onTile onCtl masked
    simp only [vReg_ran h, pReg_ran h]
  rw [this]; exact setV_ran i vd _ s x h

theorem issued_word (i : Nat) (s : State) (w : BitVec 64) (a b c d e : Nat) : (issued i s w a b c d e).word = w := rfl
theorem issued_sa (i : Nat) (s : State) (w : BitVec 64) (a b c d e : Nat) (hq : s.c.quiet = true) : (issued i s w a b c d e).sa = sReg (tileAt s.c i) a := by
  show sReg (tileAt (stepped i s).c i) a = _
  rw [(steppedTo_stepped i s hq).1]; rfl
theorem issued_sb (i : Nat) (s : State) (w : BitVec 64) (a b c d e : Nat) (hq : s.c.quiet = true) : (issued i s w a b c d e).sb = sReg (tileAt s.c i) b := by
  show sReg (tileAt (stepped i s).c i) b = _
  rw [(steppedTo_stepped i s hq).1]; rfl

end Sys2Proof.Machine
end

