-- ==== Sys2Proof/Tests/Slice0.lean ====
section
/-! SUPPORT. Tests: witnesses that the hypotheses of every statement can be met, one ill-formed command for each check of
WellFormed, and small checks of single steps against the spec. -/

open Sys2Proof Sys2Proof.Machine

namespace Sys2Proof.Tests

set_option Elab.async false

/-- A command answers a next state. -/
def Runs (i : Instr) (s : State) : Prop := ∃ t, exec i s = .next t

theorem runs_of {i : Instr} {s : State} {P : State → Prop} (h : Completes i s P) : Runs i s := h.imp fun _ x => x.1

/-- The state after reset with its control part changed. -/
def from0 (f : Ctl → Ctl) : State := onCtl f State.reset

/-- Tile 0 with some of its fields set. -/
def tile0 (f : Tile → Tile) : State := from0 (fun c => setTile 0 (f Tile.idle) c)

/-- The bits of an instruction below its opcode: values at places. -/
def body (l : List (Nat × Nat)) : BitVec 56 := BitVec.ofNat 56 (sumNat (l.map (fun e => e.2 * 2 ^ e.1)))

/-- A descriptor of rank 2, without a split plane. -/
def desc (base fmt n0 n1 stride : Nat) : Desc :=
  ⟨BitVec.ofNat 512 (base + 2 ^ 64 * fmt + 2 ^ 80 * 2 + 2 ^ 128 * n0 + 2 ^ 160 * n1 + 2 ^ 192 + 2 ^ 224 + 2 ^ 256 + 2 ^ 144 * 2 ^ 144 * stride)⟩

/-- A take of tile 0 in step group 3 that has started, in slot 5. -/
def aTake : Take := { slateTake [] with st := .started, stepGroup := some 3 }

/-- Tile 0 runs that take; its image is loaded, slice 1 assigned. -/
def running (f : Ctl → Ctl) : State :=
  from0 (fun c =>
    let c := onAd (fun a => { a with takes := [(5, aTake)] }) (wr Reg.FAB_SLICE_SLICE 1 c)
    let c := { c with share := { c.share with images := [(0, ⟨0, true, 1, lpddrBase + 128, 4096, 0⟩)] } }
    f (setTile 0 { Tile.idle with take := some 5 } c))

/-! ### Tile instructions: a statement's hypotheses hold together for the state and the operands given here -/

theorem witness_scalar (h : Obligations.ScalarArithmeticWritesDestination) :
    Runs (.sAlu false 0 (body [(31, 15)])) State.reset ∧ Runs (.sAlu true 191 0) State.reset ∧ Runs (.sLih 0 (body [(47, 31)])) State.reset ∧
    Runs (.sAlu false 0 (body [(31, 16)])) (running id) ∧ Runs (.sAlu true 0 (body [(37, 1)])) (running id) ∧ Runs (.sLih 0 (body [(46, 1)])) (running id) :=
  ⟨(by refine runs_of ((h State.reset 0 _ ?_).1 ?_ ?_ ?_) <;> decide),
   (by refine runs_of ((h State.reset 191 0 ?_).2.1 ?_ ?_) <;> decide),
   (by refine runs_of ((h State.reset 0 _ ?_).2.2.1 ?_ ?_) <;> decide),
   (by refine runs_of (((h (running id) 0 _ ?_).2.2.2 5 aTake ?_ rfl rfl).1 (.inr ?_) ?_) <;> decide),
   (by refine runs_of (((h (running id) 0 _ ?_).2.2.2 5 aTake ?_ rfl rfl).2.1 ?_ ?_) <;> decide),
   (by refine runs_of (((h (running id) 0 _ ?_).2.2.2 5 aTake ?_ rfl rfl).2.2 ?_ ?_) <;> decide)⟩

theorem witness_scalar_memory (h : Obligations.ScalarMemoryAccessesScratchpad) :
    Runs (.sLd 0 (body [(40, 3), (0, 0x1FFFF8)])) State.reset ∧ Runs (.sSt 1 (body [(0, 0x17FFFFFF)])) State.reset ∧
    Runs (.sAmo 0 (body [(40, 3), (35, 5)])) State.reset :=
  ⟨(by refine runs_of ((h State.reset 0 _ ?_).1 ?_ ?_ ?_ ?_ ?_) <;> decide),
   (by refine runs_of ((h State.reset 1 _ ?_).2.1 ?_ ?_ ?_ ?_) <;> decide),
   (by refine runs_of ((h State.reset 0 _ ?_).2.2 ?_ ?_ ?_ ?_ ?_ ?_ ?_ (by decide)) <;> decide)⟩

theorem witness_branches (h : Obligations.BranchesAndPredicatesAct) :
    Runs (.bCond 0 (body [(38, 6)])) State.reset ∧ Runs (.bLink 0 (body [(33, 31)])) State.reset ∧ Runs (.bReg 0 0) State.reset ∧
    Runs (.endTile 0 0) (running id) ∧ Runs (.pCmp 0 (body [(31, 6)])) State.reset ∧ Runs (.pCmpi 0 (body [(38, 6)])) State.reset ∧
    Runs (.pLog 0 (body [(31, 4)])) State.reset :=
  ⟨(by refine runs_of ((h.1 State.reset 0 _ ?_).1 ?_ ?_ ?_) <;> decide),
   (by refine runs_of ((h.1 State.reset 0 _ ?_).2.1 ?_ ?_ ?_) <;> decide),
   (by refine runs_of ((h.1 State.reset 0 _ ?_).2.2.1 ?_ ?_ ?_) <;> decide),
   (by refine runs_of ((h.1 (running id) 0 _ ?_).2.2.2 ?_ ?_ ?_ (fun _ _ => rfl)) <;> decide),
   (by refine runs_of ((h.2.1 State.reset 0 _ ?_ ?_).1 ?_ ?_ ?_ ?_) <;> decide),
   (by refine runs_of ((h.2.1 State.reset 0 _ ?_ ?_).2.1 ?_ ?_ ?_ ?_) <;> decide),
   (by refine runs_of ((h.2.1 State.reset 0 _ ?_ ?_).2.2 ?_ ?_ ?_ ?_ ?_ ?_) <;> decide)⟩

theorem witness_reserved (h : Obligations.BranchesAndPredicatesAct) :
    let s := onTile 0 (fun x => { x with s := [(1, 4)] }) (running id)
    Runs (.bCond 0 (body [(38, 7)])) s ∧ Runs (.bLink 0 (body [(51, 1)])) s ∧ Runs (.bReg 0 (body [(41, 1)])) s ∧ Runs (.endTile 0 1) s ∧
    Runs (.pCmp 0 (body [(31, 7)])) s ∧ Runs (.pCmpi 0 (body [(37, 1)])) s ∧ Runs (.pLog 0 (body [(31, 5)])) s ∧ Runs (.bReg 0 (body [(42, 1)])) s :=
  have g := fun b => h.2.2 (onTile 0 (fun x => { x with s := [(1, 4)] }) (running id)) 0 b 5 aTake (by decide) (by decide) rfl rfl
  ⟨runs_of ((g _).1 (.inr (by decide)) (by decide)), runs_of ((g _).2.1 (.inr (by decide)) (by decide)), runs_of ((g _).2.2.1 (by decide) (by decide)),
   runs_of ((g _).2.2.2.1 (by decide) (by decide)), runs_of ((g _).2.2.2.2.1 (.inr (.inr (by decide))) (by decide)),
   runs_of ((g _).2.2.2.2.2.1 (.inr (.inl (by decide))) (by decide)),
   runs_of ((g _).2.2.2.2.2.2.1 (.inr (.inr (.inr (.inr (by decide))))) (by decide)),
   (by refine runs_of ((g _).2.2.2.2.2.2.2 ?_ ?_ ?_) <;> decide)⟩

theorem witness_semaphores (h : Obligations.SemaphoresWaitsAndFencesAct) :
    Runs (.semPost 0 (body [(0, 65535)])) State.reset ∧ Runs (.semWait 0 (body [(0, 7)])) (tile0 (setQ 0 7)) ∧
    Runs (.semWait 0 (body [(0, 1)])) State.reset ∧ Runs (.semRd 0 (body [(43, 23)])) State.reset ∧
    Runs (.clap 0 (body [(0, 9)])) (running id) ∧ Runs (.cueWait 0 (body [(40, 5), (0, 1)])) State.reset ∧ Runs (.memFence 0 0) State.reset ∧
    Runs (.memFenceFlush 0 (body [(0, 1)])) State.reset :=
  ⟨(by refine runs_of ((h.1 State.reset 0 _ ?_ ?_).1 ?_ ?_ ?_) <;> decide),
   (by refine runs_of ((h.1 (tile0 (setQ 0 7)) 0 _ ?_ ?_).2.1 ?_ ?_ ?_) <;> decide),
   (by refine runs_of ((h.1 State.reset 0 _ ?_ ?_).2.2.1 ?_ ?_ ?_) <;> decide),
   (by refine runs_of ((h.1 State.reset 0 _ ?_ ?_).2.2.2 ?_) <;> decide),
   (by refine runs_of ((h.2 (running id) 0 _ ?_ ?_).1 5 rfl ?_ ?_ ?_ ?_ ?_) <;> decide),
   (by refine runs_of ((h.2 State.reset 0 _ ?_ ?_).2.1 ?_ ?_ ?_ ?_ ?_ ?_ (by decide)) <;> decide),
   (by refine runs_of ((h.2 State.reset 0 _ ?_ ?_).2.2.1 ?_ ?_ ?_ ?_) <;> decide),
   (by refine runs_of ((h.2 State.reset 0 _ ?_ ?_).2.2.2 ?_ ?_ ?_ ?_ ?_ ?_ (by decide)) <;> decide)⟩

theorem witness_vectors (h : Obligations.VectorArithmeticWritesLanes) :
    Runs (.vFp 0 (body [(19, 9)])) State.reset ∧ Runs (.vInt 0 (body [(19, 12)])) State.reset ∧ Runs (.vSfu 0 (body [(19, 11)])) State.reset ∧
    Runs (.vSel 0 0) State.reset ∧ Runs (.vRed 0 (body [(19, 2)])) State.reset ∧ Runs (.vPerm 0 0) State.reset ∧
    Runs (.vBcast 0 (body [(31, 1)])) State.reset :=
  let H := fun b => h State.reset 0 b (by decide) (by decide)
  ⟨runs_of ((H _).1 (by decide)), runs_of ((H _).2.1 (by decide)), runs_of ((H _).2.2.1 (by decide)), runs_of ((H _).2.2.2.1 (by decide)),
   runs_of ((H _).2.2.2.2.1 (by decide)), runs_of ((H _).2.2.2.2.2.1 (by decide)),
   (by refine runs_of ((H _).2.2.2.2.2.2 ?_ ?_ ?_ ?_ ?_ ?_) <;> decide)⟩

theorem witness_vector_selection (h : Obligations.VectorSelectionAndConversion) :
    Runs (.vCmp 0 (body [(46, 7), (19, 2), (0, 5)])) State.reset ∧ Runs (.vTopk 0 (body [(46, 62), (0, 64)])) State.reset ∧
    Runs (.vCvt 0 (body [(19, 6)])) State.reset :=
  let H := fun b => h State.reset 0 b (by decide) (by decide)
  ⟨(by refine runs_of ((H _).1 ?_ ?_ ?_ ?_ ?_ ?_) <;> decide),
   (by refine runs_of ((H _).2.1 ?_ ?_ ?_ ?_ ?_ ?_ ?_) <;> decide),
   (by refine runs_of ((H _).2.2 ?_ ?_ ?_ ?_) <;> decide)⟩

theorem below {n : Nat} {p q : Nat → Prop} (h : ∀ k, k < n → p k) (k : Nat) (hk : k < n ∧ q k) : p k := h k hk.1

theorem inside {n : Nat} {p : Nat → Prop} (h : ∀ k, k < n → 0 < k → p k) (k : Nat) (h0 : 0 < k) (hk : k < n) : p k := h k hk h0

theorem witness_vector_memory (h : Obligations.VectorMemoryMovesLanes) :
    Runs (.vLd 0 0) State.reset ∧ Runs (.vSt 0 (body [(31, 2), (0, 2)])) State.reset :=
  let H := fun b => h State.reset 0 b (by decide) (by decide)
  ⟨runs_of ((H 0).1 ⟨by decide, by decide, by decide, below (by decide +kernel)⟩ (fun _ _ _ _ => ⟨rfl, rfl⟩)),
   runs_of ((H _).2 ⟨by decide, by decide, by decide, below (by decide +kernel)⟩)⟩

/-- 128 × 2 elements of a format at the base of tile 0. -/
def plane (fmt : Nat) : Desc := desc 0 fmt 128 2 512

theorem witness_quantize (h : Obligations.QuantizeInstructionsConvert) :
    Runs (.vqQuant 0 (body [(46, 63)])) (tile0 (fun t => { t with d := [(0, plane 5)] })) ∧
    Runs (.vqDequant 0 0) (tile0 (fun t => { t with d := [(0, plane 0)] })) :=
  ⟨(by refine runs_of ((h (tile0 (fun t => { t with d := [(0, plane 5)] })) 0 _ ?_ ?_).1 ?_ ?_ ?_ ?_) <;> decide +kernel),
   (by refine runs_of ((h (tile0 (fun t => { t with d := [(0, plane 0)] })) 0 _ ?_ ?_).2 ?_ ?_ ?_ ?_) <;> decide +kernel)⟩

theorem witness_weights (h : Obligations.WeightAndAccumulatorInstructions) :
    Runs (.mxWload 0 0) (tile0 (fun t => { t with d := [(0, plane 1)] })) ∧ Runs (.mxSwap 0 0) State.reset ∧
    Runs (.mxZero 0 (body [(0, 128)])) State.reset :=
  ⟨(by refine runs_of ((h (tile0 (fun t => { t with d := [(0, plane 1)] })) 0 0 ?_ ?_).1 128 ?_ ?_ ?_ ?_
     ?_ ?_ (by decide +kernel) ?_ ?_ ?_ ?_) <;> decide +kernel),
   (by refine runs_of ((h State.reset 0 _ ?_ ?_).2.1 ?_ ?_) <;> decide +kernel),
   (by refine runs_of ((h State.reset 0 _ ?_ ?_).2.2 ?_ ?_ ?_ ?_ ?_) <;> decide +kernel)⟩

/-- A tile with weights to multiply by. -/
def weighted : State :=
  tile0 (fun t => { t with d := [(0, plane 1)], active := { Weights.empty with valid := true, fmt := 1, depth := 128 } })

theorem witness_stream (h : Obligations.MatrixStreamAccumulates) : Runs (.mxStream 0 (body [(41, 6), (9, 1), (0, 127)])) weighted :=
  (by refine runs_of (h weighted 0 (body [(41, 6), (9, 1), (0, 127)]) ?_ ?_ 128 ?_ ?_ ?_ ?_ ?_ ?_ (by decide +kernel)
    ?_ ?_ ?_ ?_ ?_ ?_ (fun _ _ e => nomatch e) ?_ ?_ (by decide +kernel)) <;> decide +kernel)

theorem witness_drain (h : Obligations.MatrixDrainWritesRows) :
    Runs (.mxDrain 0 (body [(41, 7), (11, 1), (0, 1)])) (tile0 (fun t => { t with d := [(0, plane 0)] })) :=
  (by refine runs_of (h (tile0 (fun t => { t with d := [(0, plane 0)] })) 0 (body [(41, 7), (11, 1), (0, 1)]) ?_ ?_ ?_ ?_ ?_ ?_
    ?_ ?_ (by decide +kernel) ?_ ?_ ?_ ?_ ?_ ?_ ?_ ?_ (by decide +kernel)) <;> decide +kernel)

/-- Descriptor 1 reads one row of 64 bytes at 0, descriptor 2 takes it at 64; the same for a gather of one row. -/
def moved : State :=
  setMem (putBytes 0 (leBytes 64 (2 ^ 80 + 2 ^ 128 + 2 ^ 160 + 2 ^ 192 + 2 ^ 224 + 2 ^ 256)))
    (tile0 (fun t => { t with d := [(1, desc 0 1 32 1 0), (2, desc 64 1 32 1 0)], s := [(1, 1), (2, 512)] }))

theorem witness_dolly (h : Obligations.DollyInstructionsMove) :
    Runs (.dlyDsc 0 (body [(48, 15)])) moved ∧ Runs (.dlyMove 0 (body [(48, 1), (44, 2)])) moved ∧
    Runs (.dlyGather 0 (body [(48, 1), (44, 2), (39, 2), (34, 1)])) moved :=
  let H := fun b => h moved 0 b (by decide +kernel) (by decide +kernel)
  ⟨(by refine runs_of ((H _).1 ?_ ?_ ?_ ?_) <;> decide +kernel),
   (by refine runs_of ((H _).2.1 ?_ ?_ ?_ ?_ ?_ ?_ (inside ?_) ?_ (by decide +kernel) ?_) <;> decide +kernel),
   (by refine runs_of ((H _).2.2 ?_ ?_ ?_ ?_ ?_ ?_ ?_ ?_ (by decide +kernel) ?_ ?_
     ?_ ?_) <;> decide +kernel)⟩

/-- Scalar registers for a message of 64 bytes from 0 to an address of module `m`, with a notification for tile 1. -/
def letter (m send : Nat) (t : Tile) : Tile := { t with s := [(2, BitVec.ofNat 64 (m * 2 ^ 48 + 64)), (3, BitVec.ofNat 64 (64 + send * 2 ^ 32))] }

def mail (m send : Nat) (f : Ctl → Ctl) : State := running (fun c => f (setTile 0 (letter m send (tileAt c 0)) c))

def mailBody : BitVec 56 := body [(42, 2), (37, 3), (32, 23)]

theorem witness_messages (h : Obligations.MessagesLeaveTheTile) :
    Runs (.msgPost 0 mailBody) (mail 0xFFFF 0 id) ∧ Runs (.msgSend 0 mailBody) (mail 0xFFFF 1 id) ∧
    Runs (.msgPost 0 mailBody) (mail 4095 0 (wr (Reg.FAB_RT_ENTRY_VALID 4095) 1)) :=
  ⟨(by refine runs_of ((h (mail 0xFFFF 0 id) 0 mailBody ?_ ?_).1 ?_) <;> decide +kernel),
   (by refine runs_of ((h (mail 0xFFFF 1 id) 0 mailBody ?_ ?_).2.1 3 (1, 0) ?_ ?_ ?_ ?_
     ?_) <;> decide +kernel),
   (by refine runs_of ((h (mail 4095 0 (wr (Reg.FAB_RT_ENTRY_VALID 4095) 1)) 0 mailBody ?_ ?_).2.2 false ?_ ?_
     ?_ ?_ ?_) <;> decide +kernel)⟩

/-- A crew tile whose s1 names TL_SEM_SEL of tile 23, of the same die. -/
def crew (off : Nat) : State := tile0 (fun t => { t with s := [(1, BitVec.ofNat 64 off)] })

theorem witness_counters (h : Obligations.CounterAndCrewAccesses) :
    Runs (.cntRd 0 (body [(38, 1), (0, 94)])) State.reset ∧ Runs (.csRd 0 (body [(42, 1)])) (crew 0x11700034) ∧
    Runs (.csRd 0 (body [(42, 1)])) (crew 0x11800034) ∧ Runs (.csWr 0 (body [(42, 1)])) (crew 0x11700034) ∧ Runs (.csWr 0 0) State.reset :=
  ⟨(by refine runs_of ((h State.reset 0 _ ?_).1 ?_ ?_ ?_ ?_ ?_ ?_ ?_ (by decide)) <;> decide),
   (by refine runs_of (((h (crew 0x11700034) 0 _ ?_).2.1 rfl ?_ ?_).1 23 ?_ ?_ ?_) <;> decide),
   (by refine runs_of (((h (crew 0x11800034) 0 _ ?_).2.1 rfl ?_ ?_).2 ?_) <;> decide),
   (by refine runs_of (((h (crew 0x11700034) 0 _ ?_).2.2 rfl ?_ ?_).1 23 ?_ ?_) <;> decide),
   (by refine runs_of (((h State.reset 0 0 ?_).2.2 rfl ?_ ?_).2 ?_) <;> decide)⟩

/-- Group 0 of the take's slice and step group, of two members, with operations in progress. -/
def chorus (ops : List CollOp) : State :=
  setMem (putByte 0 1) (running (fun c => wr (Reg.FAB_RT_ENTRY_VALID 1) 1 <| (wr (Reg.FAB_RT_ENTRY_VALID 0) 1) <| c |> setGroup 0 { Group.free with state := 2, members := [0, 1], step := 3, slice := 1, bufKib := 64, ops := ops }))

/-- An operation in progress that has begun. -/
def anOp : CollOp :=
  { startOp State.reset.c 0 5 { word := 0, pc := 0, sa := 0, sb := 0, sc := 0, da := Desc.none, db := Desc.none } Group.free Desc.none Desc.none [] with begun := true }

theorem busy_of {g : Group} {o : CollOp} {l : List CollOp} (h : g.ops = o :: l) (b : o.begun = true) (f : o.fn ≠ 8) (n : l.length < 7) :
    ∃ h l, g.ops = h :: l ∧ h.begun = true ∧ h.fn ≠ 8 ∧ l.length < 7 := ⟨o, l, h, b, f, n⟩

theorem witness_collectives (h : Obligations.CollectivesStartInOrder) :
    let s := chorus [anOp]
    Runs (.allReduce 0 0) s ∧ Runs (.reduceScatter 0 0) s ∧ Runs (.allGather 0 0) s ∧ Runs (.broadcast 0 0) s ∧ Runs (.reduce 0 0) s ∧
    Runs (.allToAll 0 0) s ∧ Runs (.clapper 0 0) s ∧ Runs (.send 0 0) s ∧ Runs (.receive 0 0) s ∧ Runs (.receive 0 0) (chorus []) ∧ Runs (.fused 0 0) s :=
  have B := busy_of (g := groupAt (chorus [anOp]).c 0) (o := anOp) (l := []) rfl rfl (by decide) (by decide)
  have H := h (chorus [anOp]) 0 0 5 3 aTake (by decide) (by decide) (by decide) rfl
  ⟨runs_of (H.1 (by decide +kernel) B), runs_of (H.2.1 (by decide +kernel) B), runs_of (H.2.2.1 (by decide +kernel) B),
   runs_of (H.2.2.2.1 (by decide +kernel) B), runs_of (H.2.2.2.2.1 (by decide +kernel) B), runs_of (H.2.2.2.2.2.1 (by decide +kernel) B),
   runs_of (H.2.2.2.2.2.2.1 (by decide +kernel) B), runs_of (H.2.2.2.2.2.2.2.1 (by decide +kernel) B), runs_of (H.2.2.2.2.2.2.2.2.1 (by decide +kernel) B),
   (by refine runs_of ((h (chorus []) 0 0 5 3 aTake ?_ ?_ ?_ rfl).2.2.2.2.2.2.2.2.2.1 ?_ rfl ?_) <;> decide +kernel),
   (by refine runs_of (H.2.2.2.2.2.2.2.2.2.2 [(0, 0, 0, 0)] ?_ ?_ ?_ ?_ ?_ B) <;> decide +kernel)⟩

/-- A group record of two members, and a module that can create the group: its pool, its own route entry and that of the other. -/
def record : List Byte := leBytes 4 7 ++ leBytes 2 2 ++ [1, 0] ++ leBytes 4 64 ++ leBytes 4 3 ++ leBytes 48 0 ++ leBytes 2 0 ++ leBytes 2 1

def founder : State :=
  setMem (putBytes 0 record) (running (fun c =>
    let c := { c with memory := { c.memory with cfg := { c.memory.cfg with limit := 1, base := 0, cacheBase := 0, cacheLimit := 0 } } }
    let c := wr Reg.COL_POOL_SIZE_MIB 1 (wr (Reg.FAB_RT_ENTRY_VALID 0) 1 (wr (Reg.FAB_RT_ENTRY_VALID 1) 1 (wr (Reg.FAB_RT_ENTRY_PHYS 1) 1 c)))
    setGroup 9 { Group.free with state := 2, step := 3, slice := 1 } c))

theorem witness_groups (h : Obligations.CollectiveGroupsAndWaits) :
    Runs (.create 0 0) founder ∧ Runs (.destroy false 0 0 (body [(44, 9)])) founder ∧ Runs (.destroy true 9 0 0) founder ∧
    Runs (.collWait 0 (body [(44, 9), (39, 31)])) founder :=
  ⟨(by refine runs_of ((h founder 0 0 ?_ ?_).1 5 3 aTake ?_ ?_ ?_ ?_ ?_ ?_
     (by decide) ?_ ?_ ?_ ?_ ?_ ?_ ?_ ?_) <;> decide +kernel),
   (by refine runs_of ((h founder 0 (body [(44, 9)]) ?_ ?_).2.1 5 aTake 0 ?_ ?_ ?_ ?_ ?_ ?_
     (by decide +kernel) ?_ ?_) <;> decide +kernel),
   (by refine runs_of ((h founder 0 0 ?_ ?_).2.2.1 9 ?_ ?_) <;> decide),
   (by refine runs_of ((h founder 0 _ ?_ ?_).2.2.2 ?_ ?_ ?_ ?_) <;> decide +kernel)⟩

/-- Unit 5 of tile 0 waits for a time. -/
def waiter : QItem := { word := opWord 0x2A 0, pc := 0, sa := 9, sb := 0, sc := 0, da := Desc.none, db := Desc.none }

/-- A stream of the running take is in check service at checker 192. -/
def checked (ng : Nat) : State :=
  running (fun c =>
    let x : Check := ⟨1, 5, 0, 8, 192, 0, 1, 0, false, false, 0, 1, [], [], [], [], [], []⟩
    wr (Reg.AD_REEL_CFG_CHECK_NG 0) ng { c with share := { c.share with checks := [x] } })

theorem witness_tiles (h : Obligations.TileClearsAndHangsClearOnlyTheirTile) (g : Obligations.CueWaitsAndChecksSettle) :
    Runs (.tileHang 0 0x100000) (running id) ∧
    Runs (.cueWaitRelease 0 5) (tile0 (fun t => { t with queues := [(5, [waiter])], cueHeld := [5] })) ∧
    Runs (.checkService 1 false 0) (checked 0) ∧ Runs (.checkService 1 true 0) (checked 0) ∧ Runs (.checkService 1 true 1) (checked 0) ∧
    Runs (.checkService 1 true 1) (checked 1) ∧ (∃ t, step (running id) = .next t) ∧ (∃ t, step (onTile 0 (fun x => { x with pc := 4096 }) (running id)) = .next t) :=
  ⟨(by refine runs_of (h.2.1 (running id) 0 0x100000 5 aTake ?_ ?_ ?_ ?_ rfl ?_) <;> decide),
   (by refine runs_of (g.1 (tile0 (fun t => { t with queues := [(5, [waiter])], cueHeld := [5] })) 0 5 waiter rfl ?_ ?_ ?_ ?_) <;> decide +kernel),
   runs_of ((g.2 (checked 0) 1 _ aTake (by decide) (by decide) rfl rfl rfl rfl).1 0),
   (by refine runs_of ((g.2 (checked 0) 1 _ aTake ?_ ?_ rfl rfl rfl rfl).2.1 ?_) <;> decide),
   (by refine runs_of ((g.2 (checked 0) 1 _ aTake ?_ ?_ rfl rfl rfl rfl).2.2.1 ?_ ?_) <;> decide),
   (by refine runs_of ((g.2 (checked 1) 1 _ aTake ?_ ?_ rfl rfl rfl rfl).2.2.2 ?_ ?_) <;> decide),
   ((h.2.2 (running id) 0 5 aTake rfl rfl (by decide) (by decide) (by decide) (by decide) rfl rfl rfl (by decide) (by decide +kernel) (by decide +kernel)).2.1
     (by decide +kernel) (.inl (by decide +kernel))).imp fun _ x => x.1,
   ((h.2.2 (onTile 0 (fun x => { x with pc := 4096 }) (running id)) 0 5 aTake rfl rfl (by decide) (by decide) (by decide) (by decide) rfl rfl rfl (by decide)
     (by decide +kernel) (by decide +kernel)).1 (by decide +kernel)).imp fun _ x => x.1⟩

/-! ### Takes, reels, memory, cells, images -/

/-- A reel datagram of a type on reel 0, with its datagram sequence and its items. -/
def reelMsg (typ : Nat) (items : List Byte) : List Byte := leBytes 4 (0x00015A4E + typ * 2 ^ 24) ++ leBytes 4 0x10000 ++ leBytes 8 0 ++ items

/-- A slate for reel 0: take 1 in tile 0, image 0, no deadline, a budget of one frame. -/
def slate (flags : Nat) : List Byte :=
  leBytes 12 (2 ^ 32) ++ leBytes 12 0 ++ leBytes 8 noDeadline ++ leBytes 4 1 ++ leBytes 8 0 ++ leBytes 2 flags ++ leBytes 18 0

/-- A module that admits: stage 10, records accepted, slice 1, image 0, reel 0 open and attached. -/
def admits (f : Ctl → Ctl) : State :=
  from0 (fun c =>
    let c := wr Reg.PWR_STATUS_STAGE 10 (wr Reg.AD_STATUS_REPLAYING 0 (wr Reg.FAB_SLICE_SLICE 1 (wr Reg.SEC_STATUS_CFG_OK 1 (wr Reg.SEC_STATUS_REPAIR_OK 1 c))))
    let c := wr Reg.MEM_STATUS_DEV_IN_SERVICE 4095 { c with share := { c.share with images := [(0, ⟨0, true, 1, lpddrBase + 128, 4096, 0⟩)] } }
    f (wr Reg.ETH_STATUS_LINK 3 <| wr (Reg.AD_REEL_STATE_STATE 0) 1 (wr (Reg.AD_REEL_STATE_ATTACHED 0) 1 (wr (Reg.AD_REEL_CFG_SLICE 0) 1 c))))

def aPeer : Peer := ⟨0, false, 0⟩

theorem witness_submit (h : Obligations.SubmitAcceptsATake) : Runs (.submit aPeer (reelMsg 1 (slate 0))) (admits id) :=
  (by refine runs_of (h (admits id) aPeer (reelMsg 1 (slate 0)) 0 ?_ ?_ ?_ ?_ ?_ ?_ ?_ ?_
    (by decide +kernel) ?_ ?_ ?_ ?_ ?_ ?_ ?_
    ?_ (by decide +kernel) ?_ ?_ ?_ ?_ ?_ ?_ (fun _ he => nomatch he)) <;> decide +kernel)

/-- A take of reel 0 in slot 5, and one before it that has ended. -/
def listed (x : Take) : State := admits (onAd (fun a => { a with takes := [(4, { x with num := 0, st := .ended }), (5, x)] }))

def plainTake : Take := { slateTake [] with num := 1, st := .accepted, deadline := noDeadline }

theorem witness_reels (h : Obligations.ReelDatagramsAct) (g : Obligations.ReelCommandsOpenAndClose) :
    Runs (.attach aPeer (reelMsg 7 [])) (admits id) ∧ Runs (.echo aPeer (reelMsg 6 (leBytes 8 0))) (admits id) ∧
    Runs (.ack aPeer (reelMsg 4 (leBytes 8 1))) (admits (wr (Reg.AD_REEL_NEXT_LO_NEXT 0) 2)) ∧
    Runs .reelForceClose (admits id) ∧ Runs .reelForceClose (listed plainTake) :=
  ⟨(by refine runs_of ((h (admits id) aPeer (reelMsg 7 []) ?_).1 ?_ ?_ ?_) <;> decide +kernel),
   (by refine runs_of ((h (admits id) aPeer (reelMsg 6 (leBytes 8 0)) ?_).2.1 ?_ ?_) <;> decide +kernel),
   (by refine runs_of ((h (admits (wr (Reg.AD_REEL_NEXT_LO_NEXT 0) 2)) aPeer (reelMsg 4 (leBytes 8 1)) ?_).2.2 ?_ ?_
     ?_ ?_ ?_ ?_) <;> decide +kernel),
   (by refine runs_of ((g (admits id) ?_ ?_).2.2.1 ?_ (fun _ he => nomatch he)) <;> decide +kernel),
   (by refine runs_of ((g (listed plainTake) ?_ ?_).2.2.2 ?_ 5 plainTake rfl rfl rfl ?_) <;> decide +kernel)⟩

theorem witness_leases (h : Obligations.LeasesLapseInFrames) :
    Runs (.leaseExpiry (.reel 0)) (admits id) ∧ Runs (.leaseExpiry (.reel 0)) (listed plainTake) ∧
    Runs (.leaseExpiry (.lead 7)) (listed { plainTake with origin := 2, lead := 7 }) :=
  ⟨(by refine runs_of ((h (admits id) 0 0 ?_ ?_).2.2.1 ⟨0, by decide +kernel⟩ ?_ (fun _ he => nomatch he)) <;> decide +kernel),
   (by refine runs_of ((h (listed plainTake) 0 0 ?_ ?_).2.2.2.1 ⟨0, by decide +kernel⟩ ?_ 5 plainTake rfl ?_ rfl ?_ ?_) <;> decide +kernel),
   (by refine runs_of ((h (listed { plainTake with origin := 2, lead := 7 }) 0 7 ?_ ?_).2.2.2.2 ?_ 5 _ rfl ?_ rfl ?_) <;> decide +kernel)⟩

theorem witness_starts (h : Obligations.TakeStartsAtItsCue) : Runs (.startTake 5) (listed { plainTake with planned := some (2 ^ 64 - 1) }) :=
  (by refine runs_of (h (listed { plainTake with planned := some (2 ^ 64 - 1) }) 5 _ (2 ^ 64 - 1) ?_ rfl rfl ?_ rfl rfl ?_ ?_ ?_) <;> decide +kernel)

theorem witness_ends (h : Obligations.TakeEndsInOneOutcome) :
    let done := running (fun c => setTile 0 { tileAt c 0 with ended := true } c)
    Runs (.wrap 5 9) done ∧ Runs (.budgetOverrun 5 1) (running id) ∧ Runs (.deadlineMissed 5) (running id) :=
  ⟨(by refine runs_of ((h (running (fun c => setTile 0 { tileAt c 0 with ended := true } c)) 5 9 aTake ?_ ?_ rfl rfl).1 rfl ?_) <;> decide +kernel),
   (by refine runs_of ((h (running id) 5 1 aTake ?_ ?_ rfl rfl).2.1 rfl ?_) <;> decide),
   (by refine runs_of ((h (running id) 5 0 aTake ?_ ?_ rfl rfl).2.2 ?_ ?_ ?_) <;> decide +kernel)⟩

/-- A take whose only member is on module 7. -/
def shared (st : TakeState) (kind : Nat) : Take := { plainTake with st := st, members := [{ Member.new 7 0 none with kind := kind }] }

/-- Modules 2 and 7 are known and may send. -/
def peered (c : Ctl) : Ctl :=
  wr Reg.FAB_ID_VALID 1 <| wr (Reg.FAB_RT_ENTRY_VALID 2) 1 <| wr (Reg.FAB_RT_ENTRY_PHYS 2) 2 <| wr (Reg.FAB_RT_ENTRY_VALID 7) 1 <|
    wr (Reg.FAB_RT_ENTRY_PHYS 7) 7 { c with fab := { c.fab with allow := [(0, 0xFFFFFFFF)] } }

def prepared (x : Take) : State := admits (fun c => peered (onAd (fun a => { a with takes := [(5, x)] }) c))

def aRef : TakeRef := ⟨0xFFFF, 0, 1, 0, 0⟩
def theirs : TakeRef := ⟨2, 0, 1, 0, 0⟩

/-- The copy of a take of module 2 that module 7 leads. -/
def copy (st : TakeState) : Take := { plainTake with st := st, origin := 2, lead := 7, leadGen := 0xFFFF }

theorem witness_composites (h : Obligations.CompositeTakesAreAgreed) :
    Runs (.prepare ⟨7, 0⟩ 2 (slate 2)) (admits peered) ∧ Runs (.admitAnswer aRef 0 ⟨7, 0⟩ 1) (prepared (shared .prepared 0)) ∧
    Runs (.admissionTimeout aRef 0 7) (prepared (shared .prepared 0)) ∧ Runs (.admitAnswer aRef 0 ⟨7, 0⟩ 0) (prepared (shared .prepared 0)) ∧
    Runs (.commit ⟨7, 0⟩ theirs) (prepared (copy .prepared)) ∧ Runs (.abort ⟨⟨7, 0⟩, theirs⟩) (prepared (copy .prepared)) ∧
    Runs (.preparedCopyDrop theirs) (prepared (copy .prepared)) :=
  have P := h (prepared (shared .prepared 0)) 0 0 7 0 1 [] aRef 0 5 (shared .prepared 0) (by decide) (by decide)
  have Q := h (prepared (copy .prepared)) 7 0 0 0 0 [] theirs 0 5 (copy .prepared) (by decide) (by decide)
  have F : findRef (prepared (copy .prepared)).c theirs = some (5, copy .prepared) := by decide +kernel
  have G : findRef (prepared (shared .prepared 0)).c aRef = some (5, shared .prepared 0) := by decide +kernel
  have L : heardFrom 7 0 (prepared (copy .prepared)).c = true := by decide +kernel
  have M : heardFrom 7 0 (prepared (shared .prepared 0)).c = true := by decide +kernel
  ⟨(by refine runs_of ((h (admits peered) 7 2 0 0 0 (slate 2) aRef 0 0 plainTake ?_ ?_).1 ?_ ?_ ?_
     ?_ ?_ ?_ (by decide +kernel) (fun _ he => nomatch he)) <;> decide +kernel),
   runs_of (P.2.1 5 0 (Member.new 7 0 none) M ⟨G, rfl, rfl, fun _ => rfl⟩ (by decide +kernel) (by decide)),
   runs_of (P.2.2.1 5 0 (Member.new 7 0 none) ⟨G, rfl, rfl, fun _ => rfl⟩ (by decide +kernel)),
   (by refine runs_of (P.2.2.2.1 5 0 (Member.new 7 0 none) M ⟨G, rfl, rfl, fun _ => rfl⟩ ?_ rfl ?_ ?_) <;> decide +kernel),
   runs_of (Q.2.2.2.2.1 L ⟨F, rfl, rfl, fun _ => rfl⟩ (by decide)), runs_of (Q.2.2.2.2.2.1 L ⟨F, rfl, rfl, fun _ => rfl⟩ (by decide)),
   runs_of (Q.2.2.2.2.2.2 (by decide +kernel) ⟨F, rfl, rfl, fun _ => rfl⟩ (by decide))⟩

theorem witness_closing (h : Obligations.CompositeTakesClose) :
    Runs (.memberOutcome aRef 0 7 (leBytes 64 0)) (prepared (shared .started 0)) ∧ Runs (.remoteMemberLost 7) (prepared (shared .accepted 0)) ∧
    Runs (.leadGenerationChange 7 0) (prepared (copy .prepared)) ∧ Runs (.leadGenerationChange 7 0) (prepared (copy .started)) :=
  ⟨(by refine runs_of ((h (prepared (shared .started 0)) 0 7 0 aRef 0 (leBytes 64 0) 5 _ ?_ ?_ rfl).1 0 (Member.new 7 0 none) ?_ ?_
     ?_ ?_ ?_ rfl) <;> decide +kernel),
   (by refine runs_of ((h (prepared (shared .accepted 0)) 0 7 0 aRef 0 [] 5 _ ?_ ?_ rfl).2.1 ?_) <;> decide),
   (by refine runs_of ((h (prepared (copy .prepared)) 7 0 0 aRef 0 [] 5 _ ?_ ?_ rfl).2.2.1 ?_ ?_ rfl ?_ rfl) <;> decide +kernel),
   (by refine runs_of ((h (prepared (copy .started)) 7 0 0 aRef 0 [] 5 _ ?_ ?_ rfl).2.2.2 ?_ ?_ ?_ rfl ?_ ?_) <;> decide +kernel)⟩

theorem witness_replan (h : Obligations.ReplanEndsWhatCannotBeMet) :
    Runs .replan (prepared plainTake) ∧ Runs .replan (prepared { plainTake with deadline := 0, budget := 9 }) :=
  ⟨(by refine runs_of ((h (prepared plainTake) ?_ ?_).1 ?_) <;> decide +kernel),
   (by refine runs_of ((h (prepared { plainTake with deadline := 0, budget := 9 }) ?_ ?_).2 5 _ 65536 98304 rfl rfl ?_) <;> decide +kernel)⟩

/-- A management unit holds the token; session 1 is keyed and open. -/
def aSession : Session :=
  { sid := 1, keyed := true, opened := true, at_ := 0, nonce := [], seed := [], secret := [], keys := [], highest := 0, seqOut := 0, answers := [], lastNum := 0, begun := [],
    second := 0, inSecond := 0 }

def tray (f : Ctl → Ctl) : State := from0 (fun c => f (wr Reg.MGT_STATUS_UNHELD 0 (onMgt (fun m => { m with sessions := [aSession] }) c)))

/-- The first request of that session. -/
def aReq : Req := { sid := 1, num := 1, seq := 1, verified := true }

theorem witness_memory (h : Obligations.MemoryUpkeepIsCounted) (g : Obligations.CellsAndImagesAreChecked) :
    Runs (.patrolScrub (BitVec.ofNat 48 lpddrBase) [.cells (BitVec.ofNat 48 lpddrBase) 3] true) (from0 (wr Reg.MEM_SIZE_GIB 96)) ∧
    Runs (.patrolScrub (BitVec.ofNat 48 lpddrBase) [.link (BitVec.ofNat 48 lpddrBase) 2] true) (from0 (wr Reg.MEM_SIZE_GIB 96)) ∧
    Runs (.patrolScrub (BitVec.ofNat 48 sramBase) [.cells (BitVec.ofNat 48 sramBase) 1] false) State.reset ∧
    Runs (.cellWrite aReq (leBytes 580 4095)) (tray id) ∧ Runs (.imageLoad aReq (leBytes 8 0)) (tray id) ∧ Runs (.imageFree aReq (leBytes 4 0)) (tray id) :=
  have P := fun n => (h (from0 (wr Reg.MEM_SIZE_GIB 96)) 0 0 0 0 0 (BitVec.ofNat 48 lpddrBase) 3 n true).2.2.2.1 (by decide +kernel) (by decide +kernel) (by decide +kernel) (by decide)
  ⟨runs_of (P 0).1, runs_of (P 2).2,
   (by refine runs_of ((h State.reset 0 0 0 0 0 (BitVec.ofNat 48 sramBase) 1 0 false).2.2.2.2.1 ?_ 0 ?_ ?_ ?_) <;> decide +kernel),
   (by refine runs_of ((g (tray id) aReq (leBytes 580 4095)).1 ?_ ?_ ?_ ?_) <;> decide +kernel),
   runs_of ((g (tray id) aReq (leBytes 8 0)).2.1 (by decide +kernel) (by decide +kernel)),
   runs_of ((g (tray id) aReq (leBytes 4 0)).2.2 (by decide +kernel) (by decide +kernel))⟩

theorem witness_release (h : Obligations.SliceReleaseLeavesNothing) : Runs (.sliceRelease 7) (running id) ∧ takeAt (running id).c 5 = some aTake ∧ aTake.st = .started :=
  ⟨runs_of (h (running id) 7 (by decide) (by decide)), rfl, rfl⟩

/-! ### The fabric and the collective engines -/

/-- A module on the fabric: physical ID 0, slice 1, physical ID 7 an allowed sender, port 0 up, the first SRAM unit in its allotment. -/
def onFabric (f : Ctl → Ctl) : State :=
  running (fun c =>
    let c := wr (Reg.FAB_PORT_STATE_STATE 0) 3 <| wr Reg.FAB_ID_VALID 1 { c with fab := { c.fab with allow := [(0, 2 ^ 7)] } }
    f { c with memory := { c.memory with cfg := { c.memory.cfg with allotSram := 1 } } })

/-- A packet from physical ID 7. -/
def pkt (typ tc seq addr : Nat) (payload : List Byte) : Pkt :=
  ⟨0, 7, 1, tc, typ, payload.length / 64, seq == 0, true, false, false, 1, seq, 0, 0, addr, 0, payload⟩

theorem comes {p : Pkt} {s : State} (u : rd s.c (Reg.FAB_PORT_STATE_STATE 0) = 3) (a : parsePkt (pktBytes p) = some p)
    (b : (accepts 7 1 s.c).1 = true) (r : p.src = 7) (l : p.slice = 1) : comesIn 0 p.typ (pktBytes p) p s.c := ⟨u, a, rfl, by rw [r, l]; exact b⟩

/-- A context at the destination. -/
def hears (gen expect : Nat) : State := onFabric (fun c => { c with fab := { c.fab with dst := [⟨7, 0, gen, expect, [], 0, false, 0, none, none⟩] } })

def dataPkt (seq addr : Nat) : Pkt := pkt 1 0 seq addr (List.replicate 64 5)

set_option maxRecDepth 20000 in
theorem data_sound : parsePkt (pktBytes (dataPkt 0 sramBase)) = some (dataPkt 0 sramBase) ∧ parsePkt (pktBytes (dataPkt 0 0)) = some (dataPkt 0 0) ∧
    parsePkt (pktBytes (dataPkt 2 0)) = some (dataPkt 2 0) := by decide +kernel

theorem taken_in : (accepts 7 1 (onFabric id).c).1 = true := by decide +kernel

theorem witness_data (h : Obligations.DataLandsInOrder) :
    Runs (.data 0 (pktBytes (dataPkt 0 sramBase))) (onFabric id) ∧ Runs (.data 0 (pktBytes (dataPkt 0 0))) (onFabric id) ∧
    Runs (.data 0 (pktBytes (dataPkt 2 0))) (hears 1 0) ∧ Runs (.data 0 (pktBytes (dataPkt 2 0))) (hears 0 3) ∧
    Runs (.data 0 (pktBytes (dataPkt 2 0))) (hears 0 1) := by
  obtain ⟨d1, d2, d3⟩ := data_sound
  have a1 : (accepts 7 1 (hears 1 0).c).1 = true := by decide +kernel
  have a2 : (accepts 7 1 (hears 0 3).c).1 = true := by decide +kernel
  have a3 : (accepts 7 1 (hears 0 1).c).1 = true := by decide +kernel
  exact ⟨(by refine runs_of ((h (onFabric id) 0 _ (dataPkt 0 sramBase) ?_ (comes rfl d1 taken_in rfl rfl)).1 rfl rfl ?_ ?_ ?_) <;> decide +kernel),
    (by refine runs_of ((h (onFabric id) 0 _ (dataPkt 0 0) ?_ (comes rfl d2 taken_in rfl rfl)).2.1 rfl rfl ?_ ?_) <;> decide +kernel),
    runs_of ((h (hears 1 0) 0 _ (dataPkt 2 0) (by decide +kernel) (comes rfl d3 a1 rfl rfl)).2.2.1 _ rfl (by decide +kernel)),
    runs_of (((h (hears 0 3) 0 _ (dataPkt 2 0) (by decide +kernel) (comes rfl d3 a2 rfl rfl)).2.2.2 _ rfl rfl rfl).1 (by decide)),
    (by refine runs_of (((h (hears 0 1) 0 _ (dataPkt 2 0) ?_ (comes rfl d3 a3 rfl rfl)).2.2.2 _ rfl rfl rfl).2 ?_ ?_ ?_
      ?_ (fun _ he => nomatch he)) <;> decide +kernel)⟩

/-- A notification or a cut for a step group; the payload goes on with a byte. -/
def notePkt (typ step next : Nat) : Pkt := pkt typ (if typ = 2 then 0 else 3) 0 0 (if typ = 9 then [] else leBytes 4 step ++ leBytes 60 next)

set_option maxRecDepth 20000 in
theorem notes_sound : parsePkt (pktBytes (notePkt 2 3 0)) = some (notePkt 2 3 0) ∧ parsePkt (pktBytes (notePkt 2 3 1)) = some (notePkt 2 3 1) ∧
    parsePkt (pktBytes (notePkt 8 3 1)) = some (notePkt 8 3 1) ∧ parsePkt (pktBytes (notePkt 8 4 1)) = some (notePkt 8 4 1) ∧
    parsePkt (pktBytes (notePkt 9 0 0)) = some (notePkt 9 0 0) := by decide +kernel

/-- The module has seen message 1 of physical ID 7. -/
def hasSeen : State := onFabric (fun c => { c with fab := { c.fab with seen := [(7, 1, 0)] } })

theorem witness_notices (h : Obligations.NoticesCutsAndDeparturesAct) :
    Runs (.notify 0 (pktBytes (notePkt 2 3 0))) (onFabric id) ∧ Runs (.notify 0 (pktBytes (notePkt 2 3 1))) (onFabric id) ∧
    Runs (.cut 0 (pktBytes (notePkt 8 3 1))) (onFabric id) ∧ Runs (.cut 0 (pktBytes (notePkt 8 4 1))) (onFabric id) ∧
    Runs (.cut 0 (pktBytes (notePkt 8 3 1))) hasSeen ∧ Runs (.depart 0 (pktBytes (notePkt 9 0 0))) (onFabric id) ∧
    Runs (.depart 0 (pktBytes (notePkt 9 0 0))) hasSeen := by
  obtain ⟨d1, d2, d3, d4, d5⟩ := notes_sound
  have a1 : (accepts 7 1 hasSeen.c).1 = true := by decide +kernel
  exact ⟨(by refine runs_of (((h (onFabric id) 0 _ (notePkt 2 3 0) ?_ ?_).1 (comes rfl d1 taken_in rfl rfl) rfl rfl ?_).1 5 aTake rfl ?_ rfl
      ?_) <;> decide +kernel),
    (by refine runs_of (((h (onFabric id) 0 _ (notePkt 2 3 1) ?_ ?_).1 (comes rfl d2 taken_in rfl rfl) rfl rfl ?_).2 rfl ?_) <;> decide +kernel),
    (by refine runs_of (((h (onFabric id) 0 _ (notePkt 8 3 1) ?_ ?_).2.1 (comes rfl d3 taken_in rfl rfl) ?_ ?_
      ?_).1 5 aTake rfl ?_) <;> decide +kernel),
    (by refine runs_of (((h (onFabric id) 0 _ (notePkt 8 4 1) ?_ ?_).2.1 (comes rfl d4 taken_in rfl rfl) ?_ ?_
      ?_).2 ?_) <;> decide +kernel),
    (by refine runs_of ((h hasSeen 0 _ (notePkt 8 3 1) ?_ ?_).2.2.1 (comes rfl d3 a1 rfl rfl) ?_) <;> decide +kernel),
    (by refine runs_of ((h (onFabric id) 0 _ (notePkt 9 0 0) ?_ ?_).2.2.2.1 (comes rfl d5 taken_in rfl rfl) ?_) <;> decide +kernel),
    (by refine runs_of ((h hasSeen 0 _ (notePkt 9 0 0) ?_ ?_).2.2.2.2 (comes rfl d5 a1 rfl rfl) ?_) <;> decide +kernel)⟩

/-- A packet of message 1 of tile 0 that waits for its acknowledgement, and the message. -/
def sentPkt (last : Bool) : SrcPkt := ⟨0, 1, last, 1, 1, 0, 0, .bytes [], .tile 0 1, 0, 0, 0⟩

def sentMsg : OutMsg := ⟨1, 0, 3, 0, 1, 0, 0, 64, none, true⟩

def sends (last : Bool) (gen : Nat) : State :=
  onFabric (fun c =>
    wr Reg.AD_STATUS_GENERATION gen (setTile 0 { Tile.idle with take := some 5, msgs := [sentMsg] } { c with fab := { c.fab with src := [⟨7, 0, 1, [sentPkt last], [], 0⟩] } }))

def control (typ : Nat) : Pkt := pkt typ 2 0 0 []

theorem control_sound : parsePkt (pktBytes (control 3)) = some (control 3) ∧ parsePkt (pktBytes (control 4)) = some (control 4) ∧
    parsePkt (pktBytes (control 5)) = some (control 5) := by decide +kernel

theorem witness_answers (h : Obligations.AnswersReachTheSource) :
    Runs (.messageComplete 0 (pktBytes (control 3))) (sends true 0) ∧ Runs (.wilefAck 0 (pktBytes (control 3))) (sends false 0) ∧
    Runs (.nak 0 (pktBytes (control 4))) (sends true 0) ∧ Runs (.refuse 0 (pktBytes (control 5))) (sends true 0) ∧
    Runs (.wilefAck 0 (pktBytes (control 3))) (sends true 1) ∧ Runs (.nak 0 (pktBytes (control 4))) (sends true 1) ∧
    Runs (.refuse 0 (pktBytes (control 5))) (sends true 1) := by
  obtain ⟨d1, d2, d3⟩ := control_sound
  have a0 : (accepts 7 1 (sends true 0).c).1 = true := by decide +kernel
  have a1 : (accepts 7 1 (sends false 0).c).1 = true := by decide +kernel
  have a2 : (accepts 7 1 (sends true 1).c).1 = true := by decide +kernel
  have g0 : 0 = moduleGen (sends true 0).c := by decide +kernel
  have g1 : 0 = moduleGen (sends false 0).c := by decide +kernel
  have g2 : 0 ≠ moduleGen (sends true 1).c := by decide +kernel
  have H := fun p => h (sends true 0) 0 (pktBytes p) p (by decide +kernel) (by decide +kernel)
  have O := fun p => (h (sends true 1) 0 (pktBytes p) p (by decide +kernel) (by decide +kernel)).2.2.2.2
  exact ⟨runs_of ((H (control 3)).1 ⟨7, 0, 1, [sentPkt true], [], 0⟩ (sentPkt true) 0 1 sentMsg (comes rfl d1 a0 rfl rfl) ⟨g0, rfl⟩ rfl rfl rfl rfl (by decide) rfl rfl
      (by decide)),
    (by refine runs_of ((h (sends false 0) 0 _ (control 3) ?_ ?_).2.1 _ (comes rfl d1 a1 rfl rfl) ⟨g1, rfl⟩ rfl ?_) <;> decide +kernel),
    runs_of ((H (control 4)).2.2.1 _ (sentPkt true) (comes rfl d2 a0 rfl rfl) ⟨g0, rfl⟩ rfl (by decide)),
    runs_of ((H (control 5)).2.2.2.1 0 sentMsg 5 aTake (comes rfl d3 a0 rfl rfl) g0 (by decide) (by decide) rfl rfl rfl),
    runs_of (((O (control 3)) g2).1 (comes rfl d1 a2 rfl rfl)).2, runs_of (((O (control 4)) g2).2.1 (comes rfl d2 a2 rfl rfl)),
    runs_of (((O (control 5)) g2).2.2 (comes rfl d3 a2 rfl rfl))⟩

theorem witness_timers (h : Obligations.FabricTimersAct) : Runs (.retransmitTimeout 7 0 0) (sends true 0) :=
  (by refine runs_of ((h (sends true 0) 0 7 0 0 false ?_).2.2.2.1 _ (sentPkt true) rfl rfl ?_ ?_) <;> decide +kernel)

theorem witness_routes (h : Obligations.RoutesAreWrittenAndFenced) :
    Runs (.fenceSet aReq [0, 0, 1]) (tray id) ∧ Runs (.fenceClear aReq [0, 0, 0]) (tray id) ∧ Runs (.remap aReq [0, 0, 9, 0]) (tray id) :=
  ⟨(by refine runs_of ((h (tray id) 0 aReq [0, 0, 1] ?_).2.2.1 ?_ rfl ?_ ?_) <;> decide +kernel),
   (by refine runs_of ((h (tray id) 0 aReq [0, 0, 0] ?_).2.2.2.1 ?_ rfl ?_ ?_) <;> decide +kernel),
   (by refine runs_of ((h (tray id) 0 aReq [0, 0, 9, 0] ?_).2.2.2.2 ?_ rfl ?_ ?_) <;> decide +kernel)⟩

theorem witness_ports (h : Obligations.PortsComeUpAndGo) : Runs (.portDown 0) State.reset := runs_of (h State.reset 0 0 0 0 0 (by decide)).2.2.1

/-- A group that this module creates, in slot 4. -/
def creates (members : List Nat) : State := onFabric (setGroup 4 { Group.free with gid := 9, state := 1, members := members })

def aColl : CollSrc := ⟨7, 1, 0⟩

/-- A JOIN of member 1 is held. -/
def aJoin : Join := ⟨9, 1, 3, 0, 0, 0⟩

def joining (s : State) : State := onCtl (fun c => { c with coll := { c.coll with joins := [aJoin] } }) s

theorem witness_creations (h : Obligations.CreationsEndInOneResult) :
    Runs (.join aColl 9 1 3 0 0) (onFabric id) ∧ Runs (.join aColl 9 1 3 0 0) (creates [0, 1, 2]) ∧ Runs (.join aColl 9 0 3 0 0) (creates [0]) ∧
    Runs (.joinTimeout 9) (joining (creates [0, 1, 2])) ∧ Runs (.joinTimeout 9) (joining (onFabric id)) ∧ Runs (.createResult aColl 4 9 0 []) (creates [0]) := by
  have a1 : (accepts 7 1 (creates [0, 1, 2]).c).1 = true := by decide +kernel
  have a2 : (accepts 7 1 (creates [0]).c).1 = true := by decide +kernel
  exact ⟨runs_of ((h (onFabric id) aColl 9 1 3 0 0 0 [] (by decide +kernel)).1 taken_in rfl (by decide)),
    runs_of (((h (creates [0, 1, 2]) aColl 9 1 3 0 0 0 [] (by decide +kernel)).2.1 4 _ a1 rfl rfl rfl rfl).1 (by decide)),
    runs_of (((h (creates [0]) aColl 9 0 3 0 0 0 [] (by decide +kernel)).2.1 4 _ a2 rfl rfl rfl rfl).2 (by decide)),
    (by refine runs_of ((h (joining (creates [0, 1, 2])) aColl 9 0 3 0 0 0 [] ?_).2.2.1 4 _ aJoin rfl rfl rfl rfl ?_ ?_) <;> decide +kernel),
    runs_of ((h (joining (onFabric id)) aColl 9 0 3 0 0 0 [] (by decide +kernel)).2.2.2.1 aJoin rfl rfl (by decide +kernel)),
    runs_of ((h (creates [0]) aColl 9 0 3 0 0 4 [] (by decide +kernel)).2.2.2.2 a2 rfl rfl)⟩

/-- A group of two members in slot 4, whose other member is physical ID 7. -/
def plays (ops : List CollOp) (sigs : List (Nat × Nat × Nat)) : State :=
  onFabric (fun c => setGroup 4 { Group.free with gid := 9, state := 2, members := [0, 1], ops := ops, sigs := sigs } (wr (Reg.FAB_RT_ENTRY_PHYS 1) 7 c))

/-- Channel 3 releases that group's clapper at 4. -/
def rings (ops : List CollOp) (sigs : List (Nat × Nat × Nat)) : State := onCtl (armChannel 3 4 2 4 0) (plays ops sigs)

theorem witness_packets (h : Obligations.CollectivePacketsAct) :
    let op : CollOp := { anOp with seq := 1, take := 5 }
    let down : CollOp := { op with fn := 6, root := 1 }
    let clap : CollOp := { op with fn := 8, release := some 4, sig := 6 }
    Runs (.sig aColl 4 9 1 2) (plays [] []) ∧ Runs (.coll aColl 4 9 1 (.part 0 [1])) (plays [] []) ∧ Runs (.fail aColl 4 9 1 0x502 0 0) (plays [] []) ∧
    Runs (.sig aColl 4 9 1 2) (plays [op] []) ∧ Runs (.fail aColl 4 9 1 0x502 0 0) (plays [op] []) ∧ Runs (.done aColl 4 9 1) (plays [down] []) ∧
    Runs (.releaseClapper true 4) (rings [clap] [(1, 1, 6)]) := by
  intro op down clap
  have a0 : (accepts 7 1 (plays [] []).c).1 = true := by decide +kernel
  have a1 : (accepts 7 1 (plays [op] []).c).1 = true := by decide +kernel
  have a2 : (accepts 7 1 (plays [down] []).c).1 = true := by decide +kernel
  have E := h (plays [] []) aColl 4 9 1 2 0x502 0 0 1 0 [1] false 0 (by decide +kernel) (by decide +kernel)
  have O := h (plays [op] []) aColl 4 9 1 2 0x502 0 0 1 0 [1] false 0 (by decide +kernel) (by decide +kernel)
  have D := h (plays [down] []) aColl 4 9 1 2 0x502 0 0 1 0 [1] false 0 (by decide +kernel) (by decide +kernel)
  have K := h (rings [clap] [(1, 1, 6)]) aColl 4 9 1 2 0x502 0 0 1 0 [1] false 0 (by decide +kernel) (by decide +kernel)
  have e := E.1 ⟨a0, rfl, rfl, rfl, by decide +kernel⟩ rfl
  exact ⟨runs_of e.1, runs_of (e.2.1 (by decide)), runs_of e.2.2,
    runs_of (O.2.1 op aTake ⟨a1, rfl, rfl, rfl, by decide +kernel⟩ ⟨rfl, rfl, rfl, rfl⟩ (by decide) (by decide) rfl rfl),
    runs_of (O.2.2.1 op aTake ⟨a1, rfl, rfl, rfl, by decide +kernel⟩ rfl rfl rfl),
    runs_of (D.2.2.2.1 down ⟨a2, rfl, rfl, rfl, by decide +kernel⟩ ⟨rfl, rfl, rfl, rfl⟩ rfl (by decide) (by decide)),
    (by refine runs_of (K.2.2.2.2.1 clap 4 rfl rfl rfl rfl rfl rfl ?_ ?_ ?_ ⟨3, by decide +kernel⟩) <;> decide)⟩

theorem witness_clapper (h : Obligations.ClapperReleaseLetsIssueGoOn) :
    let s := running (fun c => { c with share := { c.share with clappers := [(5, (2, some 9))] } })
    Runs (.releaseClapper false 5) s :=
  (by refine runs_of (h (running (fun c => { c with share := { c.share with clappers := [(5, (2, some 9))] } })) 5 2 9 rfl ?_ ?_ ?_) <;> decide +kernel)

/-! ### Control space and time -/

theorem witness_writes (h : Obligations.RegisterWritesFollowTheirFields) :
    Runs (.registerWrite 1 0x0F0000000000 3) State.reset ∧ Runs (.registerWrite 0 0x0F000000FFFC 3) State.reset ∧
    Runs (.registerWrite 0 0x0F0000000000 3) State.reset :=
  ⟨runs_of ((h State.reset 1 0x0F0000000000 3).1 (by decide)), runs_of ((h State.reset 0 0x0F000000FFFC 3).2.1 (by decide) (by decide +kernel)),
   (by refine runs_of ((h State.reset 0 0x0F0000000000 3).2.2 ?_ ?_ ?_) <;> decide +kernel)⟩

/-- The HI of a read LO has been latched. -/
def latched : State := from0 (fun c => { c with latched := [(0x0F0000000000, 7)] })

/-- Something of the time base changed. -/
def timed (f : TimeSt → TimeSt) : State := from0 (fun c => wr Reg.ETH_STATUS_LINK 3 <| wr Reg.TC_CTRL_PULSE_EN 1 (wr Reg.TC_CTRL_PTP_EN 1 (onTime f c)))

theorem witness_reads (h : Obligations.ReadsLatchAndClear) :
    Runs (.unmappedAccess 0x0F000000FFFC true) State.reset ∧ Runs (.unmappedAccess 0x0F0000000000 true) State.reset ∧
    Runs (.latchingRead 0x0F0000000000) State.reset ∧ Runs (.latchingRead 0x0F0000000000) latched ∧ Runs (.latchingRead 0x0F0000000000) (timed (fun t => { t with tc := 0x10000000007 })) ∧
    Runs (.peakRead 178 true) State.reset :=
  ⟨runs_of ((h State.reset 0x0F000000FFFC 0).1 (by decide +kernel)).1, runs_of ((h State.reset 0x0F0000000000 0).2.1 (by decide +kernel) true),
   runs_of ((h State.reset 0x0F0000000000 0).2.2.1 (by decide +kernel) rfl), runs_of ((h latched 0x0F0000000000 0).2.2.2.1 7 (by decide +kernel) rfl),
   runs_of ((h (timed (fun t => { t with tc := 0x10000000007 })) 0x0F0000000000 0).2.2.2.2.1 (by decide +kernel) (by decide +kernel)), runs_of ((h State.reset 0 178).2.2.2.2.2 true (by decide))⟩

def master : Announce := ⟨0, true, 0, 0, 0, 0, 0, 0, 0, 9⟩

theorem unarmed (c : Ctl) (h : (List.range 64).all (fun n => !armed c n) = true) : ∀ n, n < 64 → armed c n = false := by
  intro n hn
  simpa using List.all_eq_true.mp h n (List.mem_range.mpr hn)

/-- A pulse has come, and so many in a row that are good; the PLL holds phase; a step waits. -/
def pulsed (n : Nat) : State := timed (fun t => { t with pulseSeen := true, pulseRun := n })

def phased : State := onCtl (fun c => wr Reg.TC_STATE_LOCK 1 (onTime (fun t => { t with pllLocked := true }) c)) (pulsed 2)

def stepping : State := timed (fun t => { t with step := some true })

theorem witness_time (h : Obligations.TimeInputsAreQualified) :
    Runs (.tbPulseEdge 1000000000) (from0 (wr Reg.TC_CTRL_PULSE_EN 0)) ∧ Runs (.tbPulseEdge 1000000000) (timed id) ∧
    Runs (.tbPulseEdge 7) (pulsed 2) ∧ Runs (.tbPulseEdge 999999900) (pulsed 1) ∧ Runs (.tbPulseEdge 1000000100) (pulsed 2) ∧
    Runs (.tbPulseEdge 1000000100) phased ∧ Runs (.holdoverExpiry .ptp) State.reset ∧
    Runs (.holdoverExpiry .ptp) (onCtl (wr Reg.TC_STATE_LOCK 3) (timed (fun t => { t with lost := [.ptp] }))) ∧
    Runs (.timeExchange 0 1 2 3 4 true) (from0 (wr Reg.TC_CTRL_WILEF_EN 1)) ∧ Runs .gridStale (timed (fun t => { t with crossings := [5] })) ∧ Runs .delayReq State.reset ∧ Runs .delayReq (timed (fun t => { t with master := some master })) ∧
    Runs .delayReq (timed (fun t => { t with delayAt := some 0 })) ∧ Runs (.delayResponse 0) State.reset ∧
    Runs (.delayResponse 0) (timed (fun t => { t with delayT3 := some 4, syncT1 := 1 })) ∧ Runs (.gridPhase aReq (leBytes 8 1 ++ leBytes 8 5)) (tray id) ∧
    Runs .tcStepApply State.reset ∧ Runs .tcStepApply stepping := by
  have H := fun s q sp bs => h s 0 sp .ref master 0 0 0 0 0 0 0 false aReq bs q
  have X := h (onCtl (wr Reg.TC_STATE_LOCK 3) (timed (fun t => { t with lost := [.ptp] }))) 0 0 .ptp master 0 0 0 0 0 0 0 false aReq [] (by decide +kernel)
  have Y := h (from0 (wr Reg.TC_CTRL_WILEF_EN 1)) 0 0 .pulse master 1 2 3 4 0 0 0 true aReq [] (by decide +kernel)
  have Z := h State.reset 0 0 .ptp master 0 0 0 0 0 0 0 false aReq [] (by decide +kernel)
  exact ⟨runs_of ((H (from0 (wr Reg.TC_CTRL_PULSE_EN 0)) (by decide) 1000000000 []).2.2.2.1 (by decide)), (by refine runs_of ((H (timed id) ?_ 1000000000 []).2.2.2.2.1 ?_ ?_) <;> decide),
    (by refine runs_of ((H (pulsed 2) ?_ 7 []).2.2.2.2.2.1 ?_ rfl ?_) <;> decide), (by refine runs_of ((H (pulsed 1) ?_ 999999900 []).2.2.2.2.2.2.1 ?_ rfl ?_ ?_) <;> decide),
    (by refine runs_of ((H (pulsed 2) ?_ 1000000100 []).2.2.2.2.2.2.2.1 ?_ rfl ?_ ?_ ?_) <;> decide),
    (by refine runs_of ((H phased ?_ 1000000100 []).2.2.2.2.2.2.2.2.1 ?_ rfl ?_ ?_ ?_ rfl (unarmed phased.c ?_) ?_) <;> decide +kernel),
    runs_of ((Z.2.2.2.2.2.2.2.2.2.2).1 (.inl rfl)), (by refine runs_of ((X.2.2.2.2.2.2.2.2.2.2).2.1 2 ?_ ?_ ?_ ?_) <;> decide +kernel), runs_of (((Y.2.2.2.2.2.2.2.2.2.2).2.2.2.2.2.2.2.2.2.2).2.2.1 (by decide)),
    (by refine runs_of ((((H (timed (fun t => { t with crossings := [5] })) ?_ 0 []).2.2.2.2.2.2.2.2.2.2).2.2.2.2.2.2.2.2.2.2).2.2.2.2.2.1 5 [] rfl ?_ ?_) <;> decide +kernel), runs_of (((H State.reset (by decide) 0 []).2.2.2.2.2.2.2.2.2.2).2.2.2.2.2.1 rfl),
    (by refine runs_of (((H (timed (fun t => { t with master := some master })) ?_ 0 []).2.2.2.2.2.2.2.2.2.2).2.2.2.2.2.2.1 master rfl ?_ ?_ (fun _ he => nomatch he)) <;> decide +kernel),
    runs_of (((H (timed (fun t => { t with delayAt := some 0 })) (by decide) 0 []).2.2.2.2.2.2.2.2.2.2).2.2.2.2.2.2.2.1 0 rfl (by decide)),
    runs_of (((H State.reset (by decide) 0 []).2.2.2.2.2.2.2.2.2.2).2.2.2.2.2.2.2.2.1 (by decide +kernel) rfl),
    (by refine runs_of (((H (timed (fun t => { t with delayT3 := some 4, syncT1 := 1 })) ?_ 0 []).2.2.2.2.2.2.2.2.2.2).2.2.2.2.2.2.2.2.2.1 4 ?_ rfl ?_) <;> decide +kernel),
    (by refine runs_of ((((H (tray id) ?_ 0 (leBytes 8 1 ++ leBytes 8 5)).2.2.2.2.2.2.2.2.2.2).2.2.2.2.2.2.2.2.2.2).2.2.2.1 ?_ ?_ ?_ rfl ?_) <;> decide +kernel),
    runs_of ((((H State.reset (by decide) 0 []).2.2.2.2.2.2.2.2.2.2).2.2.2.2.2.2.2.2.2.2).2.2.2.2.2.2.2.1 rfl),
    (by refine runs_of ((((H stepping ?_ 0 []).2.2.2.2.2.2.2.2.2.2).2.2.2.2.2.2.2.2.2.2).2.2.2.2.2.2.2.2 true rfl (unarmed stepping.c ?_) ?_ ?_ ?_) <;> decide +kernel)⟩

/-- Channel `n` is armed for an action. -/
def set (n action : Nat) (f : Ctl → Ctl) : State := from0 (fun c => f (wr (Reg.TC_CUE_CTRL_ARM n) 1 (wr (Reg.TC_CUE_CTRL_ACTION n) action c)))

/-- Every domain runs; a time has passed; a clock switch and a ramp step are due. -/
def allRun : State := from0 (fun c => (List.range 12).foldl (fun c d => wr (Reg.CLK_DOM_CTRL_EN_RUN d) 1 c) c)

def late : State := timed (fun t => { t with tc := 5 })

def ready : State := set 40 3 (fun c => { c with clk := { c.clk with switches := [⟨40, 2, 1, 0⟩] } })

def aStep : State := set 32 5 (onGaf (fun g => { g with stepAt := some 0 }))

theorem witness_cues (h : Obligations.CuesAndFramesAct) :
    Runs .framePulse allRun ∧
    Runs (.cueChannelWrite 50 0 7) (set 50 6 id) ∧ Runs (.cueChannelWrite 50 4 7) State.reset ∧ Runs (.cueChannelWrite 50 2 2) (set 50 6 id) ∧
    Runs (.cueChannelWrite 50 2 0x600) State.reset ∧ Runs (.cueChannelWrite 47 2 0x601) State.reset ∧ Runs (.cueChannelWrite 48 2 0x601) State.reset ∧
    Runs (.cueChannelWrite 63 2 0x601) late ∧ Runs (.switchClockSource 40) State.reset ∧ Runs (.switchClockSource 40) ready ∧ Runs .rampStep State.reset ∧
    Runs .rampStep aStep ∧ Runs .rampStep (set 32 5 id) ∧ Runs (.sampleCounters 50) State.reset ∧ Runs (.sampleCounters 50) (set 50 6 id) := by
  have H := fun s n r v q => h s n r v 0 0 0 q
  refine ⟨(by refine runs_of ((H allRun 0 0 0 ?_).1 rfl ?_ (fun _ he => nomatch he) ?_ ?_ ?_) <;> decide +kernel), (by refine runs_of ((H (set 50 6 id) 50 0 7 ?_).2.1 ?_ ?_) <;> decide),
    (by refine runs_of ((H State.reset 50 4 7 ?_).2.2.1 ?_ ?_) <;> decide), runs_of ((H (set 50 6 id) 50 2 2 (by decide)).2.2.2.1 rfl (by decide)),
    (by refine runs_of ((H State.reset 50 2 0x600 ?_).2.2.2.2.1 rfl ?_ ?_) <;> decide), (by refine runs_of ((H State.reset 47 2 0x601 ?_).2.2.2.2.2.1 ⟨rfl, ?_, ?_⟩ ?_) <;> decide),
    (by refine runs_of ((H State.reset 48 2 0x601 ?_).2.2.2.2.2.2.1 ⟨rfl, ?_, ?_⟩ ⟨?_, ?_⟩ ?_) <;> decide), (by refine runs_of ((H late 63 2 0x601 ?_).2.2.2.2.2.2.2.1 ⟨rfl, ?_, ?_⟩ ⟨?_, ?_⟩ ?_ ?_) <;> decide +kernel),
    runs_of ((H State.reset 40 0 0 (by decide)).2.2.2.2.2.2.2.2.1 (by decide)), (by refine runs_of ((H ready 40 0 0 ?_).2.2.2.2.2.2.2.2.2.1 _ ⟨?_, ?_⟩ ?_ ?_ ?_ rfl) <;> decide +kernel), runs_of (((H State.reset 0 0 0 (by decide)).2.2.2.2.2.2.2.2.2.2).1 (by decide)),
    (by refine runs_of (((H aStep 0 0 0 ?_).2.2.2.2.2.2.2.2.2.2).2.1 ⟨?_, ?_⟩ ?_ ⟨0, rfl, ?_⟩) <;> decide +kernel), (by refine runs_of (((H (set 32 5 id) 0 0 0 ?_).2.2.2.2.2.2.2.2.2.2).2.2.1 ⟨?_, ?_⟩ ?_ (fun ⟨_, he, _⟩ => nomatch he) rfl rfl) <;> decide +kernel),
    runs_of (((H State.reset 50 0 0 (by decide)).2.2.2.2.2.2.2.2.2.2).2.2.2.1 (by decide)), (by refine runs_of (((H (set 50 6 id) 50 0 0 ?_).2.2.2.2.2.2.2.2.2.2).2.2.2.2.1 ⟨?_, ?_⟩ ?_) <;> decide +kernel)⟩

/-! ### Ethernet, power, clocks, faults -/

/-- Queue pair 3 is up with a ring of 16 entries in the LPDDR5X of the slice; window 0 covers it. -/
def paired (f : Ctl → Ctl) : State :=
  from0 (fun c =>
    let c := { c with memory := { c.memory with cfg := { c.memory.cfg with limit := 1 } } }
    let c := wr Reg.ETH_STATUS_LINK 3 c
    let c := wr (Reg.ETH_QP_STATE_STATE 3) 1 (wr (Reg.ETH_QP_CFG_RING_L 3) 4 (wr (Reg.ETH_QP_RING_HI_ADDR 3) 256 (wr Reg.MEM_SIZE_GIB 96 c)))
    let c := wr (Reg.ETH_WIN_CTRL_VALID 0) 1 (wr (Reg.ETH_WIN_LEN_KIB 0) 4 (wr (Reg.ETH_WIN_BASE_HI_ADDR 0) 256 c))
    f (wr (Reg.ETH_WIN_CTRL_REMOTE_READ 0) 1 (wr (Reg.ETH_WIN_CTRL_REMOTE_WRITE 0) 1 c)))

/-- The producer count of its ring is 1; entry 0 begins with some bytes. -/
def rung (entry : List Byte) : State := setMem (fun m => putBytes (lpddrBase + 64) entry (putBytes lpddrBase [1] m)) (paired id)

def readEntry : List Byte := [2, 0, 0, 0, 16, 0, 0, 0] ++ leBytes 8 (lpddrBase + 0x1000)

/-- A request is outstanding. -/
def asking (op retries : Nat) : State :=
  paired (fun c => setQp 3 { QpSt.new with taken := 1, outstanding := [⟨0, op, 4, lpddrBase + 0x2000, 0, 0, 9, retries, 0, none⟩] } c)

theorem witness_rdma (h : Obligations.RdmaQueuesAct) :
    Runs (.rdmaWrite 3 0 0 [5]) State.reset ∧ Runs (.roceAckTimeout 3) (paired id) ∧ Runs (.rdmaWrite 3 1 0 [5]) (paired id) ∧
    Runs (.rdmaRead 3 1 0 4) (paired id) ∧ Runs (.rdmaWrite 3 0 0 [5]) (paired id) ∧ Runs (.rdmaRead 3 0 4092 4) (paired id) ∧
    Runs (.rdmaSend 3 []) (paired id) := by
  have H := fun s key len off bs q => h s 3 key len 0 off bs false q
  exact ⟨runs_of ((H State.reset 0 0 0 [5] (by decide)).1 (by decide +kernel)).1, (by refine runs_of ((H (paired id) 0 0 0 [] ?_).2.1 ?_ ?_) <;> decide +kernel),
    (by refine runs_of ((H (paired id) 1 0 0 [5] ?_).2.2.1 ?_ ?_ ?_ ?_) <;> decide +kernel),
    (by refine runs_of ((H (paired id) 1 4 0 [] ?_).2.2.2.1 ?_ ?_ ?_ ?_) <;> decide +kernel),
    (by refine runs_of ((H (paired id) 0 0 0 [5] ?_).2.2.2.2.1 lpddrBase ?_ ?_ ?_ ?_ ?_) <;> decide +kernel),
    (by refine runs_of ((H (paired id) 0 4 4092 [] ?_).2.2.2.2.2.1 (lpddrBase + 4092) ?_ ?_ ?_ ?_ ?_) <;> decide +kernel),
    (by refine runs_of ((H (paired id) 0 0 0 [] ?_).2.2.2.2.2.2.1 ?_ ?_ ?_ ?_) <;> decide +kernel)⟩

theorem witness_rdma_reels (h : Obligations.RdmaQueuesAct) :
    Runs (.rdmaSend 3 [0, 0, 0, 7, 1]) (paired (wr (Reg.ETH_QP_CFG_REEL_EN 3) 1)) ∧ Runs (.rdmaSend 3 [0, 0, 0, 7]) (paired (wr (Reg.ETH_QP_CFG_REEL_EN 3) 1)) ∧
    Runs (.doorbell 3) State.reset ∧ Runs (.doorbell 3) (paired id) ∧ Runs (.doorbell 3) (setMem (putBytes lpddrBase [17]) (paired id)) ∧
    Runs (.doorbell 3) (rung readEntry) ∧ Runs (.doorbell 3) (rung []) := by
  have H := fun s bs q => h s 3 0 0 0 0 bs false q
  exact ⟨(by refine runs_of ((H (paired (wr (Reg.ETH_QP_CFG_REEL_EN 3) 1)) [0, 0, 0, 7, 1] ?_).2.2.2.2.2.2.2.1 ?_ ?_ ?_ ?_ ?_) <;> decide +kernel),
    (by refine runs_of ((H (paired (wr (Reg.ETH_QP_CFG_REEL_EN 3) 1)) [0, 0, 0, 7] ?_).2.2.2.2.2.2.2.2.1 ?_ ?_ ?_ ?_) <;> decide +kernel),
    runs_of ((H State.reset [] (by decide)).2.2.2.2.2.2.2.2.2.1 (by decide +kernel)), (by refine runs_of (((H (paired id) [] ?_).2.2.2.2.2.2.2.2.2.2).1 ?_ rfl ?_) <;> decide +kernel),
    (by refine runs_of (((H (setMem (putBytes lpddrBase [17]) (paired id)) [] ?_).2.2.2.2.2.2.2.2.2.2).2.1 ?_ ?_ ?_) <;> decide +kernel),
    (by refine runs_of (((H (rung readEntry) [] ?_).2.2.2.2.2.2.2.2.2.2).2.2.1 _ _ ?_ ?_ rfl ?_ rfl) <;> decide +kernel), (by refine runs_of (((H (rung []) [] ?_).2.2.2.2.2.2.2.2.2.2).2.2.2.1 6 _ ?_ rfl ?_ rfl) <;> decide +kernel)⟩

theorem witness_rdma_answers (h : Obligations.RdmaQueuesAct) :
    Runs (.rdmaAcknowledgement 3 .rnr) (paired id) ∧ Runs (.roceAckTimeout 3) (asking 2 6) ∧ Runs (.rdmaAcknowledgement 3 .rnr) (asking 1 6) ∧
    Runs (.roceAckTimeout 3) (asking 1 7) ∧ Runs (.rdmaAcknowledgement 3 .rnr) (asking 1 7) ∧ Runs (.rdmaAcknowledgement 3 (.nak 1)) (asking 1 0) ∧
    Runs (.rdmaAcknowledgement 3 (.ok [])) (asking 1 0) ∧ Runs (.rdmaAcknowledgement 3 (.ok [1, 2, 3, 4])) (asking 2 0) ∧
    Runs (.cePacket 3 false) (paired id) ∧ Runs (.cnp 3) (paired id) ∧ Runs .roceRateUpdate State.reset := by
  have H := fun s bs q => h s 3 0 0 0 0 bs false q
  exact ⟨runs_of (((H (paired id) [] (by decide)).2.2.2.2.2.2.2.2.2.2).2.2.2.2.1 (by decide +kernel) rfl), (by refine runs_of ((((H (asking 2 6) [] ?_).2.2.2.2.2.2.2.2.2.2).2.2.2.2.2.1 _ ?_ rfl ?_ ?_).1 ?_) <;> decide +kernel),
    (by refine runs_of ((((H (asking 1 6) [] ?_).2.2.2.2.2.2.2.2.2.2).2.2.2.2.2.1 _ ?_ rfl ?_ ?_).2 ?_) <;> decide +kernel), (by refine runs_of ((((H (asking 1 7) [] ?_).2.2.2.2.2.2.2.2.2.2).2.2.2.2.2.2.1 _ ?_ rfl ?_).1 ?_) <;> decide +kernel),
    (by refine runs_of ((((H (asking 1 7) [] ?_).2.2.2.2.2.2.2.2.2.2).2.2.2.2.2.2.1 _ ?_ rfl ?_).2 ?_) <;> decide +kernel), (by refine runs_of (((H (asking 1 0) [] ?_).2.2.2.2.2.2.2.2.2.2).2.2.2.2.2.2.2.1 _ 1 ?_ ?_ rfl) <;> decide +kernel),
    (by refine runs_of (((H (asking 1 0) [] ?_).2.2.2.2.2.2.2.2.2.2).2.2.2.2.2.2.2.2.1 _ ?_ ?_ rfl rfl ?_ ?_) <;> decide +kernel),
    (by refine runs_of (((H (asking 2 0) [1, 2, 3, 4] ?_).2.2.2.2.2.2.2.2.2.2).2.2.2.2.2.2.2.2.2.1 _ ?_ ?_ rfl rfl rfl ?_ ?_ ?_) <;> decide +kernel),
    (by refine runs_of ((((H (paired id) [] ?_).2.2.2.2.2.2.2.2.2.2).2.2.2.2.2.2.2.2.2.2).1 ?_ ?_) <;> decide +kernel), runs_of ((((H (paired id) [] (by decide)).2.2.2.2.2.2.2.2.2.2).2.2.2.2.2.2.2.2.2.2).2.1 (by decide +kernel)), runs_of ((((H State.reset [] (by decide)).2.2.2.2.2.2.2.2.2.2).2.2.2.2.2.2.2.2.2.2).2.2.1 (by decide +kernel))⟩

/-- Limits of 1,000 W and 1,500 W, a ceiling of 1,600 W and a contract cap of 1,400 W. -/
def capped : State := tray (fun c => wr Reg.GAF_LIMITS_FLOOR 1000 (wr Reg.GAF_LIMITS_CEIL 1500 (wr Reg.GAF_CFG_CFG_CEIL 1600 (wr Reg.GAF_CAP_CAP 1400 c))))

def capMsg (kind a b : Nat) : List Byte := leBytes 2 kind ++ leBytes 2 a ++ leBytes 2 b ++ [0, 0]

theorem witness_caps (h : Obligations.CapsAndSheetsAreChecked) :
    Runs (.contractCapSet aReq (capMsg 0 999 0)) capped ∧ Runs (.contractCapSet aReq (capMsg 0 1501 0)) capped ∧
    Runs (.contractCapSet aReq (capMsg 0 1000 0)) capped ∧ Runs (.capLimitsSet aReq (capMsg 1 599 1500)) capped ∧
    Runs (.capLimitsSet aReq (capMsg 1 1400 1601)) capped ∧ Runs (.protectiveCapSet aReq (capMsg 2 99 0)) capped ∧
    Runs (.capstepValueSet aReq (capMsg 4 1501 0)) capped ∧ Runs (.protectiveCapSet aReq (capMsg 2 100 0)) capped ∧
    Runs (.protectiveCapClear aReq (capMsg 3 0 0)) capped ∧ Runs (.capstepValueSet aReq (capMsg 4 1500 0)) capped ∧
    Runs (.slopeSet aReq (leBytes 8 2001)) capped ∧ Runs (.slopeSet aReq (leBytes 8 2000)) capped ∧ Runs (.callSheet aReq (leBytes 16 0)) capped ∧
    Runs (.callSheet aReq (leBytes 16 0xA00)) capped := by
  have H := fun bs => h capped aReq bs (by decide) (by decide +kernel) rfl
  have v : servable 0x20 aReq capped.c = true := by decide +kernel
  have v1 : servable 0x21 aReq capped.c = true := by decide +kernel
  have v2 : servable 0x22 aReq capped.c = true := by decide +kernel
  exact ⟨runs_of ((H (capMsg 0 999 0)).1 ⟨rfl, rfl, rfl, .inr rfl⟩ (by decide) v _ (by simp)), runs_of ((H (capMsg 0 1501 0)).2.1 ⟨rfl, rfl, rfl, .inr rfl⟩ (by decide) (by decide) v _ (by simp)),
    runs_of ((H (capMsg 0 1000 0)).2.2.1 ⟨rfl, rfl, rfl, .inr rfl⟩ (by decide) (by decide) v _ (by simp)),
    runs_of ((H (capMsg 1 599 1500)).2.2.2.1 ⟨rfl, rfl, rfl, .inl rfl⟩ (by decide) v _ (by simp)),
    (by refine runs_of ((H (capMsg 1 1400 1601)).2.2.2.2.1 ⟨rfl, rfl, rfl, .inl rfl⟩ ?_ ?_ ?_ v _ (by simp)) <;> decide),
    runs_of ((H (capMsg 2 99 0)).2.2.2.2.2.1 (.inl ⟨rfl, rfl, rfl, .inr rfl⟩) (by decide) v _ (by simp)),
    runs_of ((H (capMsg 4 1501 0)).2.2.2.2.2.1 (.inr ⟨rfl, rfl, rfl, .inr rfl⟩) (by decide) v _ (by simp)),
    runs_of ((H (capMsg 2 100 0)).2.2.2.2.2.2.1 ⟨rfl, rfl, rfl, .inr rfl⟩ (by decide) v _ (by simp)),
    runs_of ((H (capMsg 3 0 0)).2.2.2.2.2.2.2.1 ⟨rfl, rfl, rfl, .inr rfl⟩ (by decide) v _ (by simp)),
    runs_of ((H (capMsg 4 1500 0)).2.2.2.2.2.2.2.2.1 ⟨rfl, rfl, rfl, .inr rfl⟩ (by decide) v _ (by simp)),
    runs_of (((H (leBytes 8 2001)).2.2.2.2.2.2.2.2.2.1 rfl rfl).1 (by decide) v1 _ (by simp)), runs_of (((H (leBytes 8 2000)).2.2.2.2.2.2.2.2.2.1 rfl rfl).2 (by decide) v1 _ (by simp)),
    runs_of ((((H (leBytes 16 0)).2.2.2.2.2.2.2.2.2.2).1 rfl rfl).1 (by decide) v2 _ (by simp)), runs_of ((((H (leBytes 16 0xA00)).2.2.2.2.2.2.2.2.2.2).1 rfl rfl).2 (by decide) v2 _ (by simp))⟩

def aPower : Power := ⟨0, 0, 0, 0, 0, [], false⟩

theorem witness_tone (h : Obligations.ToneThrottleAndClockFollowTheLevel) : Runs (.toneUpdate aPower 0) State.reset :=
  runs_of (h State.reset aPower 0 0 0 0 0 (by decide) (by decide) rfl).1

/-- The leak loop has read one state four times. -/
def wetting (st : Nat) : State := from0 (fun c => { c with clk := { c.clk with leakRun := (st, 4) } })

theorem witness_clocks (h : Obligations.ClockSourcesAndLoopsAct) :
    Runs .crystalJudged State.reset ∧ Runs .refclkBack State.reset ∧ Runs (.fcountDone 0) State.reset ∧
    Runs (.fcountDone 0) (from0 (fun c => { c with clk := { c.clk with counting := some 0 } })) ∧ Runs (.leakLoopRead 0 0) State.reset ∧
    Runs (.leakLoopRead 50000 0) (wetting 1) ∧ Runs (.leakLoopRead 1999 0) (wetting 2) := by
  have H := fun s ohms q => h s 0 ohms 0 0 0 0 0 0 0 0 0 q
  exact ⟨runs_of ((H State.reset 0 (by decide) rfl).1 (by decide +kernel)), runs_of ((H State.reset 0 (by decide) rfl).2.2.2.1 (by decide +kernel)), runs_of ((H State.reset 0 (by decide) rfl).2.2.2.2.2.2.2.2.1 rfl (by decide +kernel)),
    runs_of ((H (from0 (fun c => { c with clk := { c.clk with counting := some 0 } })) 0 (by decide) rfl).2.2.2.2.2.2.2.2.2.1 0 rfl (by decide +kernel)),
    runs_of (((H State.reset 0 (by decide) rfl).2.2.2.2.2.2.2.2.2.2).2.2.2.2.1 (by decide +kernel)), (by refine runs_of (((H (wetting 1) 50000 ?_ rfl).2.2.2.2.2.2.2.2.2.2).2.2.2.2.2.1 ?_ ?_ ?_) <;> decide +kernel),
    (by refine runs_of (((H (wetting 2) 1999 ?_ rfl).2.2.2.2.2.2.2.2.2.2).2.2.2.2.2.2 ?_ ?_ rfl rfl rfl ?_ ?_) <;> decide +kernel)⟩

/-- A repair is reserved; the random generator is healthy or not. -/
def mending (healthy : Nat) : State := from0 (fun c => wr Reg.SEC_TRNG_HEALTHY healthy { c with flt := { c.flt with repair := some (7, 5, 0) } })

theorem witness_faults (h : Obligations.FaultsAreContained) :
    Runs (.domainReset 0 false (some aReq) [] 0 []) (tray id) ∧ Runs (.escalation 0x60 default) State.reset ∧ Runs (.escalation 0 default) State.reset ∧
    Runs (.escalation 0x10000750 default) State.reset ∧ Runs (.escalation 0x20000700 default) State.reset ∧ Runs (.escalation 0x30000000 default) State.reset ∧
    Runs (.fatal 0 5) (from0 (wr Reg.FLT_STATUS_FATAL 1)) ∧ Runs (.fatal 0 5) State.reset ∧ Runs (.repairExecute []) State.reset ∧
    Runs (.repairExecute []) (mending 0) ∧ Runs (.repairExecute []) (mending 1) ∧ Runs (.dailiesRead aReq (leBytes 12 0)) (tray id) ∧
    Runs (.profile none) (tray id) ∧ Runs (.profile (some aReq)) (tray id) := by
  have H := fun s cell bs q => h s 0 0 0 cell [] [] 0 0 5 0 default aReq bs q
  exact ⟨(by refine runs_of ((H (tray id) 0 [] ?_ ?_).2.2.2.1 ?_) <;> decide +kernel), (by refine runs_of ((H State.reset 0x60 [] ?_ ?_).2.2.2.2.1 ?_ (.inl ?_)) <;> decide),
    (by refine runs_of (((H State.reset 0 [] ?_ ?_).2.2.2.2.2.1 ?_ ?_).1 ?_) <;> decide), (by refine runs_of (((H State.reset 0x10000750 [] ?_ ?_).2.2.2.2.2.1 ?_ ?_).2.1 ?_) <;> decide),
    (by refine runs_of (((H State.reset 0x20000700 [] ?_ ?_).2.2.2.2.2.1 ?_ ?_).2.2 ?_ rfl) <;> decide), (by refine runs_of ((H State.reset 0x30000000 [] ?_ ?_).2.2.2.2.2.2.1 ?_ rfl) <;> decide),
    (by refine runs_of ((H (from0 (wr Reg.FLT_STATUS_FATAL 1)) 0 [] ?_ ?_).2.2.2.2.2.2.2.1 ?_) <;> decide), (by refine runs_of ((H State.reset 0 [] ?_ ?_).2.2.2.2.2.2.2.2.1 ?_ rfl) <;> decide),
    (by refine runs_of (((H State.reset 0 [] ?_ ?_).2.2.2.2.2.2.2.2.2.2).2.1 rfl ?_) <;> decide +kernel), (by refine runs_of (((H (mending 0) 0 [] ?_ ?_).2.2.2.2.2.2.2.2.2.2).2.2.1 7 5 0 rfl ?_ ?_) <;> decide +kernel),
    (by refine runs_of (((H (mending 1) 0 [] ?_ ?_).2.2.2.2.2.2.2.2.2.2).2.2.2.1 7 5 0 rfl ?_ ?_ ?_ rfl) <;> decide +kernel), (by refine runs_of (((H (tray id) 0 (leBytes 12 0) ?_ ?_).2.2.2.2.2.2.2.2.2.2).2.2.2.2.2.1 ?_ rfl ?_ ?_ rfl ?_ ?_) <;> decide +kernel),
    (by refine runs_of (((H (tray id) 0 [] ?_ ?_).2.2.2.2.2.2.2.2.2.2).2.2.2.2.2.2.2.1 ?_ ?_).1 <;> decide +kernel), (by refine runs_of (((H (tray id) 0 [] ?_ ?_).2.2.2.2.2.2.2.2.2.2).2.2.2.2.2.2.2.2 aSession ?_ ?_ ?_ rfl rfl ?_).1 <;> decide +kernel)⟩

theorem witness_fatal (h : Obligations.FaultsAreContained) : Runs (.fatal 0 5) (prepared plainTake) :=
  (by refine runs_of ((h (prepared plainTake) 0 0 0 0 [] [] 0 0 5 0 default aReq [] ?_ ?_).2.2.2.2.2.2.2.2.2.1 ?_ ?_) <;> decide +kernel)

/-- The power controller drains for a mode. -/
def leaving (m : Nat) : State := tray (fun c => wr Reg.PWR_STATUS_DRAINING 1 { c with pwr := { c.pwr with target := some (m, 0) } })

theorem witness_resets (h : Obligations.ModuleResetsAndModes) :
    Runs (.moduleWarmReset (some aReq) false default) (tray id) ∧ Runs (.moduleColdReset (some aReq) default) (tray id) ∧
    Runs (.noUnitTimeout default) (tray id) ∧ Runs (.noUnitTimeout default) (tray (wr Reg.MGT_STATUS_UNHELD 1)) ∧ Runs .startOk State.reset := by
  have H := fun s q => h s none default 0 q
  exact ⟨runs_of ((H (tray id) (by decide)).2.2.2.1 aReq (by decide +kernel)).1, runs_of ((H (tray id) (by decide)).2.2.2.1 aReq (by decide +kernel)).2, (by refine runs_of ((H (tray id) ?_).2.2.2.2.2.2.2.2.2.1 ?_ ?_) <;> decide +kernel),
    (by refine runs_of (((H (tray (wr Reg.MGT_STATUS_UNHELD 1)) ?_).2.2.2.2.2.2.2.2.2.2).1 ?_ ?_) <;> decide +kernel), runs_of (((H State.reset (by decide)).2.2.2.2.2.2.2.2.2.2).2.1 (by decide +kernel))⟩

theorem witness_modes (h : Obligations.ModuleResetsAndModes) :
    Runs .ready (tray id) ∧ Runs .pwrRun (tray id) ∧ Runs .pwrRun (tray (fun c => wr Reg.PWR_STATUS_STAGE 10 (wr Reg.PWR_STATUS_MODE 1 c))) ∧ Runs (.modeApply 0) (tray id) ∧ Runs (.modeApply 0) (leaving 1) ∧ Runs .drainLimit (tray id) ∧
    Runs .drainLimit (leaving 1) := by
  have H := fun s q => h s none default 0 q
  exact ⟨(by refine runs_of (((H (tray id) ?_).2.2.2.2.2.2.2.2.2.2).2.2.2.1 ?_ ?_) <;> decide +kernel), (by refine runs_of (((H (tray id) ?_).2.2.2.2.2.2.2.2.2.2).2.2.2.2.2.1 ?_ ?_) <;> decide +kernel),
    (by refine runs_of (((H (tray (fun c => wr Reg.PWR_STATUS_STAGE 10 (wr Reg.PWR_STATUS_MODE 1 c))) ?_).2.2.2.2.2.2.2.2.2.2).2.2.2.2.2.2.1 ?_ ?_ ?_) <;> decide +kernel), runs_of ((((H (tray id) (by decide)).2.2.2.2.2.2.2.2.2.2).2.2.2.2.2.2.2.2.2.2).1 (.inl rfl)), (by refine runs_of ((((H (leaving 1) ?_).2.2.2.2.2.2.2.2.2.2).2.2.2.2.2.2.2.2.2.2).2.1 1 0 rfl rfl rfl ?_ ?_ ?_) <;> decide +kernel),
    (by refine runs_of ((((H (tray id) ?_).2.2.2.2.2.2.2.2.2.2).2.2.2.2.2.2.2.2.2.2).2.2.1 ?_ ?_) <;> decide +kernel), (by refine runs_of ((((H (leaving 1) ?_).2.2.2.2.2.2.2.2.2.2).2.2.2.2.2.2.2.2.2.2).2.2.2 1 0 rfl ?_ ?_) <;> decide +kernel)⟩
/-! ### Security, updates, the tray -/

/-- Whether the random generator is healthy and memory is encrypted; the slice key, and when a key import was opened. -/
def vault (trng enc : Nat) (key : Option (List Byte)) (at_ : Option Nat) : State :=
  tray (fun c =>
    let c := { c with memory := { c.memory with sliceKey := key }, sec := { c.sec with importAt := at_ } }
    wr Reg.SEC_TRNG_HEALTHY trng (wr Reg.MEM_ENC_CTRL_ACTIVE enc (wr Reg.TC_STATE_LOCK 3 c)))

def aRecord : List Byte := leBytes 4 0x44524B5A ++ [3, 1] ++ leBytes 18 0xFF ++ leBytes 4 1 ++ List.replicate (36 + 1 + 4627) 0

def aToken : List Byte := leBytes 4 0x4B544B5A ++ [1, 0, 6] ++ List.replicate 4684 0

def aContent : RecContent := ⟨0, 0, 0, 0, 0, 0, [], [], []⟩

set_option maxRecDepth 20000 in
theorem record_sound : recordCode (vault 1 1 none none).c aRecord aContent true = 0 := by decide +kernel

set_option maxRecDepth 20000 in
theorem token_sound : tokenCode (vault 1 1 none none).c aToken true = 0 := by decide +kernel

def importMsg : List Byte := 3 :: List.replicate 1168 0

set_option maxRecDepth 20000 in
theorem witness_security (h : Obligations.RecordsKeysAndQuotesAreGuarded) :
    Runs (.recordLoad aReq [] aContent true) (tray id) ∧ Runs (.recordLoad aReq aRecord aContent true) (vault 1 1 none none) ∧
    Runs (.debugToken aReq [] true) (tray id) ∧ Runs (.debugToken aReq aToken true) (vault 1 1 none none) ∧ Runs .debugTokenExpiry (tray id) ∧
    Runs .debugTokenExpiry (tray (wr Reg.SEC_STATUS_DEBUG_ACTIVE 1)) ∧ Runs (.attest aReq []) (tray id) ∧
    Runs (.attest aReq (leBytes 32 0)) (onCtl (onSec (fun x => { x with quotes := List.replicate 10 0 })) (tray id)) ∧
    Runs (.attest aReq (leBytes 32 0)) (vault 0 0 none none) ∧ Runs (.attest aReq (leBytes 32 0)) (vault 1 0 none none) := by
  have H := fun s bs => h s aReq bs aContent true true 0
  have T := fun bs => h (tray id) aReq bs aContent true true 0
  exact ⟨runs_of ((T []).1 (by decide) (by decide +kernel)), runs_of ((H (vault 1 1 none none) aRecord).2.1 record_sound (by decide +kernel)), runs_of ((T []).2.2.1 (by decide) (by decide +kernel)),
    runs_of ((H (vault 1 1 none none) aToken).2.2.2.1 token_sound (by decide +kernel)), runs_of ((T []).2.2.2.2.1 (by decide +kernel) (by decide +kernel)),
    runs_of ((H (tray (wr Reg.SEC_STATUS_DEBUG_ACTIVE 1)) []).2.2.2.2.2.1 (by decide +kernel) (by decide +kernel)), runs_of ((((T []).2.2.2.2.2.2.2.2.2.2).2.2.2.2.2.2.2.2.2.2).2.2.2.1 (by decide) (by decide +kernel)), runs_of ((((H _ (leBytes 32 0)).2.2.2.2.2.2.2.2.2.2).2.2.2.2.2.2.2.2.2.2).2.2.2.2.1 rfl (by decide +kernel) (by decide +kernel)),
    runs_of ((((H (vault 0 0 none none) (leBytes 32 0)).2.2.2.2.2.2.2.2.2.2).2.2.2.2.2.2.2.2.2.2).2.2.2.2.2.1 rfl (by decide +kernel) rfl (by decide +kernel)), runs_of ((((H (vault 1 0 none none) (leBytes 32 0)).2.2.2.2.2.2.2.2.2.2).2.2.2.2.2.2.2.2.2.2).2.2.2.2.2.2.1 rfl (by decide +kernel) rfl (by decide +kernel))⟩

theorem witness_keys (h : Obligations.RecordsKeysAndQuotesAreGuarded) :
    Runs (.sliceKeyGenerate aReq []) (tray id) ∧
    Runs (.sliceKeyGenerate aReq [1]) (vault 1 0 none none) ∧ Runs (.sliceKeyGenerate aReq [1]) (vault 1 1 (some []) none) ∧
    Runs (.sliceKeyGenerate aReq [1]) (vault 0 1 none none) ∧ Runs (.sliceKeyGenerate aReq [1]) (vault 1 1 none none) ∧
    Runs (.sliceKeyImportOpen aReq []) (tray id) ∧ Runs (.sliceKeyImportOpen aReq [2]) (vault 0 0 none none) ∧
    Runs (.sliceKeyImportOpen aReq [2]) (vault 1 0 none none) ∧ Runs .importTimeout (vault 1 0 none none) ∧ Runs .importTimeout (vault 1 0 none (some 0)) := by
  have H := fun s bs => h s aReq bs aContent true true 0
  exact ⟨runs_of ((H (tray id) []).2.2.2.2.2.2.1 (by decide) (by decide +kernel)), runs_of ((H (vault 1 0 none none) [1]).2.2.2.2.2.2.2.1 ⟨rfl, rfl⟩ rfl (by decide +kernel)), runs_of ((H (vault 1 1 (some []) none) [1]).2.2.2.2.2.2.2.2.1 ⟨rfl, rfl⟩ rfl (by decide) (by decide +kernel)),
    runs_of ((H (vault 0 1 none none) [1]).2.2.2.2.2.2.2.2.2.1 ⟨rfl, rfl⟩ rfl rfl rfl (by decide +kernel)), runs_of (((H (vault 1 1 none none) [1]).2.2.2.2.2.2.2.2.2.2).1 ⟨rfl, rfl⟩ rfl rfl rfl (by decide +kernel)),
    runs_of (((H (tray id) []).2.2.2.2.2.2.2.2.2.2).2.1 (by decide) (by decide +kernel)), runs_of (((H (vault 0 0 none none) [2]).2.2.2.2.2.2.2.2.2.2).2.2.1 ⟨rfl, rfl⟩ rfl (by decide +kernel)),
    runs_of (((H (vault 1 0 none none) [2]).2.2.2.2.2.2.2.2.2.2).2.2.2.1 ⟨rfl, rfl⟩ rfl (by decide +kernel)), runs_of (((H (vault 1 0 none none) []).2.2.2.2.2.2.2.2.2.2).2.2.2.2.2.2.2.2.2.1 rfl (by decide +kernel)),
    runs_of ((((H (vault 1 0 none (some 0)) []).2.2.2.2.2.2.2.2.2.2).2.2.2.2.2.2.2.2.2.2).1 0 rfl (by decide +kernel))⟩

set_option maxRecDepth 20000 in
theorem witness_import (h : Obligations.RecordsKeysAndQuotesAreGuarded) :
    Runs (.sliceKeyImport aReq [] true) (tray id) ∧
    Runs (.sliceKeyImport aReq importMsg true) (vault 1 1 none none) ∧ Runs (.sliceKeyImport aReq importMsg true) (vault 1 0 none (some 0)) ∧
    Runs (.sliceKeyImport aReq importMsg true) (vault 1 1 (some []) (some 0)) ∧ Runs (.sliceKeyImport aReq importMsg true) (vault 1 1 none (some 0)) := by
  have H := fun s bs => h s aReq bs aContent true true 0
  exact ⟨runs_of (((H (tray id) []).2.2.2.2.2.2.2.2.2.2).2.2.2.2.1 (by decide) (by decide +kernel)),
    runs_of (((H (vault 1 1 none none) importMsg).2.2.2.2.2.2.2.2.2.2).2.2.2.2.2.1 ⟨by simp [importMsg], rfl⟩ (by rintro ⟨_, hz, _⟩; cases hz) (by decide +kernel)),
    runs_of (((H (vault 1 0 none (some 0)) importMsg).2.2.2.2.2.2.2.2.2.2).2.2.2.2.2.2.1 ⟨by simp [importMsg], rfl⟩ ⟨0, rfl, (by decide)⟩ rfl (by decide +kernel)),
    (by refine runs_of (((H (vault 1 1 (some []) (some 0)) importMsg).2.2.2.2.2.2.2.2.2.2).2.2.2.2.2.2.2.1 ⟨by simp [importMsg], rfl⟩ ⟨0, rfl, ?_⟩ rfl ?_ ?_) <;> decide +kernel),
    runs_of (((H (vault 1 1 none (some 0)) importMsg).2.2.2.2.2.2.2.2.2.2).2.2.2.2.2.2.2.2.1 ⟨by simp [importMsg], rfl⟩ ⟨0, rfl, (by decide)⟩ rfl rfl (by decide +kernel))⟩

/-- A piece or a chunk with its number, and the head of a manifest of version 1 with `n` chunks. -/
def item (kind k : Nat) (data : List Byte) : List Byte := leBytes 4 kind ++ leBytes 4 k ++ data

def manifest (n : Nat) : List Byte :=
  leBytes 4 0x4C504B5A ++ leBytes 12 1 ++ leBytes 32 0 ++ leBytes 12 1 ++ leBytes 4 (16384 * n) ++ leBytes 32 0 ++ leBytes 32 n ++ List.replicate (4627 + 48 * n) 0

/-- The spare slot's base is the can of the booted slot; a splice may be under way. -/
def splicing (f : UpdSt → UpdSt) : State := tray (onUpd (fun u => f { u with slotA := { Slot.empty with digest := leBytes 32 0 } }))

def aChunk (op : Nat) (hash : List Byte) (bitmap : Nat) : State :=
  splicing (fun u => { u with manifest := some ⟨1, 0, 4, [], 1, [(op, 0, hash)]⟩, bitmap := bitmap })

/-- An item has just come in, and the rate is a bit a second. -/
def hasty (s : State) : State := onCtl (fun c => onUpd (fun u => { u with lastItem := some (0, 16384) }) c) s

theorem leBytes_length (n v : Nat) : (leBytes n v).length = n := by
  induction n generalizing v with
  | zero => rfl
  | succ n ih => simp [leBytes, ih]

/-- The first piece of a manifest of 300 chunks, which has 19,155 bytes. -/
def bigPiece : List Byte := (manifest 300).take 16384

theorem bigPiece_length : bigPiece.length = 16384 := by
  simp only [bigPiece, manifest, List.length_take, List.length_append, List.length_replicate, leBytes_length]
  decide

theorem item_length (kind k : Nat) (l : List Byte) : 8 ≤ (item kind k l).length := by
  rw [item, List.length_append, List.length_append, leBytes_length, leBytes_length]
  exact Nat.le_add_right 8 _

theorem bigPiece_goes_on : ∀ m, ¬ (manifestLen bigPiece = some m ∧ (m ≤ bigPiece.length ∨ bigPiece.length ≠ 16384)) := by
  have k : leAt bigPiece 96 4 = 300 := by decide +kernel
  rintro m ⟨hm, hn⟩
  simp only [manifestLen, bigPiece_length, k] at hm
  rw [bigPiece_length] at hn
  cases hm
  omega

set_option maxRecDepth 20000 in
theorem manifest_sound : manifestCode (splicing id).c (manifest 0) true = 0 := by decide +kernel

set_option maxRecDepth 20000 in
theorem witness_splices (h : Obligations.SplicesActivateAndRecover) :
    let p := Via.port aReq
    Runs (.manifestPiece p [] true) (tray id) ∧ Runs (.manifestPiece p (item 1 7 [0]) true) (tray id) ∧
    Runs (.manifestPiece p (item 1 0 [0]) true) (hasty (tray id)) ∧ Runs (.manifestPiece p (item 1 0 bigPiece) true) (tray id) ∧
    Runs (.manifestPiece p (item 1 0 [0]) true) (tray id) ∧ Runs (.manifestPiece p (item 1 0 (leBytes 128 0)) true) (tray id) ∧
    Runs (.manifestPiece p (item 1 0 (manifest 0)) true) (splicing id) := by
  intro p
  have v : servable 0x44 aReq (tray id).c = true := by decide +kernel
  have H := fun s bs => h s aReq bs true true 0 default
  exact ⟨runs_of (((H (tray id) []).1 (by decide)).1 v), runs_of (((H (tray id) (item 1 7 [0])).2.1 (by decide) (by decide)).1 v),
    (by refine runs_of (((H (hasty (tray id)) (item 1 0 [0])).2.2.1 ?_ ?_ ?_).1 ?_) <;> decide +kernel),
    runs_of (((H (tray id) (item 1 0 bigPiece)).2.2.2.1 ⟨⟨item_length 1 0 bigPiece, rfl, rfl⟩, (Nat.le_of_eq bigPiece_length), rfl⟩ (.inl rfl) (by decide +kernel) bigPiece_length
      bigPiece_goes_on).1 v),
    (by refine runs_of (((H (tray id) (item 1 0 [0])).2.2.2.2.1 ?_ ?_ ?_ ?_ ?_).1 v) <;> decide +kernel),
    (by refine runs_of (((H (tray id) (item 1 0 (leBytes 128 0))).2.2.2.2.2.1 4755 ?_ ?_ ?_ ?_ ?_).1 v) <;> decide +kernel),
    (by refine runs_of (((H (splicing id) (item 1 0 (manifest 0))).2.2.2.2.2.2.1 4755 ?_ ?_ ?_ ?_ manifest_sound).1 ?_) <;> decide +kernel)⟩


/-- The last chunk of a can completes it: its other chunk has come, its head stands in the spare slot's place. -/
def emptyDigest : List Byte := leBytes 32 0x4A43F8804B0AD882FA493BE44DFF80F562D661A05647C15166D71EBFF8C6FFA7

def canHead : List Byte :=
  leBytes 4 0x4E414B5A ++ leBytes 3 1 ++ [7] ++ leBytes 16 0 ++ leBytes 40 16385 ++
    (List.range 7).flatMap (fun i => leBytes 4 (i + 1) ++ leBytes 28 8192 ++ emptyDigest)

/-- Flash that holds some bytes from `a` on. -/
def flash : Nat → List Byte → List (Nat × Byte)
  | _, [] => []
  | a, b :: l => if b = 0#8 then flash (a + 1) l else (a, b) :: flash (a + 1) l

def recovering (head : List Byte) : State :=
  tray (fun c => onUpd (fun u => { u with nor := flash 0 head, recBitmap := 1, recLen := 16385 }) (wr Reg.SEC_STATUS_RECOVERY 1 c))

theorem flash_read (l : List Byte) : ∀ a k, Map.getD 0 (flash a l) k = if k < a then 0 else l.getD (k - a) 0 := by
  induction l with
  | nil => intro a k; simp [flash, Map.getD, Map.get?]
  | cons b l ih =>
    intro a k
    have n := ih (a + 1) k
    by_cases hb : b = 0#8
    · rcases Nat.lt_trichotomy k a with h | h | h
      · rw [flash, if_pos hb, n, if_pos (by omega), if_pos h]
      · subst h
        rw [flash, if_pos hb, n, if_pos (by omega), if_neg (by omega), Nat.sub_self, hb]
        rfl
      · rw [flash, if_pos hb, n, if_neg (by omega), if_neg (by omega), show k - a = (k - (a + 1)) + 1 by omega]
        rfl
    · rw [flash, if_neg hb, Map.getD, Map.get?]
      rcases Nat.lt_trichotomy k a with h | h | h
      · rw [if_neg (by omega), if_pos h]
        exact n.trans (if_pos (by omega))
      · subst h
        rw [if_pos rfl, if_neg (by omega), Nat.sub_self]
        rfl
      · rw [if_neg (by omega), if_neg (by omega), show k - a = (k - (a + 1)) + 1 by omega]
        exact n.trans (if_neg (by omega))

theorem flash_bytes (l : List Byte) (n : Nat) (hl : l.length ≤ n) (hn : n ≤ 16384) :
    norBytes (norWrite 16384 [0] (recovering l).c) 0 n = l ++ List.replicate (n - l.length) 0 := by
  apply List.ext_getElem
  · simp [norBytes]; omega
  · intro k h _
    have hk : k < n := by simpa [norBytes] using h
    have e : Map.getD 0 (norWrite 16384 [0] (recovering l).c).upd.nor (0 + k) = l.getD k 0 := by
      show Map.getD 0 (Map.setD 0 (flash 0 l) (16384 + 0) 0) (0 + k) = _
      rw [Map.getD_setD, if_neg (by omega), flash_read]
      simp
    simp only [norBytes, List.getElem_map, List.getElem_range, e, List.getElem_append, List.getElem_replicate]
    split <;> simp_all

def recMsg (k len : Nat) (data : List Byte) : List Byte := leBytes 4 k ++ leBytes 4 len ++ data

theorem empty_digest : sha3_256 [] = emptyDigest := by decide +kernel

theorem can_images (c : Ctl) : (List.range 7).all (fun i => let x := canImage (canHead ++ List.replicate (5715 - canHead.length) 0) i
    sha3_256 (norBytes c (0 + x.2.1) x.2.2.1) == x.2.2.2.1) = true := by
  have im : ∀ i ∈ List.range 7, (canImage (canHead ++ List.replicate (5715 - canHead.length) 0) i).2.2.1 = 0 ∧
      (canImage (canHead ++ List.replicate (5715 - canHead.length) 0) i).2.2.2.1 = emptyDigest := by decide +kernel
  rw [List.all_eq_true]
  intro i hi
  simp only [im i hi, norBytes, List.range_zero, List.map_nil, empty_digest, beq_self_eq_true]

theorem can_sound : canCode (norWrite 16384 [0] (recovering canHead).c) 0 true = 0 := by
  unfold canCode
  simp only [flash_bytes canHead 5715 (by decide +kernel) (by decide), can_images]
  decide +kernel

/-- The Ethernet link is up; updates over it are on or off. -/
def linked (en : Nat) : State := tray (fun c => wr Reg.ETH_STATUS_LINK 3 (wr Reg.UPD_ETH_EN en c))

set_option maxRecDepth 20000 in
theorem witness_chunks (h : Obligations.SplicesActivateAndRecover) :
    let p := Via.port aReq
    let x := sha3_256 [1, 2, 3, 4]
    let four := item 2 0 [1, 2, 3, 4]
    Runs (.dataChunk p []) (tray id) ∧ Runs (.dataChunk p four) (tray id) ∧ Runs (.dataChunk p (item 2 1 [])) (aChunk 1 [] 0) ∧
    Runs (.dataChunk p four) (aChunk 1 [] 0) ∧ Runs (.dataChunk p four) (aChunk 2 [] 1) ∧ Runs (.dataChunk p (item 2 0 [1])) (aChunk 2 [] 0) ∧
    Runs (.dataChunk p four) (hasty (aChunk 2 x 0)) ∧ Runs (.dataChunk p four) (aChunk 2 [] 0) ∧ Runs (.dataChunk p four) (aChunk 2 x 0) ∧
    Runs (.dataChunk (.eth aPeer) []) (linked 1) ∧ Runs (.dataChunk (.eth aPeer) []) (linked 0) ∧ Runs (.dataChunk (.eth { aPeer with ipv4 := true }) []) (tray (wr Reg.ETH_CTRL_IPV4_EN 0)) := by
  intro p x four
  have H := fun s bs => h s aReq bs true true 0 default
  have v1 : servable 0x44 aReq (aChunk 1 [] 0).c = true := by decide +kernel
  have v2 : servable 0x44 aReq (aChunk 2 [] 0).c = true := by decide +kernel
  have v3 : servable 0x44 aReq (aChunk 2 x 0).c = true := by decide +kernel
  have D : sha3_256 [1, 2, 3, 4] ≠ [] := by decide +kernel
  exact ⟨runs_of (((H (tray id) []).2.2.2.2.2.2.2.1 (by decide)).1 (by decide +kernel)), runs_of (((H (tray id) four).2.2.2.2.2.2.2.2.1 (by decide) rfl).1 (by decide +kernel)),
    runs_of ((((H (aChunk 1 [] 0) (item 2 1 [])).2.2.2.2.2.2.2.2.2.1 _ (by decide) rfl).1 rfl).1 v1),
    runs_of (((((H (aChunk 1 [] 0) four).2.2.2.2.2.2.2.2.2.1 _ (by decide) rfl).2 1 0 [] rfl).1 (by decide)).1 v1),
    (by refine runs_of (((((H (aChunk 2 [] 1) four).2.2.2.2.2.2.2.2.2.1 _ ?_ rfl).2 2 0 [] rfl).2.1 rfl ?_).1 ?_) <;> decide +kernel),
    (by refine runs_of ((((((H (aChunk 2 [] 0) (item 2 0 [1])).2.2.2.2.2.2.2.2.2.1 _ ?_ rfl).2 2 0 [] rfl).2.2 rfl ?_).1 ?_).1 v2) <;> decide),
    (by refine runs_of ((((((H (hasty (aChunk 2 x 0)) four).2.2.2.2.2.2.2.2.2.1 _ ?_ rfl).2 2 0 x rfl).2.2 rfl ?_).2.1 rfl ?_).1 ?_) <;> decide +kernel),
    (by refine runs_of ((((((H (aChunk 2 [] 0) four).2.2.2.2.2.2.2.2.2.1 _ ?_ rfl).2 2 0 [] rfl).2.2 rfl ?_).2.2.1 rfl ?_ D).1 v2) <;> decide +kernel),
    (by refine runs_of ((((((H (aChunk 2 x 0) four).2.2.2.2.2.2.2.2.2.1 _ ?_ rfl).2 2 0 x rfl).2.2 rfl ?_).2.2.2 rfl ?_ rfl).1 v3) <;> decide +kernel),
    (by refine runs_of ((((H (linked 1) []).2.2.2.2.2.2.2.1 ?_).2 aPeer).1 ?_ ?_ ?_) <;> decide +kernel), (by refine runs_of ((((H (linked 0) []).2.2.2.2.2.2.2.1 ?_).2 aPeer).2.1 ?_ ?_) <;> decide +kernel),
    runs_of ((((H (tray (wr Reg.ETH_CTRL_IPV4_EN 0)) []).2.2.2.2.2.2.2.1 (by decide)).2 { aPeer with ipv4 := true }).2.2 (by decide +kernel))⟩

/-- Slot A is ready and the module facility-locked. -/
def slotReady : State := tray (fun c => wr Reg.TC_STATE_LOCK 3 (wr Reg.UPD_STATUS_STATE_A 2 c))

theorem witness_activation (h : Obligations.SplicesActivateAndRecover) :
    Runs (.activateAt aReq []) (tray id) ∧ Runs (.activateAt aReq (leBytes 16 3)) (tray id) ∧ Runs (.activateAt aReq (leBytes 16 0x201)) (tray id) ∧
    Runs (.activateAt aReq (leBytes 16 1)) (tray id) ∧ Runs (.activateAt aReq (leBytes 8 1 ++ leBytes 8 (2 ^ 32))) slotReady ∧
    Runs (.activateCancel aReq (leBytes 16 2)) (tray id) ∧ Runs (.healthWindowEnd default) State.reset := by
  have H := fun s bs => ((h s aReq bs true true 0 default).2.2.2.2.2.2.2.2.2.2).2.2.2.1
  have v : servable 0x45 aReq (tray id).c = true := by decide +kernel
  exact ⟨runs_of ((H (tray id) [] (.activateAt aReq []) List.mem_cons_self v).1 (by decide)), (by refine runs_of ((H (tray id) (leBytes 16 3) (.activateAt aReq (leBytes 16 3)) List.mem_cons_self v).2.1 ?_ ?_ ?_) <;> decide),
    (by refine runs_of ((H (tray id) (leBytes 16 0x201) (.activateAt aReq (leBytes 16 0x201)) List.mem_cons_self v).2.2.1 ?_ ?_ ?_) <;> decide),
    (by refine runs_of ((H (tray id) (leBytes 16 1) (.activateAt aReq (leBytes 16 1)) List.mem_cons_self v).2.2.2.1 ?_ ?_ ?_ ?_) <;> decide +kernel),
    (by refine runs_of ((H slotReady (leBytes 8 1 ++ leBytes 8 (2 ^ 32)) (.activateAt aReq (leBytes 8 1 ++ leBytes 8 (2 ^ 32))) List.mem_cons_self ?_).2.2.2.2.1 ?_ ?_ ?_ ?_) <;> decide +kernel),
    runs_of ((H (tray id) (leBytes 16 2) (.activateCancel aReq (leBytes 16 2)) (List.mem_cons_of_mem _ List.mem_cons_self) v).2.2.2.2.2 (by decide) (by decide)),
    runs_of ((((h State.reset aReq [] true true 0 default).2.2.2.2.2.2.2.2.2.2).2.2.2.2.1 (by decide +kernel) (by decide +kernel)).2)⟩

/-- Activation is armed for the time 5. -/
def activating : State :=
  tray (fun c => wr (Reg.TC_CUE_CTRL_ACTION 44) 4 (wr (Reg.TC_CUE_TIME_LO 44) 5 (wr (Reg.TC_CUE_CTRL_ARM 44) 1 (wr Reg.AD_STATUS_ACTIVATION_HOLD 1 c))))

/-- A slot was activated at 0. -/
def onTrial : State := tray (fun c => wr Reg.UPD_STATUS_TRIAL 1 (onUpd (fun u => { u with healthAt := some 0 }) c))

theorem witness_health (h : Obligations.SplicesActivateAndRecover) :
    Runs (.acceptanceTake true) (onCtl (wr Reg.UPD_HEALTH_TAKE_WRAPPED 1) onTrial) ∧ Runs (.acceptanceTake true) onTrial ∧ Runs (.healthWindowEnd default) onTrial ∧
    Runs (.activateFirmwareSlot default) (tray id) ∧ Runs (.activateFirmwareSlot default) activating := by
  have H := fun s => h s aReq [] true true 0 default
  exact ⟨runs_of (((H (onCtl (wr Reg.UPD_HEALTH_TAKE_WRAPPED 1) onTrial)).2.2.2.2.2.2.2.2.2.2).2.2.2.2.2.1 (by decide +kernel) (by decide +kernel)), (by refine runs_of (((H onTrial).2.2.2.2.2.2.2.2.2.2).2.2.2.2.2.2.1 0 rfl ?_ ?_ ?_ ?_) <;> decide +kernel),
    (by refine runs_of ((((H onTrial).2.2.2.2.2.2.2.2.2.2).2.2.2.2.2.2.2.1 ?_).1 0 rfl ?_ ?_) <;> decide +kernel), runs_of ((((H (tray id)).2.2.2.2.2.2.2.2.2.2).2.2.2.2.2.2.2.1 (by decide)).2.1 (by decide +kernel)),
    (by refine runs_of ((((H activating).2.2.2.2.2.2.2.2.2.2).2.2.2.2.2.2.2.1 ?_).2.2 ?_ ?_ ?_ ?_ ?_) <;> decide +kernel)⟩

theorem witness_recovery (h : Obligations.SplicesActivateAndRecover) :
    Runs (.recovery aReq [] true) (tray id) ∧ Runs (.recovery aReq [] true) (recovering []) ∧ Runs (.recovery aReq (recMsg 2 16385 []) true) (recovering []) ∧
    Runs (.recovery aReq (recMsg 1 16385 []) true) (recovering []) ∧ Runs (.recovery aReq (recMsg 1 16386 [0, 0]) true) (recovering []) ∧
    Runs (.recovery aReq (recMsg 1 16385 [0]) true) (recovering []) ∧ Runs (.recovery aReq (recMsg 1 16385 [0]) true) (recovering canHead) := by
  have H := fun s bs => ((h s aReq bs true true 0 default).2.2.2.2.2.2.2.2.2.2).2.2.2.2.2.2.2.2
  have v : servable 0x46 aReq (recovering []).c = true := by decide +kernel
  exact ⟨runs_of ((H (tray id) [] (by decide +kernel)).1 (by decide)), runs_of ((H (recovering []) [] v).2.1 (by decide) (by decide)), (by refine runs_of ((H (recovering []) (recMsg 2 16385 []) v).2.2.1 ?_ ?_ ?_) <;> decide),
    (by refine runs_of ((H (recovering []) (recMsg 1 16385 []) v).2.2.2.1 ?_ ?_ ?_ ?_) <;> decide),
    runs_of ((H (recovering []) (recMsg 1 16386 [0, 0]) v).2.2.2.2.1 (by decide) (by decide +kernel)),
    (by refine runs_of ((H (recovering []) (recMsg 1 16385 [0]) v).2.2.2.2.2.1 ?_ ?_ ?_) <;> decide +kernel),
    (by refine runs_of ((H (recovering canHead) (recMsg 1 16385 [0]) ?_).2.2.2.2.2.2 ?_ ?_ can_sound ?_) <;> decide +kernel)⟩

/-- The tray's session with something of it changed; the request of a sender. -/
def seated (f : Session → Session) : State := tray (onMgt (fun m => { m with sessions := [f aSession] }))

theorem witness_requests (h : Obligations.RequestsAreAdmittedOnce) :
    Runs (.bye aReq []) (onCtl (fun c => { c with pwr := { c.pwr with mg := 2 } }) State.reset) ∧ Runs (.bye aReq []) State.reset ∧
    Runs (.bye { aReq with sid := 9 } []) (tray id) ∧ Runs (.bye { aReq with verified := false } []) (tray id) ∧
    Runs (.bye { aReq with seq := 0 } []) (tray id) ∧ Runs (.bye aReq []) (seated (fun x => { x with answers := [(1, [])] })) ∧
    Runs (.bye aReq []) (seated (fun x => { x with lastNum := 1 })) ∧ Runs (.bye aReq []) (seated (fun x => { x with inSecond := 2000 })) ∧
    Runs (.sensorGet aReq []) (onCtl (wr Reg.SEC_STATUS_RECOVERY 1) (tray id)) ∧ Runs (.inventoryGet aReq []) (seated (fun x => { x with opened := false })) := by
  have H := fun s r => (h s r [] aContent true true).1 (0x03, .bye r []) (.head _)
  have R := (h (onCtl (wr Reg.SEC_STATUS_RECOVERY 1) (tray id)) aReq [] aContent true true).1 (0x11, .sensorGet aReq []) (.tail _ (.tail _ (.tail _ (.head _))))
  exact ⟨runs_of ((H _ aReq).1 rfl), runs_of ((H State.reset aReq).2.1 rfl (by decide)), runs_of ((H (tray id) { aReq with sid := 9 }).2.2.1 ⟨rfl, (by decide)⟩ (fun _ he => nomatch he)),
    runs_of (((H (tray id) { aReq with verified := false }).2.2.2 aSession ⟨rfl, (by decide)⟩ rfl rfl).1 rfl),
    runs_of (((H (tray id) { aReq with seq := 0 }).2.2.2 aSession ⟨rfl, (by decide)⟩ rfl rfl).2.1 rfl (by decide)),
    runs_of ((((H (seated (fun x => { x with answers := [(1, [])] })) aReq).2.2.2 _ ⟨rfl, (by decide)⟩ rfl rfl).2.2 rfl (by decide) rfl).1 _ rfl),
    (by refine runs_of (((((H (seated (fun x => { x with lastNum := 1 })) aReq).2.2.2 _ ⟨rfl, ?_⟩ rfl rfl).2.2 rfl ?_ rfl).2 rfl).1 ?_) <;> decide),
    (by refine runs_of (((((H (seated (fun x => { x with inSecond := 2000 })) aReq).2.2.2 _ ⟨rfl, ?_⟩ rfl rfl).2.2 rfl ?_ rfl).2 rfl).2.1 ?_ ?_ ?_) <;> decide),
    (by refine runs_of ((((R.2.2.2 aSession ⟨rfl, ?_⟩ rfl rfl).2.2 rfl ?_ rfl).2 rfl).2.2 ?_ ?_ ?_ ?_) <;> decide),
    (by refine runs_of ((h (seated (fun x => { x with opened := false })) aReq [] aContent true true).2 _ ⟨rfl, ?_⟩ rfl rfl rfl rfl ?_ ?_ ?_) <;> decide)⟩

/-- The tray with a healthy random generator. -/
def awake : State := tray (wr Reg.SEC_TRNG_HEALTHY 1)

theorem witness_sessions (h : Obligations.TrayMessagesAndTokenAct) :
    let off : State := onCtl (fun c => { c with pwr := { c.pwr with mg := 2 } }) State.reset
    Runs (.hello 1 []) off ∧ Runs (.key 1 []) State.reset ∧ Runs (.hello 1 []) (tray id) ∧ Runs (.hello 1 (leBytes 32 0)) (tray id) ∧
    Runs (.hello 1 (leBytes 32 0)) awake ∧ Runs (.key 1 []) (tray id) ∧ Runs (.keyTimeout 1) (tray id) ∧
    Runs (.keyTimeout 1) (seated (fun x => { x with keyed := false })) ∧ Runs (.bye aReq [0]) (tray id) ∧ Runs (.bye aReq []) (tray id) ∧
    Runs (.traySecret aReq []) (tray id) ∧ Runs (.traySecret aReq (leBytes 32 7)) (tray id) := by
  intro off
  have H := fun s bs => h s aReq bs 1 1 0
  exact ⟨runs_of ((H off []).1 rfl).1, runs_of ((H State.reset []).2.1 rfl (by decide) (by decide)).2, runs_of ((H (tray id) []).2.2.1 ⟨rfl, (by decide)⟩ (by decide)),
    runs_of ((H (tray id) (leBytes 32 0)).2.2.2.1 ⟨rfl, (by decide)⟩ rfl (.inr (by decide))), (by refine runs_of ((H awake (leBytes 32 0)).2.2.2.2.1 ⟨rfl, ?_⟩ rfl ?_ ?_ ?_) <;> decide),
    runs_of ((H (tray id) []).2.2.2.2.2.1 ⟨rfl, (by decide)⟩), runs_of (((H (tray id) []).2.2.2.2.2.2.1).1 (fun _ he => by cases he; decide) (by decide +kernel)),
    runs_of (((H (seated (fun x => { x with keyed := false })) []).2.2.2.2.2.2.1).2 _ rfl rfl (by decide +kernel)), runs_of ((H (tray id) [0]).2.2.2.2.2.2.2.2.2.1 (by decide) (by decide +kernel)),
    runs_of (((H (tray id) []).2.2.2.2.2.2.2.2.2.2).1 aSession rfl (by decide +kernel) rfl),
    runs_of (((H (tray id) []).2.2.2.2.2.2.2.2.2.2).2.1 (by decide) (by decide +kernel)), runs_of (((H (tray id) (leBytes 32 7)).2.2.2.2.2.2.2.2.2.2).2.2.1 rfl (by decide +kernel))⟩

theorem witness_tray (h : Obligations.TrayMessagesAndTokenAct) :
    let one : List Byte := leBytes 8 0xF000000FFFC ++ leBytes 2 1
    Runs (.stateGet aReq [0]) (tray id) ∧ Runs (.stateGet aReq []) (tray id) ∧ Runs (.regRead aReq (leBytes 8 0 ++ [65, 0])) (tray id) ∧
    Runs (.regRead aReq one) (tray id) ∧ Runs (.regWrite aReq one) (tray id) ∧ Runs (.regWrite aReq (one ++ leBytes 4 5)) (tray id) ∧
    Runs (.regWrite aReq (leBytes 8 0xF000D00001C ++ leBytes 2 1 ++ leBytes 4 5)) (tray id) ∧ Runs (.sliceAssign aReq [0, 0, 7]) (tray id) ∧
    Runs (.sliceAssign aReq [0, 0, 0]) (onCtl (wr Reg.FAB_SLICE_SLICE 1) (tray id)) ∧ Runs (.sliceAssign aReq [255, 15, 23]) (tray id) := by
  intro one
  have H := fun s bs => h s aReq bs 1 0 0
  exact ⟨runs_of ((((H (tray id) [0]).2.2.2.2.2.2.2.2.2.2).2.2.2.1 (by decide)).2.2 (by decide +kernel)),
    runs_of ((((H (tray id) []).2.2.2.2.2.2.2.2.2.2).2.2.2.2.1 rfl).2.2 (by decide +kernel)), runs_of (((H (tray id) (leBytes 8 0 ++ [65, 0])).2.2.2.2.2.2.2.2.2.2).2.2.2.2.2.1 (.inr (.inr (by decide))) (by decide +kernel)),
    (by refine runs_of (((H (tray id) one).2.2.2.2.2.2.2.2.2.2).2.2.2.2.2.2.1 0xF000000FFFC ⟨rfl, ?_, ?_⟩ ?_) <;> decide +kernel), runs_of (((H (tray id) one).2.2.2.2.2.2.2.2.2.2).2.2.2.2.2.2.2.1 (.inr (.inr (by decide))) (by decide +kernel)),
    (by refine runs_of (((H (tray id) (one ++ leBytes 4 5)).2.2.2.2.2.2.2.2.2.2).2.2.2.2.2.2.2.2.1 0xF000000FFFC ⟨rfl, ?_, ?_⟩ ?_ ?_) <;> decide +kernel),
    (by refine runs_of (((H (tray id) (leBytes 8 0xF000D00001C ++ leBytes 2 1 ++ leBytes 4 5)).2.2.2.2.2.2.2.2.2.2).2.2.2.2.2.2.2.2.2.1 ⟨rfl, ?_, ?_⟩ ?_) <;> decide +kernel),
    runs_of ((((H (tray id) [0, 0, 7]).2.2.2.2.2.2.2.2.2.2).2.2.2.2.2.2.2.2.2.2).2.2.2.2.1 (by decide) (by decide +kernel)), (by refine runs_of ((((H _ [0, 0, 0]).2.2.2.2.2.2.2.2.2.2).2.2.2.2.2.2.2.2.2.2).2.2.2.2.2.1 ⟨rfl, ?_, ?_⟩ ?_ ?_) <;> decide +kernel),
    (by refine runs_of ((((H (tray id) [255, 15, 23]).2.2.2.2.2.2.2.2.2.2).2.2.2.2.2.2.2.2.2.2).2.2.2.2.2.2.1 ⟨rfl, ?_, ?_⟩ ?_ ?_) <;> decide +kernel)⟩

theorem witness_lapses (h : Obligations.TrayMessagesAndTokenAct) :
    let lapsed := onCtl (wr Reg.MGT_CAP_LEASE_LAPSED 1) (tray id)
    let kept := onCtl (wr Reg.MGT_CAP_LEASE_LAPSED 0) (tray id)
    let held := onCtl (wr Reg.MGT_STATUS_FIRST_OK 1) (tray id)
    Runs (.lease aReq [0]) lapsed ∧ Runs (.lease aReq []) lapsed ∧ Runs .capLeaseLapse lapsed ∧ Runs .capLeaseLapse kept ∧ Runs .leaseRenewal State.reset ∧
    Runs .leaseRenewal held ∧ Runs .unitLeaseExpiry State.reset ∧ Runs .unitLeaseExpiry (tray id) := by
  intro lapsed kept held
  have H := fun s bs => h s aReq bs 1 0 0
  have q : lapsed.c.quiet = true ∧ waiting lapsed.c = [] ∧ lapsed.c.gaf.shutdown = false := ⟨by decide, by decide, rfl⟩
  have r : kept.c.quiet = true ∧ waiting kept.c = [] ∧ kept.c.gaf.shutdown = false := ⟨by decide, by decide, rfl⟩
  exact ⟨runs_of ((((H lapsed [0]).2.2.2.2.2.2.2.2.2.2).2.2.2.2.2.2.2.2.2.2).1 q (by decide) (by decide +kernel)), runs_of ((((H lapsed []).2.2.2.2.2.2.2.2.2.2).2.2.2.2.2.2.2.2.2.2).2.1 q rfl (by decide +kernel)), runs_of ((((H lapsed []).2.2.2.2.2.2.2.2.2.2).2.2.2.2.2.2.2.2.2.2).2.2.1 q (by decide +kernel) (by decide +kernel)),
    runs_of ((((H kept []).2.2.2.2.2.2.2.2.2.2).2.2.2.2.2.2.2.2.2.2).2.2.2.1 r (by decide +kernel) (by decide +kernel)), runs_of ((((H State.reset []).2.2.2.2.2.2.2.2.2.2).2.2.2.2.2.2.2.2.2.2).2.2.2.2.2.2.2.1 (by decide +kernel) (by decide +kernel)), (by refine runs_of ((((H held []).2.2.2.2.2.2.2.2.2.2).2.2.2.2.2.2.2.2.2.2).2.2.2.2.2.2.2.2.1 ?_ ?_ ?_) <;> decide +kernel),
    runs_of ((((H State.reset []).2.2.2.2.2.2.2.2.2.2).2.2.2.2.2.2.2.2.2.2).2.2.2.2.2.2.2.2.2.1 (by decide +kernel) (by decide +kernel)), runs_of (((((H (tray id) []).2.2.2.2.2.2.2.2.2.2).2.2.2.2.2.2.2.2.2.2).2.2.2.2.2.2.2.2.2.2).1 (by decide +kernel) (by decide +kernel))⟩

/-! ### The whole block -/

/-- A queue of two commands; a management request that waits, and a unit that holds the token. -/
def queued : State := { State.reset with pending := [.replan, .sAlu true 0 0] }

def buffered : State := tray (onMgt (fun m => { m with waiting := [(.bye aReq [], 44)] }))

theorem witness_step (h : Obligations.StepRunsTheFrontCommand) :
    step queued = exec .replan { queued with pending := [.sAlu true 0 0] } ∧ step State.reset = .next (fetchTiles (fireDue (onCtl (passTime 1) State.reset))) ∧
    ∀ t, exec (.bye aReq []) (onCtl (onMgt (fun m => { m with waiting := [], serving := true })) buffered) = .next t →
      step buffered = .next (onCtl (onMgt (fun m => { m with serving := false })) t) :=
  ⟨h.1 queued .replan _ rfl, ((h.2 State.reset rfl).1 (.inl rfl)).1, (h.2 buffered rfl).2 _ 44 [] rfl (by decide)⟩

theorem witness_invariant (h : Obligations.EveryStepKeepsMemoryAndJournalSound) : ∃ t, step queued = .next t ∧ t.sound = true ∧ journalOk t.c = true :=
  h queued (by decide) (by decide)

/-! ### One ill-formed command for each check of WellFormed -/

theorem test_wf_mgmt_too_long : (Instr.bye aReq (List.replicate 20481 0)).wf = false := by
  simp only [Instr.wf, mgmtBytesOk, List.length_replicate]
  decide

theorem test_wf_frame_too_long : (Instr.submit aPeer (List.replicate 9217 0)).wf = false := by
  simp only [Instr.wf, frameBytesOk, List.length_replicate]
  decide

theorem test_wf_packet_too_short : (Instr.data 0 (List.replicate 39 0)).wf = false := by decide

theorem test_wf_tile_past_191 : (Instr.repairExecute [192]).wf = false := by decide

theorem test_wf_boot_names_no_die : (Instr.powerOn { (default : Boot) with badC := [8] }).wf = false := by decide

theorem test_wf_boot_names_no_slot : (Instr.powerOn { (default : Boot) with badImages := [2] }).wf = false := by decide

theorem test_wf_sample_of_three_rails : (Instr.toneUpdate { aPower with amps := [1, 2, 3] } 0).wf = false := by decide

theorem test_wf_record_without_rows : (Instr.recordLoad aReq [] aContent true).wf = false := by decide

theorem test_wf_reading_of_one_sensor : (Instr.sensorRead 0 [0] 0).wf = false := by decide

theorem test_wf_join_of_no_slot : (Instr.join aColl 9 0 256 0 0).wf = false := by decide

theorem test_wf_cue_wait_in_no_queue : (Instr.cueWaitRelease 0 0).wf = false := by decide

theorem test_wf_a_replan : Instr.replan.wf = true := rfl

/-! ### The spec's worked examples -/

/-- The state a command answers. -/
def after (i : Instr) (s : State) : State :=
  match exec i s with
  | .next t => t
  | _ => s

/-- The words of the worked example of 04_birbuac_core.md; a tile's instruction word below its opcode. -/
def word (w : Nat) : BitVec 56 := BitVec.ofNat 56 w

theorem test_add_immediate : sReg (tileAt (after (.sAlu true 0 (word 0x0202800000000060)) State.reset).c 0) 5 = 96 := by decide +kernel

theorem test_add_minus_one :
    sReg (tileAt (after (.sAlu true 0 (word 0x02029400FFFFFFFF)) (tile0 (fun t => { t with s := [(5, 96)] }))).c 0) 5 = 95 := by decide +kernel

theorem test_branch_back : (tileAt (after (.bCond 0 (word 0x18028080FFFFFFFF)) (tile0 (fun t => { t with pc := 0x10, s := [(5, 1)] }))).c 0).pc = 8 := by
  decide +kernel

theorem test_wait_takes_one : qReg (tileAt (after (.semWait 0 (word 0x28011A0000000001)) (tile0 (fun t => { t with q := [(3, 4)] }))).c 0) 3 = 3 := by
  decide +kernel

theorem test_guard_fails :
    sReg (tileAt (after (.sAlu true 0 (word 0x0252800000000060)) (tile0 (fun t => { t with p := [(2, 1)] }))).c 0) 5 = 0 := by decide +kernel

/-- The header of R306's example, from its fields to its 32 bytes and back. -/
def examplePkt : Pkt := ⟨0x13C, 0x2A7, 0x5B, 0, 1, 64, false, true, false, false, 0x5E000123, 0x410, 7, 0xC3, 0x010040000000, 0, []⟩

theorem test_packet_header : (pktBytes examplePkt).take 32 =
    [0x3C, 0x01, 0xA7, 0x02, 0x5B, 0x00, 0x01, 0x28, 0x23, 0x01, 0x00, 0x5E, 0x10, 0x04, 0x00, 0x00, 0x07, 0x00, 0xC3, 0x00, 0x00, 0x00, 0x00, 0x40,
     0x00, 0x01, 0x00, 0x00, 0x00, 0x00, 0x00, 0x00] := by decide +kernel

/-- The inputs of the KF4 example of 06_narrow_arithmetic.md, in units of 10^-7. -/
def kf4Inputs : List FVal :=
  let v := fun (n : Int) => f32 (f32Div (intToF32 (BitVec.ofInt 32 n)) (intToF32 10000000))
  (List.range 128).map (fun k => match k with
    | 0 => v (-1400000) | 1 => v 1900000 | 5 => v 7500000 | 16 => v 3000000 | 32 => v 2000000 | 33 => v (-2000000) | 112 => v 10 | 113 => v 4 | _ => .zero)

theorem test_kf4_block :
    let b := kf4Block (blockStat 0x10 kf4Inputs) none kf4Inputs
    let bytes := packCodes 4 b.codes ++ b.entry
    (List.range 72).filter (fun k => bytes.getD k 0 != 0) = [0, 2, 8, 16, 56, 64, 65, 66, 67, 68, 69] ∧
    [0, 2, 8, 16, 56, 64, 65, 66, 67, 68, 69].map (fun k => bytes.getD k 0) = [0x3A, 0x70, 0x06, 0xF7, 0x01, 0x10, 0xF2, 0xFF, 0xFF, 0x7C, 0x02] ∧
    (b.counts.sat, b.counts.flush, b.counts.clamp) = (0, 1, 1) := by decide +kernel

/-- Byte 0 of the KT2 example is 0xA7 and the scale 0x2C00: elements +1, 0, −1, −1, +1 times 2^-4. -/
theorem test_kt2_byte :
    (List.range 5).map (fun i => (readElem (fun a => if a = 0 then 0xA7 else if a = 33 then 0x2C else 0) (desc 0 0x11 160 1 0) i 0).value) =
    [.fin false 1024 (-14), .fin false 0 (-14), .fin true 1024 (-14), .fin true 1024 (-14), .fin false 1024 (-14)] := by decide +kernel

/-- 1.3 rounds stochastically up to 1.5 in E2M1 for the draw 0x7000. -/
theorem test_stochastic : (e2m1.conv (.stoch 0x7000) 0 (f32 (f32Div (intToF32 13) (intToF32 10)))).code = 3 := by decide +kernel

/-- The address of 07_memory.md's example: channel 17, home unit 10 of 40, set 15,408, trackers of M-die 2. -/
theorem test_address :
    channelOf (wr Reg.MEM_STATUS_DEV_IN_SERVICE 4095 State.reset.c) 0x012345678A00 = 17 ∧
    homeOf 40 (lineOf 0x012345678A00) = (10, 15408) ∧ mdieOfTile (24 * 5 + 16) = 2 := by decide +kernel

/-- The takes A, B and C of the example under R93, and D; slot 105.3 is 2^14 × 105 + 4,915 tu. -/
def scheduled (at_ : Nat) (l : List (Nat × Take)) : Ctl :=
  onAd (fun a => { a with takes := l }) (setTc at_ (wr Reg.AD_FLOOR_CLOCK_F 1020 State.reset.c))

def planned (deadline budget reel : Nat) : Take := { plainTake with deadline := deadline * 2 ^ 14, budget := budget, reel := reel }

def takeA : Take := { planned (2 ^ 40) 400 1 with st := .started, reservedEnd := 137 * 2 ^ 14 }

theorem test_schedule :
    ((planNow (scheduled 1725235 [(1, takeA), (2, planned 240 700 2), (3, planned 190 300 3)]) false).1.map (fun e => (e.1, e.2.1 / 2 ^ 14, e.2.2.1 / 2 ^ 14)) =
      [(3, 137, 165), (2, 165, 230)]) ∧
    planFits (scheduled 1725235 [(1, takeA), (2, planned 240 700 2), (3, planned 190 300 3)])
      [planItem (scheduled 0 []) 4 (planned 180 200 4)] = false ∧
    ((planNow (scheduled 1989018 [(2, planned 240 700 2), (3, planned 190 300 3)]) false).1.map (fun e => (e.1, e.2.1 / 2 ^ 14, e.2.2.1 / 2 ^ 14)) =
      [(3, 123, 151), (2, 151, 216)]) := by decide +kernel

/-- The link of the example under R59. -/
theorem test_time_exchange :
    let t := after (.timeExchange 0 1000000 1003500 1010000 1007100 true) (from0 (wr Reg.TC_CTRL_WILEF_EN 1))
    (rd t.c (Reg.TC_LINK_OFFSET 0), rd t.c (Reg.TC_LINK_DELAY 0)) = (3200, 300) := by decide +kernel

/-- The timecode of the example under R53: frame 4 of its second, slot 141. -/
theorem test_timecode : frameOf 0x6A1B2C4001234567 % 1024 = 4 ∧ 0x6A1B2C4001234567 / 2 ^ 14 % 256 = 141 := by decide

/-- The barrier of 11_power_and_load_slope.md: tone 870 W and 805 W, T from 1,440 W to 1,377.5 W, the cap lag under R424. -/
def barrier (t128 : Nat) : Ctl :=
  wr Reg.GAF_CS_ACTIVE_BAND 20 (wr Reg.GAF_P_CTL_P_CTL 560 (wr Reg.PWR_STATUS_STAGE 10 (wr Reg.GAF_LEVEL_E 1000 (onGaf (fun g => { g with t128 := t128 }) State.reset.c))))

theorem test_barrier :
    toneNeed (barrier (1440 * 128)) = 870 ∧ toneNeed (barrier 176320) = 805 ∧ stepLevel (1440 * 128) 8000 8000 (1152 * 128) 1500 = 176320 ∧
    lagFrames (barrier (1480 * 128)) = 8 := by decide +kernel

/-- The clock switch of 12_clocks_droop_thermal.md reserves 4 slots; the manifest of 15_security_and_update.md has 299,667 bytes. -/
theorem test_switch_and_manifest : switchSlots 1500 1200 = 4 ∧ manifestLen (leBytes 96 0 ++ leBytes 32 6144) = some 299667 := by decide +kernel

/-- A group's signature is taken over the 24 bytes of the example of 09_collectives.md. -/
theorem test_signature : sigOf { Group.free with gid := 0x2B17 } 9 2 0 0 1 0 1048576 =
    leAt (sha3_256 [0x17, 0x2B, 0, 0, 9, 0, 0, 0, 0, 0, 0, 0, 2, 1, 0, 0, 0, 0, 0x10, 0, 0, 0, 0, 0]) 0 8 := by decide +kernel

/-- A step on an empty queue lets one tu pass; a queue is first in, first out. -/
theorem test_tick : (match step State.reset with | .next t => now t.c | _ => 0) = 1 := by decide +kernel

theorem test_no_word_spells_a_command : decodeTableWord 64 0x0202800000000060 = none ∧ State.reset.withFetchWord 64 5 = State.reset := ⟨rfl, rfl⟩

end Sys2Proof.Tests
end

section
/-! PROOFS. The ending of a take: what it records, and that nothing which follows from endings replaces it (R98). -/

namespace Sys2Proof.Machine

/-! ### The outcome in the journal -/

/-- What an ending records of a take: its state, reason, tile and details (R100, R105). -/
def Take.outcome (t : Take) : TakeState × Nat × Nat × Nat × Nat := (t.st, t.reason, t.tile, t.detA, t.detB)

/-- The outcome the journal holds for a slot. -/
def outcomeAt (c : Ctl) (k : Nat) : Option (TakeState × Nat × Nat × Nat × Nat) := (takeAt c k).map Take.outcome

/-- Every tile is quiet, whatever is left to settle. -/
def Ctl.calm (c : Ctl) : Prop := ∀ e ∈ c.tiles, e.2.quiet = true

theorem Ctl.calm_of_quiet {c : Ctl} (h : c.quiet = true) : c.calm := Ctl.quiet_tile h

/-- A step that keeps the journal in order, every outcome in it as it was, and quiet tiles quiet. -/
structure KeepsOutcomes (c d : Ctl) : Prop where
  journal : journalOk c = true → journalOk d = true
  outcome : ∀ k, outcomeAt d k = outcomeAt c k
  calm : c.calm → d.calm

theorem KeepsOutcomes.trans {a b c : Ctl} (h : KeepsOutcomes a b) (h' : KeepsOutcomes b c) : KeepsOutcomes a c :=
  ⟨fun j => h'.journal (h.journal j), fun k => (h'.outcome k).trans (h.outcome k), fun j => h'.calm (h.calm j)⟩

/-- A step that touches neither the journal's takes nor the tiles. -/
theorem KeepsOutcomes.of_eq {c d : Ctl} (ha : d.ad.takes = c.ad.takes) (ht : d.tiles = c.tiles) : KeepsOutcomes c d :=
  ⟨fun j => by rw [journalOk, ha]; exact j, fun k => by rw [outcomeAt, outcomeAt, takeAt, takeAt, ha], fun j => by rw [Ctl.calm, ht]; exact j⟩

theorem KeepsOutcomes.refl (c : Ctl) : KeepsOutcomes c c := .of_eq rfl rfl

theorem RegsOnly.keepsOutcomes {c d : Ctl} (h : RegsOnly c d) : KeepsOutcomes c d := .of_eq (by rw [h.ad]) h.tiles

theorem keepsOutcomes_when (b : Bool) (f : Ctl → Ctl) (c : Ctl) (h : KeepsOutcomes c (f c)) : KeepsOutcomes c (when b f c) := by
  cases b
  · exact .refl c
  · exact h

theorem outcomeAt_setTake (j k : Nat) (t : Take) (c : Ctl) : outcomeAt (setTake j t c) k = if k = j then some t.outcome else outcomeAt c k := by
  simp only [outcomeAt, takeAt, setTake, Map.get?_put]
  split <;> rfl

theorem journalOk_setTake (k : Nat) (t : Take) (c : Ctl) (h : journalOk c = true) : journalOk (setTake k t c) = true :=
  Map.above_put _ 0 k t h (Nat.zero_le k)

/-- A take is put back with the outcome it had. -/
theorem keepsOutcomes_setTake {k : Nat} {t u : Take} {c : Ctl} (h : takeAt c k = some t) (hu : u.outcome = t.outcome) :
    KeepsOutcomes c (setTake k u c) := by
  refine ⟨journalOk_setTake k u c, fun j => ?_, fun hc => hc⟩
  rw [outcomeAt_setTake]
  split
  · rename_i hj; rw [hj, outcomeAt, h, hu]; rfl
  · rfl

/-! ### One ending -/

theorem keepsOutcomes_journalWrite (k : Nat) (c : Ctl) : KeepsOutcomes c (journalWrite k c) := by
  unfold journalWrite
  split
  · exact .refl c
  · have counted := fun n => (((regsOnly_wr Reg.CJ_WRITES_LO_COUNT n c).trans (regsOnly_wr Reg.CJ_WRITES_HI_COUNT (n / 2 ^ 32) _)).trans
      (regsOnly_modCount 52 1 _)).keepsOutcomes
    dsimp only
    split
    · exact counted _
    · rename_i t ht
      exact (counted _).trans (keepsOutcomes_setTake ht rfl)

theorem keepsOutcomes_noteMember (p idx : Nat) (t : Take) (c : Ctl) : KeepsOutcomes c (noteMember p idx t c) := by
  unfold noteMember
  split
  · exact .refl c
  · rename_i x hx
    exact keepsOutcomes_setTake hx rfl

theorem freeTile_quiet (slice : Nat) (t : Tile) : (freeTile slice t).quiet = true := rfl

theorem keepsOutcomes_freeTiles (k : Nat) (c : Ctl) : KeepsOutcomes c (freeTiles k c) := by
  refine ⟨fun h => h, fun _ => rfl, fun h e he => ?_⟩
  obtain ⟨x, hx, rfl⟩ := List.mem_map.mp he
  split
  · exact freeTile_quiet _ _
  · exact h x hx

theorem keepsOutcomes_accountTake (t : Take) (c : Ctl) : KeepsOutcomes c (accountTake t c) := by
  unfold accountTake
  dsimp only
  split <;> exact .of_eq rfl rfl

theorem keepsOutcomes_dueCut (t : Take) (reason : Nat) (c : Ctl) : KeepsOutcomes c (dueCut t reason c) := by
  unfold dueCut
  split
  · split <;> exact .of_eq rfl rfl
  · exact .refl c

theorem memberFields_outcome (now : Nat) (t : Take) : (memberFields now t).outcome = t.outcome := rfl

/-- One take of the journal gets an outcome; every other outcome stays, and quiet tiles stay quiet. -/
structure Ends (k : Nat) (o : TakeState × Nat × Nat × Nat × Nat) (c d : Ctl) : Prop where
  journal : journalOk c = true → journalOk d = true
  outcome : ∀ j, outcomeAt d j = if j = k then some o else outcomeAt c j
  calm : c.calm → d.calm

theorem ends_setTake (k : Nat) (t : Take) (c : Ctl) : Ends k t.outcome c (setTake k t c) :=
  ⟨journalOk_setTake k t c, fun j => outcomeAt_setTake k j t c, fun h => h⟩

theorem KeepsOutcomes.ends {k : Nat} {o : TakeState × Nat × Nat × Nat × Nat} {a b c : Ctl} (h' : KeepsOutcomes b c) (h : Ends k o a b) :
    Ends k o a c :=
  ⟨fun j => h'.journal (h.journal j), fun j => (h'.outcome j).trans (h.outcome j), fun j => h'.calm (h.calm j)⟩

theorem Ends.after {k : Nat} {o : TakeState × Nat × Nat × Nat × Nat} {a b c : Ctl} (h' : Ends k o b c) (h : KeepsOutcomes a b) : Ends k o a c :=
  ⟨fun j => h'.journal (h.journal j), fun j => by rw [h'.outcome, h.outcome], fun j => h'.calm (h.calm j)⟩

theorem keepsOutcomes_drawn (b : Bool) (w : BitVec 64) (c : Ctl) : KeepsOutcomes c (if b then fresh c else (w, c)).2 := by
  cases b <;> exact .of_eq rfl rfl

theorem keepsOutcomes_counts {α : Type} (l : List α) (f : α → Ctl → Ctl) (c : Ctl) (h : ∀ a c, RegsOnly c (f a c)) :
    KeepsOutcomes c (forEach l f c) :=
  (regsOnly_forEach l f c h).keepsOutcomes

/-- What an NG adds to the counts, and the cut it calls for. -/
theorem keepsOutcomes_countNg (t : Take) (top : Bool) (reason : Nat) (c : Ctl) :
    KeepsOutcomes c (when (t.leaf || !t.membersDone) (dueCut t reason)
      (when top (fun c => modCount (ngCounter reason) 1 (modCount 3 1 (bump Reg.AD_NGS_COUNT 1 c))) c)) := by
  have counted : RegsOnly c (modCount (ngCounter reason) 1 (modCount 3 1 (bump Reg.AD_NGS_COUNT 1 c))) :=
    (regsOnly_bump _ 1 c).trans ((regsOnly_modCount 3 1 _).trans (regsOnly_modCount _ 1 _))
  exact (keepsOutcomes_when top _ c counted.keepsOutcomes).trans (keepsOutcomes_when _ _ _ (keepsOutcomes_dueCut t reason _))

theorem keepsOutcomes_tellModule (kind dst : Nat) (bytes : List Byte) (c : Ctl) : KeepsOutcomes c (tellModule kind dst bytes c) := .of_eq rfl rfl

/-- The one outcome of a take that has none is what the ending says; beyond that an ending keeps every outcome (R98, R100). -/
theorem endOne_ends {k : Nat} {t : Take} {c : Ctl} (reason tile detA detB : Nat) (h : takeAt c k = some t) (hs : t.st ≠ .ended) :
    Ends k (.ended, reason, tile, detA, detB) c (endOne k reason tile detA detB c) := by
  rw [endOne, h]
  dsimp -zeta only
  rw [if_neg (by simpa using hs)]
  extract_lets started t1 t2 written accounted tiles counted grouped freed ad due top ng classed trial reel
  have hdrawn := (keepsOutcomes_drawn started 0 c).trans (keepsOutcomes_drawn (started && t.cycles == 0) (BitVec.ofNat 64 t.cycles) _)
  have ht2 : t2.outcome = (.ended, reason, tile, detA, detB) := by
    show Take.outcome (if t.leaf then t1 else memberFields _ t1) = _
    split
    · rfl
    · exact memberFields_outcome _ t1
  generalize (TakeState.ended, reason, tile, detA, detB) = o at ht2 ⊢
  subst ht2
  have hwritten : Ends k t2.outcome c written := (keepsOutcomes_journalWrite k _).ends ((ends_setTake k t2 _).after hdrawn)
  have haccounted : Ends k t2.outcome c accounted := (keepsOutcomes_when _ _ _ (keepsOutcomes_accountTake _ _)).ends hwritten
  have hcounted : Ends k t2.outcome c counted := (keepsOutcomes_counts _ _ _ fun _ _ => regsOnly_tileCount _ _ _ _).ends haccounted
  have hgrouped : Ends k t2.outcome c grouped :=
    (keepsOutcomes_when _ _ _ (keepsOutcomes_counts _ _ _ fun _ _ => regsOnly_modCount _ _ _)).ends hcounted
  have hfreed : Ends k t2.outcome c freed := (keepsOutcomes_freeTiles k _).ends hgrouped
  have hdue : Ends k t2.outcome c due := (show KeepsOutcomes freed due from .of_eq rfl rfl).ends hfreed
  have hng : Ends k t2.outcome c ng := (keepsOutcomes_when _ _ _ (keepsOutcomes_countNg t top reason _)).ends hdue
  have hclassed : Ends k t2.outcome c classed := (keepsOutcomes_when _ _ _ (regsOnly_bump _ _ _).keepsOutcomes).ends hng
  have htrial : Ends k t2.outcome c trial := (keepsOutcomes_when _ _ _ (regsOnly_wr _ _ _).keepsOutcomes).ends hclassed
  have hreel : Ends k t2.outcome c reel := (keepsOutcomes_when _ _ _ (.of_eq rfl rfl)).ends htrial
  split
  · exact (keepsOutcomes_noteMember _ _ _ _).ends hreel
  · split
    · exact (keepsOutcomes_tellModule _ _ _ _).ends hreel
    · exact hreel

/-- An ending finds the slot free or its take ended, and does nothing; or it ends the take. -/
theorem endOne_cases (k reason tile detA detB : Nat) (c : Ctl) :
    ((∀ t, takeAt c k = some t → t.st = .ended) ∧ endOne k reason tile detA detB c = c) ∨
    ((∃ t, takeAt c k = some t ∧ t.st ≠ .ended) ∧ Ends k (.ended, reason, tile, detA, detB) c (endOne k reason tile detA detB c)) := by
  cases hk : takeAt c k with
  | none => exact .inl ⟨by simp, by rw [endOne, hk]⟩
  | some t =>
    by_cases hs : t.st = .ended
    · exact .inl ⟨by simpa using hs, by simp [endOne, hk, hs]⟩
    · exact .inr ⟨⟨t, rfl, hs⟩, endOne_ends reason tile detA detB hk hs⟩

/-! ### Loops -/

theorem forEach_keeps {α : Type} {motive : Ctl → Prop} (l : List α) (f : α → Ctl → Ctl) (c : Ctl) (hc : motive c)
    (h : ∀ a ∈ l, ∀ d, motive d → motive (f a d)) : motive (forEach l f c) :=
  List.foldlRecOn l _ hc fun d hd a ha => h a ha d hd

/-- What one ending keeps, ending a take with its copies keeps. -/
theorem endDeep_keeps {P : Ctl → Prop} {reason tile detA detB : Nat} (h : ∀ k c, P c → P (endOne k reason tile detA detB c)) (fuel k : Nat)
    (c : Ctl) (hc : P c) : P (endDeep fuel k reason tile detA detB c) := by
  induction fuel generalizing k c with
  | zero => exact h k c hc
  | succ fuel ih =>
    simp only [endDeep]
    split
    · exact hc
    · split
      · exact hc
      · exact h k _ (forEach_keeps _ _ _ hc fun j _ d hd => ih j d hd)

/-! ### A recorded outcome stays -/

/-- The journal is in order and the take has ended with this reason, tile and details. -/
def Recorded (k : Nat) (o : Nat × Nat × Nat × Nat) (c : Ctl) : Prop := journalOk c = true ∧ outcomeAt c k = some (.ended, o)

/-- The journal is in order and the take, where it has ended, has ended with this reason, tile and details. -/
def RecordedOrOpen (k : Nat) (o : Nat × Nat × Nat × Nat) (c : Ctl) : Prop :=
  journalOk c = true ∧ ∃ q, outcomeAt c k = some q ∧ (q.1 = .ended → q.2 = o)

theorem endOne_keeps_recorded (k j : Nat) (o : Nat × Nat × Nat × Nat) (reason tile detA detB : Nat) (c : Ctl) (h : Recorded k o c) :
    Recorded k o (endOne j reason tile detA detB c) := by
  obtain ⟨hj, ho⟩ := h
  rcases endOne_cases j reason tile detA detB c with ⟨_, he⟩ | ⟨⟨t, ht, hs⟩, he⟩
  · rw [he]; exact ⟨hj, ho⟩
  · have hkj : k ≠ j := by
      rintro rfl
      rw [outcomeAt, ht, Option.map_some, Option.some.injEq] at ho
      exact hs (congrArg Prod.fst ho)
    exact ⟨he.journal hj, by rw [he.outcome, if_neg hkj]; exact ho⟩

theorem endTake_keeps_recorded (k j : Nat) (o : Nat × Nat × Nat × Nat) (reason tile detA detB : Nat) (c : Ctl) (h : Recorded k o c) :
    Recorded k o (endTake j reason tile detA detB c) :=
  endDeep_keeps (fun j c => endOne_keeps_recorded k j o reason tile detA detB c) _ j c h

theorem endOne_keeps_recordedOrOpen (k j reason tile detA detB : Nat) (c : Ctl) (h : RecordedOrOpen k (reason, tile, detA, detB) c) :
    RecordedOrOpen k (reason, tile, detA, detB) (endOne j reason tile detA detB c) := by
  obtain ⟨hj, q, hq, ho⟩ := h
  rcases endOne_cases j reason tile detA detB c with ⟨_, he⟩ | ⟨_, he⟩
  · rw [he]; exact ⟨hj, q, hq, ho⟩
  · refine ⟨he.journal hj, ?_⟩
    rw [he.outcome]
    split
    · exact ⟨_, rfl, fun _ => rfl⟩
    · exact ⟨q, hq, ho⟩

/-- An ending records its outcome where it meets the take open, or ended alike. -/
theorem endOne_recorded (k reason tile detA detB : Nat) (c : Ctl) (h : RecordedOrOpen k (reason, tile, detA, detB) c) :
    Recorded k (reason, tile, detA, detB) (endOne k reason tile detA detB c) := by
  obtain ⟨hj, q, hq, ho⟩ := h
  rcases endOne_cases k reason tile detA detB c with ⟨hs, he⟩ | ⟨_, he⟩
  · obtain ⟨t, ht, rfl⟩ := Option.map_eq_some_iff.mp hq
    rw [he]
    exact ⟨hj, hq.trans (congrArg some (Prod.ext (hs t ht) (ho (hs t ht))))⟩
  · exact ⟨he.journal hj, by rw [he.outcome, if_pos rfl]⟩

/-- Ending an open take, with the copies of it here, records the outcome for it. -/
theorem endTake_recorded (k reason tile detA detB : Nat) (t : Take) (c : Ctl) (hj : journalOk c = true) (h : takeAt c k = some t)
    (hs : t.st ≠ .ended) : Recorded k (reason, tile, detA, detB) (endTake k reason tile detA detB c) := by
  have hopen : RecordedOrOpen k (reason, tile, detA, detB) c := ⟨hj, t.outcome, by rw [outcomeAt, h]; rfl, fun he => absurd he hs⟩
  unfold endTake depth
  simp only [endDeep, h]
  rw [if_neg (by simpa using hs)]
  exact endOne_recorded _ _ _ _ _ _ (forEach_keeps _ _ _ hopen fun j _ d hd =>
    endDeep_keeps (fun i e => endOne_keeps_recordedOrOpen k i reason tile detA detB e) _ j d hd)

theorem endTake_calm (k reason tile detA detB : Nat) (c : Ctl) (h : c.calm) : (endTake k reason tile detA detB c).calm := by
  refine endDeep_keeps (fun j d hd => ?_) _ k c h
  rcases endOne_cases j reason tile detA detB d with ⟨_, he⟩ | ⟨_, he⟩
  · rwa [he]
  · exact he.calm hd

theorem Recorded.of_takes {k : Nat} {o : Nat × Nat × Nat × Nat} {c d : Ctl} (h : Recorded k o c) (ht : d.ad.takes = c.ad.takes) : Recorded k o d := by
  rwa [Recorded, journalOk, outcomeAt, takeAt, ht]

theorem Recorded.setTake {k : Nat} {o : Nat × Nat × Nat × Nat} {c : Ctl} (h : Recorded k o c) (j : Nat) (t : Take)
    (ht : j = k → t.outcome = (.ended, o)) : Recorded k o (setTake j t c) := by
  refine ⟨journalOk_setTake j t c h.1, ?_⟩
  rw [outcomeAt_setTake]
  split
  · rename_i hk; rw [ht hk.symm]
  · exact h.2

theorem Map.get?_of_mem {α : Type} {m : List (Nat × α)} {b : Nat} (h : Map.above b m = true) {e : Nat × α} (he : e ∈ m) :
    Map.get? m e.1 = some e.2 := by
  induction m generalizing b with
  | nil => cases he
  | cons x m ih =>
    obtain ⟨k, v⟩ := x
    rw [Map.above, Bool.and_eq_true] at h
    rcases List.mem_cons.mp he with rfl | hm
    · simp [Map.get?]
    · have hne : k ≠ e.1 := by
        rintro rfl
        have := Map.get?_above m (e.1 + 1) e.1 h.2 (Nat.lt_succ_self _)
        rw [ih h.2 hm] at this
        cases this
      rw [Map.get?, if_neg hne, ih h.2 hm]

/-- The journal's entry of the take shows the recorded outcome. -/
theorem Recorded.of_mem {k : Nat} {o : Nat × Nat × Nat × Nat} {c : Ctl} (h : Recorded k o c) {e : Nat × Take} (he : e ∈ c.ad.takes)
    (hk : e.1 = k) : e.2.outcome = (.ended, o) := by
  have := h.2
  rwa [← hk, outcomeAt, takeAt, Map.get?_of_mem h.1 he, Option.map_some, Option.some.injEq] at this

/-! ### Settling keeps a recorded outcome (R98) -/

section
variable {k : Nat} {o : Nat × Nat × Nat × Nat} {c : Ctl}

theorem haltReels_keeps_recorded (h : Recorded k o c) : Recorded k o (haltReels c) := by
  refine forEach_keeps _ _ _ h fun e _ d hd => ?_
  split
  · split
    · split
      · exact endTake_keeps_recorded _ _ _ _ _ _ _ _ hd
      · exact hd
    · exact hd
  · exact hd

theorem closeComposite_keeps_recorded (j : Nat) (h : Recorded k o c) : Recorded k o (closeComposite j c) := by
  unfold closeComposite
  split
  · exact h
  · split
    · exact h
    · split <;> exact endTake_keeps_recorded _ _ _ _ _ _ _ _ h

theorem settleLoop_keeps_recorded (fuel : Nat) (h : Recorded k o c) : Recorded k o (settleLoop fuel c) := by
  induction fuel generalizing c with
  | zero => exact h
  | succ fuel ih =>
    refine ih (haltReels_keeps_recorded (forEach_keeps _ _ _ h fun e _ d hd => ?_))
    split
    · exact hd
    · exact closeComposite_keeps_recorded _ hd

theorem endHolds_keeps_recorded (h : Recorded k o c) : Recorded k o (endHolds c) := by
  refine forEach_keeps _ _ _ h fun e he d hd => ?_
  dsimp only
  split
  · exact hd
  · split
    · exact hd
    · have hset := hd.setTake e.1 (memberFields (now c) { e.2 with holdFrame := none, members := e.2.members.map (fun m =>
          if m.kind = 0 then { m with kind := 2, reason := 0x0403, endTc := now c, detB := m.module } else m) }) (h.of_mem he)
      split
      · exact hset.of_takes rfl
      · exact hset

theorem adopt_keeps_recorded (earlier : Bool) (p : List PlanEntry) (h : Recorded k o c) : Recorded k o (adopt earlier p c) := by
  refine forEach_keeps _ _ _ h fun e _ d hd => ?_
  dsimp only
  split
  · exact hd
  · rename_i t ht
    refine iteInduction (fun _ => hd) fun _ => iteInduction (fun _ => hd) fun _ => hd.setTake _ _ fun hk => ?_
    have := hd.2
    rwa [← hk, outcomeAt, ht, Option.map_some, Option.some.injEq] at this

theorem replan_keeps_recorded (earlier : Bool) (h : Recorded k o c) : Recorded k o (replan earlier c) := by
  refine adopt_keeps_recorded earlier _ (forEach_keeps _ _ _ h fun e he d hd => ?_)
  dsimp only
  split
  · exact hd.setTake _ _ (h.of_mem (List.mem_filter.mp he).1)
  · exact hd


/-! ### Outcomes sent on the reels -/

theorem sendFrames_ad (prio n : Nat) (g : Guarding) (m : Out) (c : Ctl) : (sendFrames prio n g m c).ad = c.ad := by
  have hput : (putFrames n m c).ad = c.ad := by simp [putFrames, bump]
  unfold sendFrames
  exact iteInduction (motive := fun d : Ctl => d.ad = c.ad) (fun _ => rfl) fun _ => iteInduction (motive := fun d : Ctl => d.ad = c.ad)
    (fun _ => rfl) fun _ => iteInduction (motive := fun d : Ctl => d.ad = c.ad) (fun _ => rfl) fun _ => hput

theorem setReel_takes (r : Nat) (x : Reel) (c : Ctl) : (setReel r x c).ad.takes = c.ad.takes := rfl

theorem sendReel_takes (r type items : Nat) (payload : List Byte) (c : Ctl) : (sendReel r type items payload c).ad.takes = c.ad.takes := by
  unfold sendReel
  dsimp only
  rw [modCount_ad]
  split <;> rw [setReel_takes, sendFrames_ad]

theorem mem_insertTake {e x : Nat × Take} {l : List (Nat × Take)} (h : x ∈ insertTake e l) : x = e ∨ x ∈ l := by
  induction l with
  | nil => simpa [insertTake] using h
  | cons y l ih =>
    rw [insertTake] at h
    split at h
    · simpa using h
    · rcases List.mem_cons.mp h with rfl | h
      · simp
      · rcases ih h with rfl | h <;> simp [*]

/-- The takes of a reel stand in the journal. -/
theorem mem_reelTakes {r : Nat} {e : Nat × Take} (h : e ∈ reelTakes c r) : e ∈ c.ad.takes := by
  have key : ∀ l : List (Nat × Take), e ∈ l.foldr insertTake [] → e ∈ l := by
    intro l
    induction l with
    | nil => exact id
    | cons x l ih =>
      intro h
      rcases mem_insertTake h with rfl | h
      · simp
      · exact List.mem_cons_of_mem _ (ih h)
  exact (List.mem_filter.mp (key _ h)).1

theorem releaseReel_keeps_recorded (r : Nat) (h : Recorded k o c) : Recorded k o (releaseReel r c) := by
  refine forEach_keeps _ _ _ h fun e he d hd => iteInduction (fun _ => ?_) fun _ => hd
  have hset := hd.setTake e.1 { e.2 with released := true } (h.of_mem (mem_reelTakes he))
  exact iteInduction (fun _ => hset.of_takes (sendReel_takes _ _ _ _ _)) fun _ => hset

theorem countReel_takes (r : Nat) (c : Ctl) : (countReel r c).ad.takes = c.ad.takes := rfl

theorem freeReel_keeps_recorded (r : Nat) (h : Recorded k o c) : Recorded k o (freeReel r c) :=
  iteInduction (fun _ => (forEach_keeps _ _ _ h fun f _ d hd => hd.of_takes (congrArg AdSt.takes (wr_ad f 0 d))).of_takes (setReel_takes _ _ _))
    fun _ => h

theorem countOutstanding_takes (c : Ctl) : (countOutstanding c).ad.takes = c.ad.takes := rfl

theorem settle_keeps_recorded (h : Recorded k o c) : Recorded k o (settle c) := by
  unfold settle
  refine iteInduction (fun _ => h) fun _ => ?_
  extract_lets looped ad planned replanned reels
  have hlooped : Recorded k o looped := settleLoop_keeps_recorded _ h
  have hplanned : Recorded k o planned := hlooped.of_takes rfl
  have hreplanned : Recorded k o replanned := replan_keeps_recorded true (endHolds_keeps_recorded hplanned)
  refine (forEach_keeps _ _ _ hreplanned fun r _ d hd => ?_).of_takes (countOutstanding_takes _)
  exact freeReel_keeps_recorded r ((releaseReel_keeps_recorded r hd).of_takes (countReel_takes _ _))

end

/-! ### Sending leaves the AD as it is -/

theorem countF_ad (f i n : Nat) (c : Ctl) : (countF f i n c).ad = c.ad := modCount_ad _ _ _

theorem outOn_ad (q : Nat) (m : Nat → Out) (phys : Nat) (c : Ctl) : (outOn q m phys c).ad = c.ad := countF_ad _ _ _ _

theorem portFor_ad (avoid : Option Nat) (c : Ctl) : (portFor avoid c).2.ad = c.ad := by
  unfold portFor
  split <;> rfl

theorem putOnPort_ad (avoid : Option Nat) (m : Nat → Out) (phys : Nat) (c : Ctl) : (putOnPort avoid m phys c).2.ad = c.ad := by
  have h := portFor_ad avoid c
  unfold putOnPort
  split
  · rename_i hp; rw [hp] at h; exact h
  · rename_i hp; rw [hp] at h; exact (outOn_ad _ _ _ _).trans h

theorem sendEverywhere_ad (typ phys id : Nat) (payload : List Byte) (c : Ctl) : (sendEverywhere typ phys id payload c).ad = c.ad := by
  unfold sendEverywhere
  refine iteInduction (motive := fun d : Ctl => d.ad = c.ad) (fun _ => rfl) fun _ => ?_
  exact forEach_keeps (motive := fun d => d.ad = c.ad) _ _ c rfl fun q _ d hd => (countF_ad _ _ _ _).trans hd

theorem transmitCut_ad (step reason reel num kind : Nat) (c : Ctl) : (transmitCut step reason reel num kind c).ad = c.ad := by
  unfold transmitCut
  exact forEach_keeps (motive := fun d => d.ad = c.ad) _ _ _ rfl fun q _ d hd =>
    (countF_ad _ _ _ _).trans ((sendEverywhere_ad _ _ _ _ _).trans hd)

theorem queueBy_ad (send : SrcPkt → State → SrcPkt × State) (phys cls : Nat) (x : SrcPkt) (s : State)
    (h : ∀ y t, (send y t).2.c.ad = t.c.ad) : (queueBy send phys cls x s).c.ad = s.c.ad :=
  iteInduction (motive := fun t : State => t.c.ad = s.c.ad) (fun _ => h _ s) fun _ => rfl

theorem queuePkt_ad (phys cls : Nat) (x : SrcPkt) (s : State) : (queuePkt phys cls x s).c.ad = s.c.ad :=
  queueBy_ad _ _ _ _ _ fun _ _ => putOnPort_ad _ _ _ _

theorem sendColl_ad (slot dst kind gid seq a b : Nat) (bytes : List Byte) (s : State) : (sendColl slot dst kind gid seq a b bytes s).c.ad = s.c.ad :=
  iteInduction (motive := fun t : State => t.c.ad = s.c.ad) (fun _ => queuePkt_ad _ _ _ _) fun _ => rfl

theorem sendMembers_ad (slot : Nat) (g : Group) (l : List Nat) (kind seq a b : Nat) (bytes : List Byte) (s : State) :
    (sendMembers slot g l kind seq a b bytes s).c.ad = s.c.ad :=
  List.foldlRecOn (motive := fun t : State => t.c.ad = s.c.ad) l _ rfl fun _ ht _ _ =>
    iteInduction (motive := fun u : State => u.c.ad = s.c.ad) (fun _ => ht) fun _ => (sendColl_ad _ _ _ _ _ _ _ _ _).trans ht

theorem sendReady_ad (q : Option Nat) (place : Nat) (s : State) : (sendReady q place s).c.ad = s.c.ad := by
  unfold sendReady
  split
  · rfl
  · refine queueBy_ad _ _ _ _ _ fun y t => ?_
    cases q with
    | none => rfl
    | some q => exact outOn_ad _ _ _ _

theorem takeTurn_ad (q : Nat) (slots : List (Nat × Nat)) (c : Ctl) : (takeTurn q slots c).2.ad = c.ad := by
  unfold takeTurn
  dsimp only
  split <;> rfl

theorem flushLoop_ad (n : Nat) (s : State) : (flushLoop n s).c.ad = s.c.ad := by
  induction n generalizing s with
  | zero => rfl
  | succ n ih =>
    rw [flushLoop]
    split
    · rfl
    · rename_i e l _
      have hport := portFor_ad none s.c
      split
      · rename_i hp
        rw [hp] at hport
        rw [ih, sendReady_ad]
        exact hport
      · rename_i q c hp
        rw [hp] at hport
        have hturn := (takeTurn_ad q (e :: l) c).trans hport
        split
        · rename_i ht
          rw [ht] at hturn
          rw [ih, sendReady_ad]
          exact hturn
        · rename_i ht
          rw [ht] at hturn
          exact hturn

theorem sendCtl_ad (kind dst : Nat) (bytes : List Byte) (s : State) : (sendCtl kind dst bytes s).c.ad = s.c.ad := by
  unfold sendCtl
  refine iteInduction (motive := fun t : State => t.c.ad = s.c.ad) (fun _ => rfl) fun _ =>
    iteInduction (motive := fun t : State => t.c.ad = s.c.ad) (fun _ => rfl) fun _ => ?_
  exact List.foldlRecOn (motive := fun t : State => t.c.ad = s.c.ad) _ _ rfl fun t ht x _ => (queuePkt_ad _ _ _ _).trans ht

theorem flushCtl_takes (s : State) : (flushCtl s).c.ad.takes = s.c.ad.takes :=
  iteInduction (motive := fun t : State => t.c.ad.takes = s.c.ad.takes) (fun _ => rfl) fun _ =>
    List.foldlRecOn (motive := fun t : State => t.c.ad.takes = s.c.ad.takes) _ _ rfl fun _ ht _ _ =>
      (congrArg AdSt.takes (sendCtl_ad _ _ _ _)).trans ht

/-! ### Everything that follows from endings keeps a recorded outcome -/

section
variable {k : Nat} {o : Nat × Nat × Nat × Nat}

theorem endTakes_keeps_recorded (p : Nat → Take → Bool) (reason : Nat) (det : Take → Nat × Nat) {c : Ctl} (h : Recorded k o c) :
    Recorded k o (endTakes p reason det c) :=
  forEach_keeps _ _ _ h fun _ _ _ hd => iteInduction (fun _ => endTake_keeps_recorded _ _ _ _ _ _ _ _ hd) fun _ => hd

theorem breakGroup_keeps_recorded (slot code member : Nat) (nga : Nat × Nat × Nat) {c : Ctl} (h : Recorded k o c) :
    Recorded k o (breakGroup slot code member nga c) := by
  unfold breakGroup
  refine iteInduction (fun _ => h) fun _ => ?_
  exact forEach_keeps _ _ _ (h.of_takes rfl) fun op _ d hd => endTake_keeps_recorded _ _ _ _ _ _ _ _ hd

theorem applyCut_keeps_recorded (step tc origin : Nat) {c : Ctl} (h : Recorded k o c) : Recorded k o (applyCut step tc origin c) :=
  forEach_keeps _ _ _ (endTakes_keeps_recorded _ _ _ (h.of_takes rfl)) fun _ _ _ hd =>
    iteInduction (fun _ => breakGroup_keeps_recorded _ _ _ _ hd) fun _ => hd

theorem originateCut_keeps_recorded (step reason reel num kind : Nat) {c : Ctl} (h : Recorded k o c) :
    Recorded k o (originateCut step reason reel num kind c) :=
  iteInduction (fun _ => h.of_takes rfl) fun _ =>
    applyCut_keeps_recorded _ _ _ (h.of_takes (congrArg AdSt.takes (transmitCut_ad step reason reel num kind c)))

theorem originateCuts_keeps_recorded {c : Ctl} (h : Recorded k o c) : Recorded k o (originateCuts c) :=
  forEach_keeps _ _ _ (h.of_takes rfl) fun _ _ _ hd => originateCut_keeps_recorded _ _ _ _ _ hd

theorem failGroup_keeps_recorded (slot code : Nat) (nga : Nat × Nat × Nat) (detail : Nat) {s : State} (h : Recorded k o s.c) :
    Recorded k o (failGroup slot code nga detail s).c := by
  unfold failGroup
  refine iteInduction (motive := fun t : State => Recorded k o t.c) (fun _ => h) fun _ => ?_
  exact breakGroup_keeps_recorded _ _ _ _ (h.of_takes (congrArg AdSt.takes (sendMembers_ad _ _ _ _ _ _ _ _ _)))

theorem failEnded_keeps_recorded {s : State} (h : Recorded k o s.c) : Recorded k o (failEnded s).c := by
  refine List.foldlRecOn (motive := fun t : State => Recorded k o t.c) _ _ h fun t ht e _ => ?_
  split
  · exact ht
  · exact failGroup_keeps_recorded _ _ _ _ ht

theorem settleRounds_keeps_recorded (n : Nat) {s : State} (h : Recorded k o s.c) : Recorded k o (settleRounds n s).c := by
  induction n generalizing s with
  | zero => exact settle_keeps_recorded h
  | succ n ih =>
    exact iteInduction (motive := fun t : State => Recorded k o t.c)
      (fun _ => ih (failEnded_keeps_recorded (originateCuts_keeps_recorded (settle_keeps_recorded h)))) fun _ => h

theorem settleAll_keeps_recorded {s : State} (h : Recorded k o s.c) : Recorded k o (settleAll s).c :=
  (settleRounds_keeps_recorded 6 h).of_takes ((flushCtl_takes _).trans (congrArg AdSt.takes (flushLoop_ad _ _)))

end

theorem Recorded.endedAs {k reason tile detA detB : Nat} {s : State} (h : Recorded k (reason, tile, detA, detB) s.c) :
    endedAs k reason tile detA detB s := by
  obtain ⟨x, hx, ho⟩ := Option.map_eq_some_iff.mp h.2
  simp only [Take.outcome, Prod.mk.injEq] at ho
  exact ⟨x, hx, ho⟩

/-! ### Calm tiles have nothing to drain -/

/-- The same tiles with nothing left to settle or to send. -/
def Ctl.hushed (c : Ctl) : Ctl := { c with ad := { c.ad with replanDue := false, ctlDue := [] }, fab := { c.fab with ready := [] } }

theorem Ctl.quiet_hushed {c : Ctl} (h : c.calm) : c.hushed.quiet = true := c.hushed.quiet_iff.mpr ⟨rfl, rfl, rfl, h⟩

theorem headOf_calm {c : Ctl} (h : c.calm) (i u : Nat) : headOf c i u = none := by
  have hushed := headOf_quiet (Ctl.quiet_hushed h) i u
  exact hushed

theorem drain_calm (s : State) (h : s.c.calm) : drain s = s := by
  have hone : drainOne s = none := by simp [drainOne, headOf_calm h]
  have hclap : (s.c.tiles.filter fun e => e.2.clap.isSome && !e.2.arrived && clapDone s.c e.1) = [] := by
    rw [List.filter_eq_nil_iff]
    intro e he
    simp [Tile.quiet_clap (h e he)]
  rw [drain, drainLoop, hone]
  simp only [arrivals, hclap, List.map_nil, List.foldl_nil]

/-! ### An NG of a tile's take -/

theorem takeOn_eq_some {c : Ctl} {i k : Nat} {x : Take} (h : takeOn c i = some (k, x)) : (tileAt c i).take = some k ∧ takeAt c k = some x := by
  unfold takeOn at h
  split at h
  · cases h
  · rename_i j hj
    obtain ⟨y, hy, he⟩ := Option.map_eq_some_iff.mp h
    cases he
    exact ⟨hj, hy⟩

/-- A fault on a tile that runs a take marks it in the tile's registers and ends the take. -/
theorem ngOn_c {i k : Nat} {s : State} (code pc detA detB : Nat) (h : (tileAt s.c i).take = some k) :
    ∃ d, RegsOnly s.c d ∧ (ngOn i code pc detA detB s).c = endTake k code i detA detB d := by
  dsimp only [ngOn, onCtl_c]
  split
  · rename_i hn
    cases h.symm.trans hn
  · rename_i j hj
    cases h.symm.trans hj
    refine ⟨_, ?_, rfl⟩
    refine RegsOnly.trans (RegsOnly.trans (RegsOnly.trans ?_ (regsOnly_tileCount i 65 1 _)) (regsOnly_when _ _ _ (regsOnly_raise _ _)))
      (regsOnly_when _ _ _ (regsOnly_raise _ _))
    exact (((regsOnly_wr _ pc s.c).trans (regsOnly_wr _ 1 _)).trans (regsOnly_wr _ code _)).trans (regsOnly_raise _ _)

/-- A fault on a tile ends the started take there, with its reason and details, and no settling replaces them (R98, R105, R142). -/
theorem ngOn_endedAs {i k : Nat} {x : Take} {s : State} (code pc detA detB : Nat) (hc : s.c.calm) (hj : journalOk s.c = true)
    (ht : takeOn s.c i = some (k, x)) (hx : x.st = .started) :
    endedAs k code i detA detB (settleAll (drain (ngOn i code pc detA detB s))) := by
  obtain ⟨htake, hk⟩ := takeOn_eq_some ht
  obtain ⟨d, hd, he⟩ := ngOn_c code pc detA detB htake
  have hrec : Recorded k (code, i, detA, detB) (ngOn i code pc detA detB s).c := by
    rw [he]
    exact endTake_recorded k code i detA detB x d (by rwa [journalOk, hd.ad]) (by rwa [takeAt, hd.ad]) (by rw [hx]; decide)
  have hcalm : (ngOn i code pc detA detB s).c.calm := by
    rw [he]
    exact endTake_calm k code i detA detB d (by rwa [Ctl.calm, hd.tiles])
  rw [drain_calm _ hcalm]
  exact (settleAll_keeps_recorded hrec).endedAs

end Sys2Proof.Machine
end

section
/-! PROOFS. Scalar arithmetic, branches, end and predicates (R143 to R148), on a tile of a quiet state. -/

namespace Sys2Proof.Machine

/-! ### An instruction whose reserved fields are not zero (R142) -/

/-- Issue where the tile can issue and a reserved field, function or condition is not allotted. -/
theorem issue_reserved (i : Nat) (w : BitVec 64) (unit : Nat) (f : OpForm) (run : State → State) (s : State) (hq : s.c.quiet = true)
    (hi : canIssue s.c i w = true) (hr : f.rsvOk = false) : issue i w unit f run s = ngAt i 0x0203 (tileAt s.c i).pc w.toNat s := by
  simp only [canIssue, Bool.and_eq_true, Bool.not_eq_true', Bool.or_eq_true, beq_iff_eq] at hi
  obtain ⟨⟨⟨⟨hreset, hended⟩, hleads⟩, htext⟩, -⟩ := hi
  have hgang : ((tileAt s.c i).width != 0 && (tileAt s.c i).leader != i) = false := by
    rcases hleads with h | h <;> simp [h]
  simp only [issue, hreset, hended, not_issueHeld hq, hgang, htext, hr, Bool.or_false, Bool.false_eq_true, if_false, Bool.not_true,
    Bool.not_false, if_true]

theorem tileStep_reserved {i k : Nat} {x : Take} {s : State} (w : BitVec 64) (unit : Nat) (f : OpForm) (run : State → State)
    (hq : s.c.quiet = true) (hj : journalOk s.c = true) (ht : takeOn s.c i = some (k, x)) (hx : x.st = .started)
    (hi : canIssue s.c i w = true) (hr : f.rsvOk = false) :
    ∃ t, tileStep i w unit f run s = .next t ∧ endedAs k 0x0203 i (tileAt s.c i).pc w.toNat t :=
  ⟨_, rfl, by rw [issue_reserved i w unit f run s hq hi hr]; exact ngOn_endedAs _ _ _ _ (Ctl.calm_of_quiet hq) hj ht hx⟩

/-! ### An instruction whose effect is a change of its tile -/

/-- A state that differs from another in what one tile is, and in counters; nothing is left to run or to settle. -/
structure TileChanged (i : Nat) (u : Tile) (s x : State) : Prop where
  frame : tileFrame i s x
  quiet : x.c.quiet = true
  tile : tileAt x.c i = u

theorem tileChanged_stepped (i : Nat) (s : State) (h : s.c.quiet = true) : TileChanged i (advance (tileAt s.c i)) s (stepped i s) :=
  ⟨stepped_frame i s, stepped_quiet i s h, stepped_tile i s⟩

theorem TileChanged.onTile {i : Nat} {u : Tile} {s x : State} (h : TileChanged i u s x) (g : Tile → Tile)
    (hg : ∀ t : Tile, t.quiet = true → (g t).quiet = true) : TileChanged i (g u) s (onTile i g x) := by
  obtain ⟨hframe, hquiet, htile⟩ := onTile_frame i g s x h.frame h.quiet hg
  exact ⟨hframe, hquiet, by rw [htile, h.tile]⟩

theorem TileChanged.jump {i : Nat} {u : Tile} {s x : State} (h : TileChanged i u s x) (target : Nat) :
    TileChanged i { u with pc := target } s (jump i target x) := by
  have hput := h.onTile (fun t => { t with pc := target }) fun _ ht => ht
  exact ⟨tileCount_frame i 67 1 s _ hput.frame, (tileCount_quiet i 67 1 _).trans hput.quiet, (tileCount_tileAt i 67 1 i _).trans hput.tile⟩

/-- An instruction of the sequencer that passes its checks and changes only its tile. -/
theorem tileStep_changes {i : Nat} {w : BitVec 64} {f : OpForm} {run : State → State} {s : State} (u : Tile) (hq : s.c.quiet = true)
    (hi : canIssue s.c i w = true) (hr : f.rsvOk = true) (hc : f.crewOnly = false) (hv : f.valid = true) (hh : f.hold = false)
    (h : TileChanged i u s (run (stepped i s))) : ∃ t, tileStep i w 0 f run s = .next t ∧ tileFrame i s t ∧ tileAt t.c i = u :=
  ⟨_, tileStep_next i w 0 f run s hq hi hr (.inl hc) hv hh h.quiet, h.frame, h.tile⟩

/-! ### Scalar arithmetic (R143, R144) -/

theorem aluOp_eq (n : Nat) (a b : DWord) : aluOp n a b =
    if n = 0 then a + b else if n = 1 then a - b else if n = 2 then a &&& b else if n = 3 then a ||| b else if n = 4 then a ^^^ b
    else if n = 5 then a <<< (b.toNat % 64) else if n = 6 then a >>> (b.toNat % 64) else if n = 7 then a.sshiftRight (b.toNat % 64)
    else if n = 8 then a * b else if n = 9 then BitVec.ofInt 64 (a.toInt * b.toInt / 2 ^ 64)
    else if n = 10 then (if a.slt b then a else b) else if n = 11 then (if a.slt b then b else a)
    else if n = 12 then (if a < b then a else b) else if n = 13 then (if a < b then b else a)
    else if n = 14 then (if a.slt b then 1 else 0) else (if a < b then 1 else 0) := by
  unfold aluOp
  split <;> simp_all

theorem formSAluReg_rsvOk (w : BitVec 64) : (formSAluReg w).rsvOk = true ↔ fz w 0 31 = true ∧ aFN w < 16 := by simp [formSAluReg]

theorem formSAluReg_reserved (w : BitVec 64) : (formSAluReg w).rsvOk = false ↔ fz w 0 31 = false ∨ 16 ≤ aFN w := by
  simp only [formSAluReg, Bool.and_eq_false_iff, decide_eq_false_iff_not, Nat.not_lt]

theorem runSAluReg_stepped (i : Nat) (w : BitVec 64) (s : State) : runSAluReg i w (stepped i s) =
    onTile i (setS (aSD w) (aluOp (aFN w) (sReg (tileAt s.c i) (aSA w)) (sReg (tileAt s.c i) (aSB w)))) (stepped i s) := by
  simp only [runSAluReg, sVal_stepped]

theorem runSAluImm_stepped (i : Nat) (w : BitVec 64) (s : State) : runSAluImm i w (stepped i s) =
    onTile i (setS (aSD w) (aluOp (iFN w) (sReg (tileAt s.c i) (aSA w)) (iIMM w))) (stepped i s) := by
  simp only [runSAluImm, sVal_stepped]

theorem runSLih_stepped (i : Nat) (w : BitVec 64) (s : State) : runSLih i w (stepped i s) =
    onTile i (setS (aSD w) (BitVec.ofNat 64 (fld w 0 32 * 2 ^ 32 + (sReg (tileAt s.c i) (aSD w)).toNat % 2 ^ 32))) (stepped i s) := by
  simp only [runSLih, sVal_stepped]

/-- Settles O1: each instruction is one write of a scalar register; a reserved field ends the take and nothing replaces that. -/
theorem scalarArithmeticWritesDestination : Obligations.ScalarArithmeticWritesDestination := by
  unfold Obligations.ScalarArithmeticWritesDestination
  intro op s tile body hq t0 done r im lih
  have hop : ∀ n a b, op n a b = aluOp n a b := fun n a b => (aluOp_eq n a b).symm
  refine ⟨fun hi hz hfn => ?_, fun hi hz => ?_, fun hi hz => ?_, fun k x hj ht hx => ⟨fun h hi => ?_, fun h hi => ?_, fun h hi => ?_⟩⟩
  · rw [hop]
    exact tileStep_setS tile _ _ r 0 (formSAluReg r) _ s hq hi ((formSAluReg_rsvOk r).mpr ⟨hz, hfn⟩) (.inl rfl) rfl rfl
      (runSAluReg_stepped tile r s)
  · rw [hop]
    exact tileStep_setS tile _ _ im 0 (formSAluImm im) _ s hq hi hz (.inl rfl) rfl rfl (runSAluImm_stepped tile im s)
  · exact tileStep_setS tile _ _ lih 0 (formSLih lih) _ s hq hi hz (.inl rfl) rfl rfl (runSLih_stepped tile lih s)
  · exact tileStep_reserved r 0 _ _ hq hj ht hx hi ((formSAluReg_reserved r).mpr h)
  · exact tileStep_reserved im 0 (formSAluImm im) _ hq hj ht hx hi h
  · exact tileStep_reserved lih 0 (formSLih lih) _ hq hj ht hx hi h

end Sys2Proof.Machine
end

section
/-! PROOFS. Branches, end and predicates (R146 to R148), on a tile of a quiet state. -/

namespace Sys2Proof.Machine

/-! ### The functions of the fields -/

theorem condOk_eq (n : Nat) (a b : DWord) : condOk n a b =
    if n = 0 then true else if n = 1 then a == b else if n = 2 then a != b else if n = 3 then a.slt b
    else if n = 4 then !a.slt b else if n = 5 then decide (a < b) else decide (b ≤ a) := by
  have hle : decide (b ≤ a) = !decide (a < b) := by rw [← decide_not]; exact decide_eq_decide.mpr BitVec.not_lt.symm
  rw [hle]
  unfold condOk
  split <;> simp_all

theorem logOp_eq (n : Nat) (a b : BitVec 128) : logOp n a b =
    if n = 0 then a &&& b else if n = 1 then a ||| b else if n = 2 then a ^^^ b else if n = 3 then a &&& ~~~b else ~~~a := by
  unfold logOp
  split <;> simp_all

theorem formBCond_rsvOk (w : BitVec 64) : (formBCond w).rsvOk = true ↔ fz w 32 6 = true ∧ fld w 38 4 < 7 := by simp [formBCond]

theorem formBCond_reserved (w : BitVec 64) : (formBCond w).rsvOk = false ↔ fz w 32 6 = false ∨ 7 ≤ fld w 38 4 := by
  simp only [formBCond, Bool.and_eq_false_iff, decide_eq_false_iff_not, Nat.not_lt]

theorem formBLink_rsvOk (w : BitVec 64) : (formBLink w).rsvOk = true ↔ fz w 32 1 = true ∧ fz w 38 14 = true := by simp [formBLink]

theorem formBLink_reserved (w : BitVec 64) : (formBLink w).rsvOk = false ↔ fz w 32 1 = false ∨ fz w 38 14 = false := by
  simp only [formBLink, Bool.and_eq_false_iff]

theorem formPCmp_rsvOk (w : BitVec 64) : (formPCmp w).rsvOk = true ↔ fz w 50 2 = true ∧ fz w 0 31 = true ∧ aFN w < 7 := by
  simp [formPCmp, and_assoc]

theorem formPCmp_reserved (w : BitVec 64) : (formPCmp w).rsvOk = false ↔ fz w 50 2 = false ∨ fz w 0 31 = false ∨ 7 ≤ aFN w := by
  simp only [formPCmp, Bool.and_eq_false_iff, decide_eq_false_iff_not, Nat.not_lt, or_assoc]

theorem formPCmpi_rsvOk (w : BitVec 64) : (formPCmpi w).rsvOk = true ↔ fz w 50 2 = true ∧ fz w 32 6 = true ∧ iFN w < 7 := by
  simp [formPCmpi, and_assoc]

theorem formPCmpi_reserved (w : BitVec 64) : (formPCmpi w).rsvOk = false ↔ fz w 50 2 = false ∨ fz w 32 6 = false ∨ 7 ≤ iFN w := by
  simp only [formPCmpi, Bool.and_eq_false_iff, decide_eq_false_iff_not, Nat.not_lt, or_assoc]

theorem formPLog_rsvOk (w : BitVec 64) : (formPLog w).rsvOk = true ↔
    fz w 50 2 = true ∧ fz w 45 2 = true ∧ fz w 40 2 = true ∧ fz w 0 31 = true ∧ aFN w < 5 := by
  simp [formPLog, and_assoc]

theorem formPLog_reserved (w : BitVec 64) : (formPLog w).rsvOk = false ↔
    fz w 50 2 = false ∨ fz w 45 2 = false ∨ fz w 40 2 = false ∨ fz w 0 31 = false ∨ 5 ≤ aFN w := by
  simp only [formPLog, Bool.and_eq_false_iff, decide_eq_false_iff_not, Nat.not_lt, or_assoc]

/-! ### Branches (R146) -/

theorem setS_eq (n : Nat) (v : DWord) (t : Tile) : setS n v t = { t with s := (setS n v t).s } := by
  unfold setS
  split <;> rfl

/-- An instruction of the sequencer that jumps and leaves the address behind it in a scalar register. -/
theorem tileStep_link {i : Nat} {w : BitVec 64} {f : OpForm} {run : State → State} {s : State} (n target : Nat) (hq : s.c.quiet = true)
    (hi : canIssue s.c i w = true) (hr : f.rsvOk = true) (hc : f.crewOnly = false) (hv : f.valid = true) (hh : f.hold = false)
    (h : run (stepped i s) = jump i target (onTile i (setS n (BitVec.ofNat 64 ((tileAt s.c i).pc + 8))) (stepped i s))) :
    ∃ t, tileStep i w 0 f run s = .next t ∧ tileFrame i s t ∧
      (∀ m, sReg (tileAt t.c i) m =
        if m = n then (if n = 0 then 0 else BitVec.ofNat 64 ((tileAt s.c i).pc + 8)) else sReg (tileAt s.c i) m) ∧
      tileAt t.c i = { advance (tileAt s.c i) with s := (tileAt t.c i).s, pc := target } := by
  have hjump := ((tileChanged_stepped i s hq).onTile _ (setS_quiet n (BitVec.ofNat 64 ((tileAt s.c i).pc + 8)))).jump target
  rw [← h] at hjump
  obtain ⟨t, hstep, hframe, htile⟩ := tileStep_changes _ hq hi hr hc hv hh hjump
  refine ⟨t, hstep, hframe, fun m => ?_, ?_⟩
  · rw [htile]; exact sReg_setS _ n m _
  · rw [htile, setS_eq]

theorem tileChanged_runBCond {i : Nat} {w : BitVec 64} {s : State} (hq : s.c.quiet = true) :
    TileChanged i { advance (tileAt s.c i) with
      pc := if condOk (fld w 38 4) (sReg (tileAt s.c i) (fld w 47 5)) (sReg (tileAt s.c i) (fld w 42 5)) then branchTarget (tileAt s.c i).pc w
        else ((tileAt s.c i).pc + 8) % 2 ^ 32 } s (runBCond i w (stepped i s)) := by
  have h := tileChanged_stepped i s hq
  simp only [runBCond, sVal_stepped, pcOf_stepped]
  split
  · exact h.jump _
  · exact h

theorem runBLink_stepped (i : Nat) (w : BitVec 64) (s : State) : runBLink i w (stepped i s) =
    jump i (branchTarget (tileAt s.c i).pc w) (onTile i (setS (fld w 33 5) (BitVec.ofNat 64 ((tileAt s.c i).pc + 8))) (stepped i s)) := by
  simp only [runBLink, pcOf_stepped]

theorem runBReg_aligned {i : Nat} {w : BitVec 64} {s : State} (ha : (sReg (tileAt s.c i) (aSA w)).toNat % 8 = 0) :
    runBReg i w (stepped i s) =
      jump i (sReg (tileAt s.c i) (aSA w)).toNat (onTile i (setS (aSD w) (BitVec.ofNat 64 ((tileAt s.c i).pc + 8))) (stepped i s)) := by
  simp only [runBReg, pcOf_stepped, sVal_stepped]
  rw [if_neg (not_not_intro ha)]

theorem runBReg_misaligned {i : Nat} {w : BitVec 64} {s : State} (ha : (sReg (tileAt s.c i) (aSA w)).toNat % 8 ≠ 0) :
    runBReg i w (stepped i s) = ngAt i 0x020A (tileAt s.c i).pc (sReg (tileAt s.c i) (aSA w)).toNat (stepped i s) := by
  simp only [runBReg, pcOf_stepped, sVal_stepped]
  rw [if_pos ha]

theorem takeOn_stepped (i : Nat) (s : State) : takeOn (stepped i s).c i = takeOn s.c i := by
  simp only [takeOn, takeAt, stepped_tile, stepped_ad, advance_take]

/-- b.reg to an address that is no multiple of 8 ends the take (R142, R146). -/
theorem tileStep_misaligned {i k : Nat} {x : Take} {w : BitVec 64} {s : State} (hq : s.c.quiet = true) (hj : journalOk s.c = true)
    (ht : takeOn s.c i = some (k, x)) (hx : x.st = .started) (hi : canIssue s.c i w = true) (hr : (formBReg w).rsvOk = true)
    (ha : (sReg (tileAt s.c i) (aSA w)).toNat % 8 ≠ 0) :
    ∃ t, tileStep i w 0 (formBReg w) (runBReg i w) s = .next t ∧
      endedAs k 0x020A i (tileAt s.c i).pc (sReg (tileAt s.c i) (aSA w)).toNat t := by
  refine ⟨_, rfl, ?_⟩
  rw [issue_runs i w 0 (formBReg w) _ s hq hi hr (.inl rfl) rfl rfl, runBReg_misaligned ha]
  exact ngOn_endedAs _ _ _ _ (Ctl.calm_of_quiet (stepped_quiet i s hq)) (by rwa [journalOk, stepped_ad])
    ((takeOn_stepped i s).trans ht) hx

/-! ### end (R147) -/

theorem rootOf_congr {c d : Ctl} (h : d.ad = c.ad) (k : Nat) : rootOf d k = rootOf c k := by
  have key : ∀ n k, rootFrom d n k = rootFrom c n k := by
    intro n
    induction n with
    | zero => exact fun _ => rfl
    | succ n ih => intro k; simp only [rootFrom, takeAt, h, ih]
  rw [rootOf, rootOf, h, key]

theorem soloTile_stepped {i : Nat} {s : State} (h : soloTile s.c i = true) : soloTile (stepped i s).c i = true := by
  rw [soloTile, stepped_tile]
  exact h

/-- end on a tile that runs alone, where no clapper of its take is open. -/
theorem runEnd_solo {i : Nat} {s : State} (w : BitVec 64) (hs : soloTile s.c i = true)
    (hclap : ∀ k, (tileAt s.c i).take = some k → Map.get? s.c.share.clappers (rootOf s.c k) = none) :
    runEnd i w (stepped i s) = onTile i (fun t => { t with ended := true }) (stepped i s) := by
  unfold runEnd
  split
  · rfl
  · rename_i k hk
    rw [stepped_tile, advance_take] at hk
    simp only [rootOf_congr (stepped_ad i s), stepped_share, hclap k hk, Option.isSome_none, Bool.false_eq_true, if_false,
      gangOf_solo _ _ (soloTile_stepped hs), List.foldl_cons, List.foldl_nil]

theorem tileChanged_runEnd {i : Nat} {s : State} (w : BitVec 64) (hq : s.c.quiet = true) (hs : soloTile s.c i = true)
    (hclap : ∀ k, (tileAt s.c i).take = some k → Map.get? s.c.share.clappers (rootOf s.c k) = none) :
    TileChanged i { advance (tileAt s.c i) with ended := true } s (runEnd i w (stepped i s)) := by
  rw [runEnd_solo w hs hclap]
  exact (tileChanged_stepped i s hq).onTile (fun t => { t with ended := true }) fun _ ht => ht

/-! ### Predicates (R148) -/

theorem setP_eq (n : Nat) (v : BitVec 128) (t : Tile) : setP n v t = { t with p := (setP n v t).p } := by
  unfold setP
  split <;> rfl

theorem setPred_solo {i : Nat} {s : State} (n : Nat) (v : Nat → BitVec 128) (hs : soloTile s.c i = true) :
    setPred i n v s = onTile i (setP n (v i)) s := by
  simp only [setPred, gangOf_solo _ _ hs, List.foldl_cons, List.foldl_nil]

/-- An instruction of a tile that runs alone whose effect is to write one predicate. -/
theorem tileStep_setP {i n : Nat} {v : Nat → BitVec 128} {w : BitVec 64} {f : OpForm} {run : State → State} {s : State}
    (hq : s.c.quiet = true) (hs : soloTile s.c i = true) (hi : canIssue s.c i w = true) (hr : f.rsvOk = true) (hc : f.crewOnly = false)
    (hv : f.valid = true) (hh : f.hold = false) (h : run (stepped i s) = setPred i n v (stepped i s)) :
    ∃ t, tileStep i w 0 f run s = .next t ∧ tileFrame i s t ∧
      (∀ m, pReg (tileAt t.c i) m = if m = n then (if n = 0 then BitVec.allOnes 128 else v i) else pReg (tileAt s.c i) m) ∧
      tileAt t.c i = { advance (tileAt s.c i) with p := (tileAt t.c i).p } := by
  have hput := (tileChanged_stepped i s hq).onTile (setP n (v i)) (setP_quiet n _)
  rw [← setPred_solo n v (soloTile_stepped hs), ← h] at hput
  obtain ⟨t, hstep, hframe, htile⟩ := tileStep_changes _ hq hi hr hc hv hh hput
  refine ⟨t, hstep, hframe, fun m => ?_, ?_⟩
  · rw [htile, pReg_setP]; rfl
  · rw [htile]; exact setP_eq _ _ _

theorem runPCmp_stepped (i : Nat) (w : BitVec 64) (s : State) : runPCmp i w (stepped i s) = setPred i (fld w 47 3)
    (fun _ => predAll (condOk (aFN w) (sReg (tileAt s.c i) (aSA w)) (sReg (tileAt s.c i) (aSB w)))) (stepped i s) := by
  simp only [runPCmp, sVal_stepped]

theorem runPCmpi_stepped (i : Nat) (w : BitVec 64) (s : State) : runPCmpi i w (stepped i s) = setPred i (fld w 47 3)
    (fun _ => predAll (condOk (iFN w) (sReg (tileAt s.c i) (aSA w)) (iIMM w))) (stepped i s) := by
  simp only [runPCmpi, sVal_stepped]

theorem runPLog_stepped (i : Nat) (w : BitVec 64) (s : State) : runPLog i w (stepped i s) = setPred i (fld w 47 3)
    (fun j => logOp (aFN w) (pReg (tileAt (stepped i s).c j) (fld w 42 3)) (pReg (tileAt (stepped i s).c j) (fld w 37 3))) (stepped i s) := rfl

theorem pReg_stepped (i n : Nat) (s : State) : pReg (tileAt (stepped i s).c i) n = pReg (tileAt s.c i) n := by
  rw [stepped_tile]; rfl

/-- Settles O3: each instruction is one change of its tile; a field that is not allotted, or a misaligned target, ends the take. -/
theorem branchesAndPredicatesAct : Obligations.BranchesAndPredicatesAct := by
  unfold Obligations.BranchesAndPredicatesAct
  intro cond logic
  have hcond : ∀ n a b, cond n a b = condOk n a b := fun n a b => (condOk_eq n a b).symm
  have hlogic : ∀ n a b, logic n a b = logOp n a b := fun n a b => (logOp_eq n a b).symm
  refine ⟨fun s tile body hq => ?_, fun s tile body hq hs => ?_, fun s tile body k x hq hj ht hx => ?_⟩
  · intro t0 c l r e disp wrote
    refine ⟨fun hi hz hcc => ?_, fun hi hz hz' => ?_, fun hi hz ha => ?_, fun hi hz hs hclap => ?_⟩
    · rw [hcond]
      exact tileStep_changes _ hq hi ((formBCond_rsvOk c).mpr ⟨hz, hcc⟩) rfl rfl rfl (tileChanged_runBCond hq)
    · exact tileStep_link _ _ hq hi ((formBLink_rsvOk l).mpr ⟨hz, hz'⟩) rfl rfl rfl (runBLink_stepped tile l s)
    · exact tileStep_link _ _ hq hi (show (formBReg r).rsvOk = true from hz) rfl rfl rfl (runBReg_aligned ha)
    · exact tileStep_changes _ hq hi (show (formEnd e).rsvOk = true from hz) rfl rfl rfl (tileChanged_runEnd e hq hs hclap)
  · intro t0 cmp cmpi plog done
    refine ⟨fun hi h50 h0 hfn => ?_, fun hi h50 h32 hfn => ?_, fun hi h50 h45 h40 h0 hfn => ?_⟩
    · rw [hcond]
      exact tileStep_setP hq hs hi ((formPCmp_rsvOk cmp).mpr ⟨h50, h0, hfn⟩) rfl rfl rfl (runPCmp_stepped tile cmp s)
    · rw [hcond]
      exact tileStep_setP hq hs hi ((formPCmpi_rsvOk cmpi).mpr ⟨h50, h32, hfn⟩) rfl rfl rfl (runPCmpi_stepped tile cmpi s)
    · rw [hlogic, ← pReg_stepped tile (fld plog 42 3) s, ← pReg_stepped tile (fld plog 37 3) s]
      exact tileStep_setP hq hs hi ((formPLog_rsvOk plog).mpr ⟨h50, h45, h40, h0, hfn⟩) rfl rfl rfl (runPLog_stepped tile plog s)
  · intro t0 c l r e cmp cmpi plog refused
    exact ⟨fun h hi => tileStep_reserved c 0 _ _ hq hj ht hx hi ((formBCond_reserved c).mpr h),
      fun h hi => tileStep_reserved l 0 _ _ hq hj ht hx hi ((formBLink_reserved l).mpr h),
      fun h hi => tileStep_reserved r 0 (formBReg r) _ hq hj ht hx hi h,
      fun h hi => tileStep_reserved e 0 (formEnd e) _ hq hj ht hx hi h,
      fun h hi => tileStep_reserved cmp 0 _ _ hq hj ht hx hi ((formPCmp_reserved cmp).mpr h),
      fun h hi => tileStep_reserved cmpi 0 _ _ hq hj ht hx hi ((formPCmpi_reserved cmpi).mpr h),
      fun h hi => tileStep_reserved plog 0 _ _ hq hj ht hx hi ((formPLog_reserved plog).mpr h),
      fun hi hz ha => tileStep_misaligned hq hj ht hx hi hz ha⟩

end Sys2Proof.Machine
end

section
/-! PROOFS. A packet that comes in on a port (R304, R310, R322): it is counted and taken in; an answer of another generation goes no
further. -/

namespace Sys2Proof.Machine

/-! ### Taking a packet in -/

/-- A port has counted a packet that came in on it (R304). -/
def takenIn (port : Fin 18) (p : Pkt) (s : State) : State :=
  onCtl (fun c => when p.ecn (bump (Reg.FAB_PORT_ECN_RX_COUNT port) 1)
    (countF (port / 3) 2 1 (bump (Reg.FAB_PORT_RX_PKTS_COUNT port) 1 c))) s

theorem regsOnly_takenIn (port : Fin 18) (p : Pkt) (s : State) : RegsOnly s.c (takenIn port p s).c :=
  ((regsOnly_bump _ 1 s.c).trans (regsOnly_modCount _ 1 _)).trans (regsOnly_when _ _ _ (regsOnly_bump _ 1 _))

/-- Field `g` is no count of a port's incoming packets, and no module counter. -/
def apartFromPorts (g : Fld) : Prop :=
  countKey g.key = false ∧ ∀ q < 18, g.key ≠ (Reg.FAB_PORT_RX_PKTS_COUNT q).key ∧ g.key ≠ (Reg.FAB_PORT_ECN_RX_COUNT q).key

/-- The registers of a block below the ports' windows are apart from them. -/
theorem apartFromPorts_below {g : Fld} (hc : countKey g.key = false) (hk : g.key < 32 * 0xF0009001000) : apartFromPorts g :=
  ⟨hc, fun q _ => by simp only [Reg.FAB_PORT_RX_PKTS_COUNT, Reg.FAB_PORT_ECN_RX_COUNT]; omega⟩

/-- The registers shown through a select register lie above every block. -/
theorem apartFromPorts_above {g : Fld} (hk : 2 ^ 64 ≤ g.key) : apartFromPorts g := by
  refine ⟨?_, fun q hq => ?_⟩
  · rw [countKey, decide_eq_false_iff_not]; omega
  · simp only [Reg.FAB_PORT_RX_PKTS_COUNT, Reg.FAB_PORT_ECN_RX_COUNT]; omega

theorem apartFromPorts_portState (n : Nat) : apartFromPorts (Reg.FAB_PORT_STATE_STATE n) := by
  refine ⟨?_, fun q _ => ?_⟩
  · rw [countKey, decide_eq_false_iff_not]; simp only [Reg.FAB_PORT_STATE_STATE]; omega
  · simp only [Reg.FAB_PORT_STATE_STATE, Reg.FAB_PORT_RX_PKTS_COUNT, Reg.FAB_PORT_ECN_RX_COUNT]; omega

theorem rd_takenIn {g : Fld} (h : apartFromPorts g) (port : Fin 18) (p : Pkt) (s : State) : rd (takenIn port p s).c g = rd s.c g := by
  obtain ⟨hcount, hport⟩ := h
  obtain ⟨hrx, hecn⟩ := hport port port.isLt
  have hcounted : rd (countF (port / 3) 2 1 (bump (Reg.FAB_PORT_RX_PKTS_COUNT port) 1 s.c)) g = rd s.c g := by
    rw [countF, rd_modCount g _ _ _ hcount, rd_bump_ne _ _ _ _ hrx]
  simp only [takenIn, onCtl_c, when]
  split
  · rw [rd_bump_ne _ _ _ _ hecn, hcounted]
  · exact hcounted

theorem rdb_takenIn {g : Fld} (h : apartFromPorts g) (port : Fin 18) (p : Pkt) (s : State) : rdb (takenIn port p s).c g = rdb s.c g := by
  rw [rdb, rd_takenIn h, rdb]

/-- What isolation asks stands in the fabric's own registers, so that counting a packet does not change whether it is taken in (R310). -/
theorem accepts_takenIn (src slice : Nat) (port : Fin 18) (p : Pkt) (s : State) :
    (accepts src slice (takenIn port p s).c).1 = (accepts src slice s.c).1 := by
  have hid : rdb (takenIn port p s).c Reg.FAB_ID_VALID = rdb s.c Reg.FAB_ID_VALID := rdb_takenIn (apartFromPorts_below (by decide) (by decide)) _ _ _
  have hslice : sliceNow (takenIn port p s).c = sliceNow s.c := rd_takenIn (apartFromPorts_below (by decide) (by decide)) _ _ _
  have hallow : senderAllowed (takenIn port p s).c src = senderAllowed s.c src := by rw [senderAllowed, (regsOnly_takenIn port p s).fab, senderAllowed]
  have hfenced : ∀ n, rtFenced (takenIn port p s).c n = rtFenced s.c n := fun n =>
    rdb_takenIn (apartFromPorts_above (by simp only [Reg.FAB_RT_ENTRY_FENCED, windowKey]; omega)) _ _ _
  have hphys : ∀ n, rtPhys (takenIn port p s).c n = rtPhys s.c n := fun n =>
    rd_takenIn (apartFromPorts_above (by simp only [Reg.FAB_RT_ENTRY_PHYS, windowKey]; omega)) _ _ _
  simp only [accepts, hid, hslice, hallow, hfenced, hphys, apply_ite Prod.fst]

/-- A packet that is taken in changes nothing by that. -/
theorem accepts_eq_of_fst {src slice : Nat} {c : Ctl} (h : (accepts src slice c).1 = true) : accepts src slice c = (true, c) := by
  unfold accepts at h ⊢
  split at h
  · cases h
  · rename_i hsender
    rw [if_neg hsender]
    split at h
    · cases h
    · rename_i hfence
      rw [if_neg hfence]

/-- A packet that comes in on a port that is up, and is taken in, takes its effect. -/
theorem arrive_comesIn {port : Fin 18} {typ : Nat} {bs : List Byte} {p : Pkt} {s : State} (h : comesIn port typ bs p s.c)
    (run : Pkt → State → State) : arrive port typ bs run s = run p (takenIn port p s) := by
  obtain ⟨hup, hparse, htyp, hacc⟩ := h
  have htaken : accepts p.src p.slice (takenIn port p s).c = (true, (takenIn port p s).c) :=
    accepts_eq_of_fst (by rw [accepts_takenIn]; exact hacc)
  simp only [takenIn] at htaken
  simp only [arrive, hup, hparse, htyp, ne_eq, not_true_eq_false, if_false, htaken]
  rfl

/-! ### The generation of an answer (R322) -/

theorem answerOf_current {p : Pkt} {s : State} (h : p.gen = moduleGen s.c) (run : State → State) : answerOf p run s = run s :=
  if_neg (not_not_intro h)

theorem answerOf_stale {p : Pkt} {s : State} (h : p.gen ≠ moduleGen s.c) (run : State → State) :
    answerOf p run s = onCtl (bump Reg.FAB_DROP_GEN_COUNT 1) s := if_pos h

theorem moduleGen_takenIn (port : Fin 18) (p : Pkt) (s : State) : moduleGen (takenIn port p s).c = moduleGen s.c :=
  rd_takenIn (apartFromPorts_below (by decide) (by decide)) _ _ _

theorem takenIn_quiet {s : State} (h : s.c.quiet = true) (port : Fin 18) (p : Pkt) : (takenIn port p s).c.quiet = true := by
  rw [(regsOnly_takenIn port p s).quiet]; exact h

end Sys2Proof.Machine
end

section
/-! PROOFS. What answers do at the source (R160, R161, R318, R319): an ACK releases packets and completes messages, a NAK has a packet
sent again. -/

namespace Sys2Proof.Machine

/-! ### One change of the contexts of a destination and class -/

/-- The source contexts of a destination and class, changed alike. -/
def mapSrc (phys cls : Nat) (f : SrcCtx → SrcCtx) (s : State) : State :=
  onCtl (setFabSrc (s.c.fab.src.map (fun y => if isSrc phys cls y then f y else y))) s

@[simp] theorem mapSrc_mem (phys cls : Nat) (f : SrcCtx → SrcCtx) (s : State) : (mapSrc phys cls f s).mem = s.mem := rfl
@[simp] theorem mapSrc_tiles (phys cls : Nat) (f : SrcCtx → SrcCtx) (s : State) : (mapSrc phys cls f s).c.tiles = s.c.tiles := rfl
@[simp] theorem mapSrc_share (phys cls : Nat) (f : SrcCtx → SrcCtx) (s : State) : (mapSrc phys cls f s).c.share = s.c.share := rfl
@[simp] theorem mapSrc_out (phys cls : Nat) (f : SrcCtx → SrcCtx) (s : State) : (mapSrc phys cls f s).c.out = s.c.out := rfl
@[simp] theorem mapSrc_rd (phys cls : Nat) (f : SrcCtx → SrcCtx) (s : State) (g : Fld) : rd (mapSrc phys cls f s).c g = rd s.c g := rfl
@[simp] theorem mapSrc_quiet (phys cls : Nat) (f : SrcCtx → SrcCtx) (s : State) : (mapSrc phys cls f s).c.quiet = s.c.quiet := rfl

/-- The context found is the one changed. -/
theorem mapSrc_find {phys cls : Nat} {f : SrcCtx → SrcCtx} (hf : ∀ y, isSrc phys cls (f y) = isSrc phys cls y) {s : State} {ctx : SrcCtx}
    (h : s.c.fab.src.find? (isSrc phys cls) = some ctx) : (mapSrc phys cls f s).c.fab.src.find? (isSrc phys cls) = some (f ctx) := by
  have hsame : isSrc phys cls ∘ (fun y => if isSrc phys cls y then f y else y) = isSrc phys cls := by
    funext y
    simp only [Function.comp_apply]
    split
    · exact hf y
    · rfl
  simp only [mapSrc, onCtl_c, setFabSrc_src, List.find?_map, hsame, h, Option.map_some]
  rw [if_pos (List.find?_some h)]

/-! ### An ACK (R318) -/

/-- A context whose packets up to a sequence number are acknowledged at a time. -/
def releaseUpTo (seq t : Nat) (y : SrcCtx) : SrcCtx := { y with unacked := y.unacked.filter (fun x => !seqLe x.seq seq), at_ := t }

/-- A context whose waiting packets have gone into its window. -/
def refill (room : Nat) (sent : List SrcPkt) (y : SrcCtx) : SrcCtx := { y with unacked := y.unacked ++ sent, backlog := y.backlog.drop room }

/-- What an acknowledged packet completes: the message whose last one it is, where a tile sent it. -/
def completeLast (s : State) (x : SrcPkt) : State :=
  if x.last then (match x.owner with
    | .tile i n => completeMsg i n s
    | _ => s) else s

theorem ackCtx_eq {phys cls seq : Nat} {s : State} {ctx : SrcCtx} (h : s.c.fab.src.find? (isSrc phys cls) = some ctx) :
    ackCtx phys cls seq s =
      (ownersOf ((ctx.unacked.filter (fun x => seqLe x.seq seq)).filter (fun x => x.last)),
        pumpCtx phys cls ((ctx.unacked.filter (fun x => seqLe x.seq seq)).foldl completeLast (mapSrc phys cls (releaseUpTo seq (now s.c)) s))) := by
  rw [ackCtx, h]
  rfl

/-- With nothing waiting for the window, nothing goes. -/
theorem pumpCtx_idle {phys cls : Nat} {s : State} {ctx : SrcCtx} (h : s.c.fab.src.find? (isSrc phys cls) = some ctx) (hb : ctx.backlog = []) :
    pumpCtx phys cls s = mapSrc phys cls (refill (4096 - ctx.unacked.length) []) s := by
  simp only [pumpCtx, h, hb, List.take_nil, List.foldl_nil]
  rfl

theorem foldl_completeLast_noLast {l : List SrcPkt} (s : State) (h : ∀ x ∈ l, x.last = false) : l.foldl completeLast s = s :=
  List.foldlRecOn (motive := fun t => t = s) l _ rfl fun t ht x hx => by rw [ht, completeLast, h x hx]; rfl

theorem ackColl_tile (i n : Nat) (s : State) : ackColl [.tile i n] s = s := rfl

/-- An acknowledgement with the mark of a congested path notes the destination (R324). -/
def noteEcho (p : Pkt) (s : State) : State :=
  onCtl (when p.echo (fun c => { c with fab := { c.fab with echoed := (p.src :: c.fab.echoed).eraseDups } })) s

theorem noteEcho_cases (p : Pkt) (s : State) : ∃ l, noteEcho p s = onCtl (fun c => { c with fab := { c.fab with echoed := l } }) s := by
  cases h : p.echo
  · exact ⟨s.c.fab.echoed, by simp [noteEcho, when, h, onCtl]⟩
  · exact ⟨_, by simp only [noteEcho, h]; rfl⟩

@[simp] theorem noteEcho_tiles (p : Pkt) (s : State) : (noteEcho p s).c.tiles = s.c.tiles := by
  obtain ⟨l, h⟩ := noteEcho_cases p s; rw [h]; rfl
@[simp] theorem noteEcho_share (p : Pkt) (s : State) : (noteEcho p s).c.share = s.c.share := by
  obtain ⟨l, h⟩ := noteEcho_cases p s; rw [h]; rfl
@[simp] theorem noteEcho_src (p : Pkt) (s : State) : (noteEcho p s).c.fab.src = s.c.fab.src := by
  obtain ⟨l, h⟩ := noteEcho_cases p s; rw [h]; rfl
@[simp] theorem noteEcho_quiet (p : Pkt) (s : State) : (noteEcho p s).c.quiet = s.c.quiet := by
  obtain ⟨l, h⟩ := noteEcho_cases p s; rw [h]; rfl

theorem onAck_current {p : Pkt} {s : State} (h : p.gen = moduleGen s.c) :
    onAck p s = ackColl (ackCtx p.src (p.arg % 4) p.seq (noteEcho p s)).1 (ackCtx p.src (p.arg % 4) p.seq (noteEcho p s)).2 :=
  answerOf_current h _

/-- The state of the source once the packets that an ACK covers are released. -/
def released (p : Pkt) (s : State) : State := mapSrc p.src (p.arg % 4) (releaseUpTo p.seq (now (noteEcho p s).c)) (noteEcho p s)

theorem released_find {p : Pkt} {s : State} {ctx : SrcCtx} (h : s.c.fab.src.find? (isSrc p.src (p.arg % 4)) = some ctx) :
    (released p s).c.fab.src.find? (isSrc p.src (p.arg % 4)) = some (releaseUpTo p.seq (now (noteEcho p s).c) ctx) := by
  rw [← noteEcho_src p s] at h
  exact mapSrc_find (f := releaseUpTo _ _) (fun _ => rfl) h

theorem released_tiles (p : Pkt) (s : State) : (released p s).c.tiles = s.c.tiles := noteEcho_tiles p s
theorem released_share (p : Pkt) (s : State) : (released p s).c.share = s.c.share := noteEcho_share p s
theorem released_quiet (p : Pkt) {s : State} (h : s.c.quiet = true) : (released p s).c.quiet = true := by
  rw [released, mapSrc_quiet, noteEcho_quiet]; exact h

/-- What an ACK leaves of a context that has nothing waiting, once the messages it completes are: the packets it does not cover. -/
theorem pumpCtx_released {p : Pkt} {s t : State} {ctx : SrcCtx} (h : s.c.fab.src.find? (isSrc p.src (p.arg % 4)) = some ctx)
    (hb : ctx.backlog = []) (ht : t.c.fab.src = (released p s).c.fab.src) : ∃ f, pumpCtx p.src (p.arg % 4) t = mapSrc p.src (p.arg % 4) f t ∧
      ∃ y, (mapSrc p.src (p.arg % 4) f t).c.fab.src.find? (isSrc p.src (p.arg % 4)) = some y ∧
        y.unacked = ctx.unacked.filter (fun x => !seqLe x.seq p.seq) := by
  have hfind := released_find h
  rw [← ht] at hfind
  exact ⟨_, pumpCtx_idle hfind hb, _, mapSrc_find (f := refill _ _) (fun _ => rfl) hfind, List.append_nil _⟩

/-- An ACK that covers no last packet releases what it covers. -/
theorem onAck_noLast {p : Pkt} {s : State} {ctx : SrcCtx} (hgen : p.gen = moduleGen s.c)
    (h : s.c.fab.src.find? (isSrc p.src (p.arg % 4)) = some ctx)
    (hl : ∀ x ∈ ctx.unacked, seqLe x.seq p.seq = true → x.last = false) : onAck p s = pumpCtx p.src (p.arg % 4) (released p s) := by
  have hgone : ∀ x ∈ ctx.unacked.filter (fun x => seqLe x.seq p.seq), x.last = false := fun x hx =>
    hl x (List.mem_filter.mp hx).1 (List.mem_filter.mp hx).2
  have howners : (ctx.unacked.filter (fun x => seqLe x.seq p.seq)).filter (fun x => x.last) = [] :=
    List.filter_eq_nil_iff.mpr fun x hx => by simp [hgone x hx]
  rw [onAck_current hgen, ackCtx_eq (ctx := ctx) (by rw [noteEcho_src]; exact h), howners, foldl_completeLast_noLast _ hgone]
  rfl

/-! ### The completion of a message (R160, R318) -/

/-- A tile's one message is complete: it is gone, and its semaphore is posted. -/
def completed (i : Nat) (m : OutMsg) (s : State) : State :=
  onCtl (tileCount i 47 1) (setSem i m.sem (semCount s.c i m.sem + 1) (onCtl (setMsgs i (fun _ => [])) s))

theorem semCount_congr {c d : Ctl} (ht : d.tiles = c.tiles) (hs : d.share = c.share) (i n : Nat) : semCount d i n = semCount c i n := by
  unfold semCount sharedKey tileAt
  rw [ht, hs]

theorem tileAt_setMsgs (i j : Nat) (f : List OutMsg → List OutMsg) (c : Ctl) :
    tileAt (setMsgs i f c) j = if j = i then { tileAt c i with msgs := f (tileAt c i).msgs } else tileAt c j := tileAt_setTile _ _ _ _

theorem semCount_setMsgs (i n : Nat) (f : List OutMsg → List OutMsg) (c : Ctl) : semCount (setMsgs i f c) i n = semCount c i n := by
  simp only [semCount, sharedKey, tileAt_setMsgs, if_true]
  rfl

theorem setSem_mem (i n v : Nat) (s : State) : (setSem i n v s).mem = s.mem := by unfold setSem; split <;> rfl
theorem setSem_fab (i n v : Nat) (s : State) : (setSem i n v s).c.fab = s.c.fab := by unfold setSem; split <;> rfl

theorem setSem_msgs (i n v : Nat) (s : State) : (tileAt (setSem i n v s).c i).msgs = (tileAt s.c i).msgs := by
  unfold setSem
  split
  · simp only [onTile, onCtl_c, tileAt_setTile, if_true, setQ]
  · rfl

theorem setSem_quiet (i n v : Nat) {s : State} (h : s.c.quiet = true) : (setSem i n v s).c.quiet = true := by
  unfold setSem
  split
  · exact onTile_quiet h i _ fun _ ht => ht
  · exact h

theorem semCount_setSem (i n v : Nat) (s : State) : semCount (setSem i n v s).c i n = v := by
  unfold setSem semCount
  split
  · simp only [onTile, onCtl_c, tileAt_setTile, if_true, qReg, setQ, Map.getD_setD]
  · exact (Map.getD_setD 0 s.c.share.shared (sharedKey s.c i n) (sharedKey s.c i n) v).trans (if_pos rfl)

theorem completed_msgs (i : Nat) (m : OutMsg) (s : State) : (tileAt (completed i m s).c i).msgs = [] := by
  rw [completed, tileCount_tileAt, setSem_msgs, onCtl_c, tileAt_setMsgs, if_pos rfl]

/-- Completing the one message of a tile leaves no message held that would go on. -/
theorem completeMsg_sole {i : Nat} {m : OutMsg} {s : State} (hm : (tileAt s.c i).msgs = [m]) (hs : semCount s.c i m.sem < 65535) :
    completeMsg i m.id s = completed i m s := by
  have hgone : onCtl (setMsgs i (fun l => l.filter (fun x => x.id != m.id))) s = onCtl (setMsgs i (fun _ => [])) s := by
    simp [onCtl, setMsgs, hm]
  have hpost : postSem i m.sem 1 (onCtl (setMsgs i (fun _ => [])) s) = some (completed i m s) := by
    simp only [postSem, onCtl_c, semCount_setMsgs]
    rw [if_neg (by omega)]
    rfl
  simp only [completeMsg, hm, List.find?_cons, beq_self_eq_true, hgone, hpost, beginMsgs, completed_msgs, List.foldl_nil]

theorem completed_quiet (i : Nat) (m : OutMsg) {s : State} (h : s.c.quiet = true) : (completed i m s).c.quiet = true := by
  rw [completed, tileCount_quiet]
  exact setSem_quiet _ _ _ (Ctl.quiet_setTile h i _ (Ctl.quiet_tileAt h i))

theorem completed_mem (i : Nat) (m : OutMsg) (s : State) : (completed i m s).mem = s.mem := setSem_mem _ _ _ _

theorem completed_fab (i : Nat) (m : OutMsg) (s : State) : (completed i m s).c.fab = s.c.fab := by
  rw [completed, onCtl_c, (regsOnly_tileCount i 47 1 _).fab, setSem_fab]
  rfl

theorem completed_semCount (i : Nat) (m : OutMsg) (s : State) : semCount (completed i m s).c i m.sem = semCount s.c i m.sem + 1 := by
  have hcount := regsOnly_tileCount i 47 1 (setSem i m.sem (semCount s.c i m.sem + 1) (onCtl (setMsgs i (fun _ => [])) s)).c
  rw [completed, onCtl_c, semCount_congr hcount.tiles hcount.share, semCount_setSem]

/-- An ACK that covers the one packet of a context, the last of a tile's one message, completes the message. -/
theorem onAck_sole {p : Pkt} {s : State} {ctx : SrcCtx} {x : SrcPkt} {i : Nat} {m : OutMsg} (hgen : p.gen = moduleGen s.c)
    (h : s.c.fab.src.find? (isSrc p.src (p.arg % 4)) = some ctx) (hu : ctx.unacked = [x]) (hlast : x.last = true)
    (howner : x.owner = .tile i m.id) (hseq : seqLe x.seq p.seq = true) (hm : (tileAt s.c i).msgs = [m])
    (hsem : semCount s.c i m.sem < 65535) : onAck p s = pumpCtx p.src (p.arg % 4) (completed i m (released p s)) := by
  have hgone : ctx.unacked.filter (fun x => seqLe x.seq p.seq) = [x] := by simp [hu, hseq]
  have howners : ownersOf ([x].filter (fun x => x.last)) = [.tile i m.id] := by simp [ownersOf, hlast, howner, List.eraseDups_cons]
  have hdone : completeLast (released p s) x = completed i m (released p s) := by
    rw [completeLast, if_pos hlast, howner]
    refine completeMsg_sole (by rw [tileAt, released_tiles]; exact hm) ?_
    rw [semCount_congr (released_tiles p s) (released_share p s)]
    exact hsem
  rw [onAck_current hgen, ackCtx_eq (ctx := ctx) (by rw [noteEcho_src]; exact h), hgone, howners, ackColl_tile]
  exact congrArg (pumpCtx p.src (p.arg % 4)) hdone

/-! ### A packet that is sent again (R319) -/

/-- Two control states that differ at most in registers, the free values drawn and what has been put out. -/
def SendOnly (c d : Ctl) : Prop := d = { c with regs := d.regs, freeCtr := d.freeCtr, out := d.out }

theorem SendOnly.fab {c d : Ctl} (h : SendOnly c d) : d.fab = c.fab := by rw [h]
theorem SendOnly.quiet {c d : Ctl} (h : SendOnly c d) : d.quiet = c.quiet := by rw [h]; rfl

theorem SendOnly.trans {a b c : Ctl} (h : SendOnly a b) (h' : SendOnly b c) : SendOnly a c := by
  unfold SendOnly at *
  rw [h', h]

theorem RegsOnly.sendOnly {c d : Ctl} (h : RegsOnly c d) : SendOnly c d := by
  rw [h]; rfl

theorem sendOnly_fresh (c : Ctl) : SendOnly c (fresh c).2 := rfl
theorem sendOnly_emit (o : Out) (c : Ctl) : SendOnly c (emit o c) := rfl

/-- While a port is up, one is picked, at the cost of one free value. -/
theorem pickPort_up (avoid : Option Nat) {c : Ctl} (h : portsUp c ≠ []) : ∃ q, pickPort avoid c = (some q, (fresh c).2) := by
  have hcands : (match avoid with
      | some a => if ((portsUp c).filter (fun q => q != a)).isEmpty then portsUp c else (portsUp c).filter (fun q => q != a)
      | none => portsUp c) ≠ [] := by
    split
    · split
      · exact h
      · rename_i hne; exact fun he => hne (List.isEmpty_iff.mpr he)
    · exact h
  unfold pickPort
  dsimp only
  split
  · exact ⟨_, rfl⟩
  · obtain ⟨q, hq⟩ := Option.ne_none_iff_exists'.mp (mt List.head?_eq_none_iff.mp hcands)
    exact ⟨q, Prod.ext hq rfl⟩

theorem portFor_up (avoid : Option Nat) {c : Ctl} (h : canSend c = true) : ∃ q, portFor avoid c = (some q, (fresh c).2) := by
  obtain ⟨hid, hup⟩ := Bool.and_eq_true_iff.mp h
  have hports : portsUp c ≠ [] := by simpa using hup
  simp only [portFor, hid, Bool.not_true, Bool.false_eq_true, if_false]
  exact pickPort_up avoid hports

/-- Where a packet can leave, it goes out on a port. -/
theorem sendPkt_out (phys cls : Nat) (x : SrcPkt) {s : State} (h : canSend s.c = true) :
    ∃ q o, (sendPkt phys cls x s).2 = onCtl (fun c => outOn q o phys (fresh c).2) s := by
  obtain ⟨q, hq⟩ := portFor_up (if x.port < 18 then some x.port else none) h
  exact ⟨q, _, by simp only [sendPkt, putOnPort, hq]; rfl⟩

theorem sendOnly_outOn (q : Nat) (o : Nat → Out) (phys : Nat) (c : Ctl) : SendOnly c (outOn q o phys c) :=
  (sendOnly_fresh c).trans (((regsOnly_bump _ 1 _).trans (regsOnly_modCount _ 1 _)).sendOnly.trans (sendOnly_emit _ _))

theorem out_outOn (q : Nat) (o : Nat → Out) (phys : Nat) (c : Ctl) : (outOn q o phys c).out.length = c.out.length + 1 :=
  congrArg (fun l => l.length + 1) (modCount_out _ 1 (bump (Reg.FAB_PORT_TX_PKTS_COUNT q) 1 (fresh c).2))

theorem rd_outOn {g : Fld} (hc : countKey g.key = false) (hk : g.key < 32 * 0xF0009001000) (q : Nat) (o : Nat → Out) (phys : Nat) (c : Ctl) :
    rd (outOn q o phys c) g = rd c g := by
  have hne : g.key ≠ (Reg.FAB_PORT_TX_PKTS_COUNT q).key := by simp only [Reg.FAB_PORT_TX_PKTS_COUNT]; omega
  have hcount := rd_modCount g (192 + 16 * ownerOf (fresh c).2 phys + 0) 1 (bump (Reg.FAB_PORT_TX_PKTS_COUNT q) 1 (fresh c).2) hc
  exact hcount.trans (rd_bump_ne _ _ _ _ hne)

/-- A context in which a packet stands in the place of the one with its sequence number. -/
def putPkt (seq : Nat) (x : SrcPkt) (y : SrcCtx) : SrcCtx := { y with unacked := y.unacked.map (fun w => if w.seq = seq then x else w) }

/-- A packet that goes again is counted (R319). -/
def countResend (phys : Nat) (c : Ctl) : Ctl := countF (ownerOf c phys) 4 1 (bump Reg.FAB_RETX_COUNT 1 c)

theorem regsOnly_countResend (phys : Nat) (c : Ctl) : RegsOnly c (countResend phys c) := (regsOnly_bump _ 1 c).trans (regsOnly_modCount _ 1 _)

theorem rd_countResend (phys : Nat) (c : Ctl) :
    rd (countResend phys c) Reg.FAB_RETX_COUNT = Nat.min (rd c Reg.FAB_RETX_COUNT + 1) (2 ^ Reg.FAB_RETX_COUNT.len - 1) := by
  rw [countResend, countF, rd_modCount _ _ _ _ (by decide), rd_bump_self]

theorem resend_eq {phys cls seq : Nat} {s : State} {ctx : SrcCtx} {x : SrcPkt} (h : s.c.fab.src.find? (isSrc phys cls) = some ctx)
    (hx : ctx.unacked.find? (fun x => x.seq == seq) = some x) (ht : x.tries < rd s.c Reg.FAB_REORDER_RETRY_LIMIT) :
    resend phys cls seq s = ([], mapSrc phys cls (putPkt seq (sendPkt phys cls { x with tries := x.tries + 1 } s).1)
      (onCtl (countResend phys) (sendPkt phys cls { x with tries := x.tries + 1 } s).2)) := by
  simp only [resend, h, hx]
  rw [if_neg (Nat.not_le.mpr ht)]
  rfl

/-- The source after a packet has been sent again: it has gone out once more and is counted, and stands in its context with one more
try. -/
structure Resent (phys cls seq : Nat) (x : SrcPkt) (s t : State) : Prop where
  mem : t.mem = s.mem
  quiet : t.c.quiet = s.c.quiet
  out : t.c.out.length = s.c.out.length + 1
  count : bumped Reg.FAB_RETX_COUNT 1 s t
  ctx : ∃ y, t.c.fab.src.find? (isSrc phys cls) = some y ∧ ∃ z ∈ y.unacked, z.seq = seq ∧ z.tries = x.tries + 1 ∧ z.body = x.body

/-- A packet that has tries left goes again, where packets can leave. -/
theorem resend_resent {phys cls seq : Nat} {s : State} {ctx : SrcCtx} {x : SrcPkt} (hcan : canSend s.c = true)
    (h : s.c.fab.src.find? (isSrc phys cls) = some ctx) (hx : ctx.unacked.find? (fun x => x.seq == seq) = some x)
    (ht : x.tries < rd s.c Reg.FAB_REORDER_RETRY_LIMIT) : ∃ t, resend phys cls seq s = ([], t) ∧ Resent phys cls seq x s t := by
  have hseq : x.seq = seq := by simpa using List.find?_some hx
  rw [resend_eq h hx ht]
  obtain ⟨q, o, hsent⟩ := sendPkt_out phys cls { x with tries := x.tries + 1 } hcan
  rw [hsent]
  have hsend : SendOnly s.c (outOn q o phys (fresh s.c).2) := (sendOnly_fresh s.c).trans (sendOnly_outOn q o phys _)
  have hcount := regsOnly_countResend phys (outOn q o phys (fresh s.c).2)
  refine ⟨_, rfl, rfl, ?_, ?_, ?_, ?_⟩
  · rw [mapSrc_quiet, onCtl_c, onCtl_c, hcount.quiet]
    exact hsend.quiet
  · rw [mapSrc_out, onCtl_c, onCtl_c, hcount.out]
    exact out_outOn q o phys _
  · rw [bumped, mapSrc_rd, onCtl_c, rd_countResend, onCtl_c, rd_outOn (by decide) (by decide)]
    rfl
  · refine ⟨_, mapSrc_find (f := putPkt _ _) (fun _ => rfl) (ctx := ctx) ?_, _, List.mem_map.mpr ⟨x, List.mem_of_find?_eq_some hx, if_pos hseq⟩, hseq, rfl, rfl⟩
    rw [onCtl_c, onCtl_c, hcount.fab, hsend.fab]
    exact h

/-- While a packet comes in, one can leave: FAB_ID is valid and a port is up (R300, R307). -/
theorem canSend_comesIn {port : Fin 18} {typ : Nat} {bs : List Byte} {p : Pkt} {s : State} (h : comesIn port typ bs p s.c) :
    canSend (takenIn port p s).c = true := by
  obtain ⟨hup, -, -, hacc⟩ := h
  have hid : rdb s.c Reg.FAB_ID_VALID = true := by
    cases hid : rdb s.c Reg.FAB_ID_VALID with
    | true => rfl
    | false => simp [accepts, hid] at hacc
  have hport : port.val ∈ portsUp (takenIn port p s).c := by
    simp only [portsUp, List.mem_filter, List.mem_range, rd_takenIn (apartFromPorts_portState _), beq_iff_eq]
    exact ⟨port.isLt, hup⟩
  rw [canSend, rdb_takenIn (apartFromPorts_below (by decide) (by decide)), hid, Bool.true_and, Bool.not_eq_true', List.isEmpty_eq_false_iff]
  exact List.ne_nil_of_mem hport

/-! ### The rows -/

theorem takeOn_congr {c d : Ctl} (ht : d.tiles = c.tiles) (ha : d.ad = c.ad) (i : Nat) : takeOn d i = takeOn c i := by
  unfold takeOn tileAt takeAt
  rw [ht, ha]

section
variable {port : Fin 18} {bs : List Byte} {p : Pkt} {s : State}

/-- A packet whose effect leaves nothing to run or to settle. -/
theorem arrive_settles {typ : Nat} {run : Pkt → State → State} {t : State} (hin : comesIn port typ bs p s.c) (hrun : run p (takenIn port p s) = t)
    (ht : t.c.quiet = true) : settleAll (drain (arrive port typ bs run s)) = t := by
  rw [arrive_comesIn hin, hrun, settle_drain_quiet t ht]

/-- The context that an answer names has these packets left to be acknowledged. -/
def leftUnacked (p : Pkt) (l : List SrcPkt) (t : State) : Prop :=
  ∃ y, t.c.fab.src.find? (isSrc p.src (p.arg % 4)) = some y ∧ y.unacked = l

theorem messageComplete_completes {ctx : SrcCtx} {x : SrcPkt} {i : Nat} {m : OutMsg} (hq : s.c.quiet = true) (hin : comesIn port 3 bs p s.c)
    (hgen : p.gen = moduleGen s.c) (hfind : s.c.fab.src.find? (isSrc p.src (p.arg % 4)) = some ctx) (hu : ctx.unacked = [x])
    (hb : ctx.backlog = []) (hlast : x.last = true) (howner : x.owner = .tile i m.id) (hseq : seqLe x.seq p.seq = true)
    (hm : (tileAt s.c i).msgs = [m]) (hsem : semCount s.c i m.sem < 65535) :
    Completes (.messageComplete port bs) s fun t => bytesKept s t ∧ (tileAt t.c i).msgs = [] ∧
      semCount t.c i m.sem = semCount s.c i m.sem + 1 ∧ leftUnacked p [] t := by
  have hregs := regsOnly_takenIn port p s
  rw [← moduleGen_takenIn port p s] at hgen
  rw [← hregs.fab] at hfind
  rw [tileAt, ← hregs.tiles] at hm
  rw [← semCount_congr hregs.tiles hregs.share] at hsem ⊢
  have hack := onAck_sole hgen hfind hu hlast howner hseq hm hsem
  obtain ⟨f, hpump, y, hy, hleft⟩ := pumpCtx_released hfind hb (congrArg FabSt.src (completed_fab i m (released p (takenIn port p s))))
  rw [hpump] at hack
  refine ⟨_, congrArg Host.Outcome.next (arrive_settles hin hack (completed_quiet i m (released_quiet p (takenIn_quiet hq port p)))),
    fun a => ?_, completed_msgs i m _, ?_, y, hy, ?_⟩
  · rw [mapSrc_mem, completed_mem]; rfl
  · rw [semCount_congr (mapSrc_tiles ..) (mapSrc_share ..), completed_semCount,
      semCount_congr (released_tiles p _) (released_share p _)]
  · rw [hleft, hu]; simp [hseq]

theorem wilefAck_releases {ctx : SrcCtx} (hq : s.c.quiet = true) (hin : comesIn port 3 bs p s.c) (hgen : p.gen = moduleGen s.c)
    (hfind : s.c.fab.src.find? (isSrc p.src (p.arg % 4)) = some ctx) (hb : ctx.backlog = [])
    (hl : ∀ x ∈ ctx.unacked, seqLe x.seq p.seq = true → x.last = false) :
    Completes (.wilefAck port bs) s fun t => bytesKept s t ∧ (∀ i, tileAt t.c i = tileAt s.c i) ∧
      leftUnacked p (ctx.unacked.filter (fun x => !seqLe x.seq p.seq)) t := by
  have hregs := regsOnly_takenIn port p s
  rw [← moduleGen_takenIn port p s] at hgen
  rw [← hregs.fab] at hfind
  have hack := onAck_noLast hgen hfind hl
  obtain ⟨f, hpump, hleft⟩ := pumpCtx_released hfind hb rfl
  rw [hpump] at hack
  refine ⟨_, congrArg Host.Outcome.next (arrive_settles hin hack (released_quiet p (takenIn_quiet hq port p))), fun _ => rfl, fun i => ?_, hleft⟩
  rw [tileAt, mapSrc_tiles, released_tiles, hregs.tiles, tileAt]

theorem nak_resends {ctx : SrcCtx} {x : SrcPkt} (hq : s.c.quiet = true) (hin : comesIn port 4 bs p s.c) (hgen : p.gen = moduleGen s.c)
    (hfind : s.c.fab.src.find? (isSrc p.src (p.arg % 4)) = some ctx) (hx : ctx.unacked.find? (fun x => x.seq == p.seq) = some x)
    (ht : x.tries < rd s.c Reg.FAB_REORDER_RETRY_LIMIT) :
    Completes (.nak port bs) s (Resent p.src (p.arg % 4) p.seq x (takenIn port p s)) := by
  rw [← moduleGen_takenIn port p s] at hgen
  rw [← (regsOnly_takenIn port p s).fab] at hfind
  rw [← rd_takenIn (apartFromPorts_below (by decide) (by decide)) port p s] at ht
  obtain ⟨t, hres, hsent⟩ := resend_resent (canSend_comesIn hin) hfind hx ht
  refine ⟨t, congrArg Host.Outcome.next (arrive_settles hin ((answerOf_current hgen _).trans ?_) (hsent.quiet.trans (takenIn_quiet hq port p))), hsent⟩
  rw [hres]
  rfl

theorem refuse_ends {i k : Nat} {m : OutMsg} {x : Take} (hq : s.c.quiet = true) (hj : journalOk s.c = true) (hin : comesIn port 5 bs p s.c)
    (hgen : p.gen = moduleGen s.c) (hi : i < 192) (hid : p.msgId / 2 ^ 24 = i)
    (hm : (tileAt s.c i).msgs.find? (fun y => y.id == p.msgId % 2 ^ 24) = some m) (ht : takeOn s.c i = some (k, x)) (hx : x.st = .started) :
    Completes (.refuse port bs) s (endedAs k 0x0404 i m.pc m.dst) := by
  have hregs : RegsOnly s.c (onCtl (raise Reg.FAB_EVENTS_REFUSED) (takenIn port p s)).c := (regsOnly_takenIn port p s).trans (regsOnly_raise _ _)
  have hfail : failMsg i (p.msgId % 2 ^ 24) 0x0404 (onCtl (raise Reg.FAB_EVENTS_REFUSED) (takenIn port p s)) =
      ngAt i 0x0404 m.pc m.dst (onCtl (raise Reg.FAB_EVENTS_REFUSED) (takenIn port p s)) := by
    rw [tileAt, ← hregs.tiles] at hm
    simp only [failMsg, tileAt, hm]
  rw [← moduleGen_takenIn port p s] at hgen
  refine ⟨_, rfl, ?_⟩
  rw [arrive_comesIn hin, answerOf_current hgen, if_pos (hid ▸ hi), hid, hfail]
  refine ngOn_endedAs _ _ _ _ (Ctl.calm_of_quiet (hregs.quiet.trans hq)) ?_ ?_ hx
  · rw [journalOk, hregs.ad]; exact hj
  · rw [takeOn_congr hregs.tiles hregs.ad]; exact ht

/-- An answer of another generation is counted as dropped, and changes neither memory nor the fabric nor the AD (R322). -/
def droppedStale (s t : State) : Prop :=
  bumped Reg.FAB_DROP_GEN_COUNT 1 s t ∧ t.mem = s.mem ∧ t.c.fab = s.c.fab ∧ t.c.ad = s.c.ad

theorem stale_dropped {typ : Nat} {run : Pkt → State → State} {act : State → State} (hq : s.c.quiet = true) (hgen : p.gen ≠ moduleGen s.c)
    (hin : comesIn port typ bs p s.c) (hrun : run p = answerOf p act) : droppedStale s (settleAll (drain (arrive port typ bs run s))) := by
  have hregs := regsOnly_takenIn port p s
  rw [← moduleGen_takenIn port p s] at hgen
  rw [arrive_settles hin ((congrFun hrun _).trans (answerOf_stale hgen act)) ((regsOnly_bump _ 1 _).quiet.trans (takenIn_quiet hq port p))]
  refine ⟨?_, rfl, hregs.fab, hregs.ad⟩
  rw [bumped, onCtl_c, rd_bump_self, rd_takenIn (apartFromPorts_below (by decide) (by decide))]

end

/-- Settles O34: an answer of the module's generation acts on the context or the message it names; one of another generation is only
counted. -/
theorem answersReachTheSource : Obligations.AnswersReachTheSource := by
  unfold Obligations.AnswersReachTheSource
  intro s port bs p hq hj found now_ old
  refine ⟨fun ctx x i n m hin ⟨hgen, hfind⟩ hu hb hlast howner hseq hm hid hsem => ?_, fun ctx hin ⟨hgen, hfind⟩ hb hl => ?_,
    fun ctx x hin ⟨hgen, hfind⟩ hx ht => ?_, fun i m k x hin hgen hi hid hm ht hx => ?_, fun hgen => ⟨fun hin => ?_, fun hin => ?_, fun hin => ?_⟩⟩
  · exact messageComplete_completes hq hin hgen hfind hu hb hlast (hid ▸ howner) hseq hm hsem
  · exact wilefAck_releases hq hin hgen hfind hb hl
  · obtain ⟨t, hrun, hsent⟩ := nak_resends hq hin hgen hfind hx ht
    refine ⟨t, hrun, fun a => congrArg (getByte · a) hsent.mem, ?_, ?_, hsent.ctx⟩
    · rw [hsent.out, (regsOnly_takenIn port p s).out]
    · have hcount := hsent.count
      rwa [bumped, rd_takenIn (apartFromPorts_below (by decide) (by decide))] at hcount
  · exact refuse_ends hq hj hin hgen hi hid hm ht hx
  · exact ⟨⟨_, rfl, stale_dropped hq hgen hin rfl⟩, ⟨_, rfl, stale_dropped hq hgen hin rfl⟩⟩
  · exact ⟨_, rfl, stale_dropped hq hgen hin rfl⟩
  · exact ⟨_, rfl, stale_dropped hq hgen hin rfl⟩

end Sys2Proof.Machine
end
